-- ==== Sys2Proof/Word.lean ====
section
/-! DEFINITION. The words of the machine (spec/00_scope.md R6, R7; spec/05_instruction_words.md R122) and the two kinds of
table the state is made of. -/

namespace Sys2Proof

/-- A byte of memory. -/
abbrev Byte := BitVec 8

/-- A 32-bit register or instruction word. -/
abbrev Word := BitVec 32

/-- A 64-bit value, as an even and odd pair of registers holds (R7). -/
abbrev DWord := BitVec 64

/-- One bit per logical lane of a group, lanes 0 to 95 (R149). -/
abbrev LaneMask := BitVec 96

/-- Values of w bits by key; a key that is not listed reads as 0. In canonical form the keys rise strictly and no listed
value is 0. -/
abbrev Cells (w : Nat) := List (Nat × BitVec w)

/-- Records by key; a key that is not listed reads as a default that the reader names. -/
abbrev Tab (α : Type) := List (Nat × α)

end Sys2Proof
end

