-- ==== Sys2Proof/Syntax.lean ====
section
/-! DEFINITION. The instructions and operations of the device: one constructor of Instr per row of the opcode table
(spec/05_instruction_words.md R126 to R137 for the words, spec/95_what_each_step_holds.md for the operations and
events). A word's constructor holds the fields of its format (R114); an operation's constructor holds what names
the place where it happens and the value that arrives. -/

namespace Sys2Proof

/-- The comparison of SCMP and SCMP64 (R127). -/
inductive Cc where
  | eq | ne | ltS | leS | ltN | leN
  deriving DecidableEq, Repr

/-- The code of each Cc. -/
def Cc.code : Cc → Nat
  | .eq => 0
  | .ne => 1
  | .ltS => 2
  | .leS => 3
  | .ltN => 4
  | .leN => 5

/-- The size and extension of SLD (R127, R182). -/
inductive LdSize where
  | n8 | s8 | n16 | s16 | b32 | b64
  deriving DecidableEq, Repr

/-- The code of each LdSize. -/
def LdSize.code : LdSize → Nat
  | .n8 => 0
  | .s8 => 1
  | .n16 => 2
  | .s16 => 3
  | .b32 => 4
  | .b64 => 5

/-- The size of SST (R127, R182). -/
inductive StSize where
  | b8 | b16 | b32 | b64
  deriving DecidableEq, Repr

/-- The code of each StSize. -/
def StSize.code : StSize → Nat
  | .b8 => 0
  | .b16 => 1
  | .b32 => 2
  | .b64 => 3

/-- The element type code (R41). -/
inductive ElemType where
  | s8x4 | n8x4 | s16x2 | n16x2 | s32 | n32 | f16x2 | bf16x2 | f32 | f64 | s64 | n64 | e4m3x4 | e5m2x4
  deriving DecidableEq, Repr

/-- The code of each ElemType. -/
def ElemType.code : ElemType → Nat
  | .s8x4 => 0
  | .n8x4 => 1
  | .s16x2 => 2
  | .n16x2 => 3
  | .s32 => 4
  | .n32 => 5
  | .f16x2 => 6
  | .bf16x2 => 7
  | .f32 => 8
  | .f64 => 9
  | .s64 => 10
  | .n64 => 11
  | .e4m3x4 => 12
  | .e5m2x4 => 13

/-- The MX format of VQUANT and VDEQ, sub 0x08 to 0x0B (R38, R130). -/
inductive MxFmt where
  | mxe4m3 | mxe5m2 | mxe2m1 | mxint8
  deriving DecidableEq, Repr

/-- The code of each MxFmt. -/
def MxFmt.code : MxFmt → Nat
  | .mxe4m3 => 8
  | .mxe5m2 => 9
  | .mxe2m1 => 10
  | .mxint8 => 11

/-- The source of VEXPAND (R130). -/
inductive ExpandFmt where
  | e2m3 | e3m2 | e2m1 | s4 | n4
  deriving DecidableEq, Repr

/-- The code of each ExpandFmt. -/
def ExpandFmt.code : ExpandFmt → Nat
  | .e2m3 => 0
  | .e3m2 => 1
  | .e2m1 => 2
  | .s4 => 3
  | .n4 => 4

/-- The vote of VVOTE (R131). -/
inductive VoteMode where
  | all | any | uni
  deriving DecidableEq, Repr

/-- The code of each VoteMode. -/
def VoteMode.code : VoteMode → Nat
  | .all => 0
  | .any => 1
  | .uni => 2

/-- The operation of VREDI (R131). -/
inductive RedOp where
  | add | min | max | and | or | xor
  deriving DecidableEq, Repr

/-- The code of each RedOp. -/
def RedOp.code : RedOp → Nat
  | .add => 0
  | .min => 1
  | .max => 2
  | .and => 3
  | .or => 4
  | .xor => 5

/-- The operation of VSCAN (R131). -/
inductive ScanOp where
  | add | min | max
  deriving DecidableEq, Repr

/-- The code of each ScanOp. -/
def ScanOp.code : ScanOp → Nat
  | .add => 0
  | .min => 1
  | .max => 2

/-- The access size of LDS, STS and LDC (R132). -/
inductive AccSize where
  | b32 | b64 | b128
  deriving DecidableEq, Repr

/-- The code of each AccSize. -/
def AccSize.code : AccSize → Nat
  | .b32 => 0
  | .b64 => 1
  | .b128 => 2

/-- The operation of ATOM, RED and SCATADD (R132, R246). -/
inductive AtomOp where
  | add | minS | minN | maxS | maxN | and | or | xor | exch | cas | fadd
  deriving DecidableEq, Repr

/-- The code of each AtomOp. -/
def AtomOp.code : AtomOp → Nat
  | .add => 0
  | .minS => 1
  | .minN => 2
  | .maxS => 3
  | .maxN => 4
  | .and => 5
  | .or => 6
  | .xor => 7
  | .exch => 8
  | .cas => 9
  | .fadd => 10

/-- The scope of LD.acq, ST.rel and the atomics (R132). -/
inductive Scope where
  | blk | spn | mod | sys
  deriving DecidableEq, Repr

/-- The code of each Scope. -/
def Scope.code : Scope → Nat
  | .blk => 0
  | .spn => 1
  | .mod => 2
  | .sys => 3

/-- The what a barrier form names (R133). -/
inductive BarSpace where
  | word | scr | num
  deriving DecidableEq, Repr

/-- The code of each BarSpace. -/
def BarSpace.code : BarSpace → Nat
  | .word => 0
  | .scr => 1
  | .num => 2

/-- The operation of LOP and LOPS (R136). -/
inductive LoftOp where
  | add | sub | mul | and | or | xor | andn | not
  deriving DecidableEq, Repr

/-- The code of each LoftOp. -/
def LoftOp.code : LoftOp → Nat
  | .add => 0
  | .sub => 1
  | .mul => 2
  | .and => 3
  | .or => 4
  | .xor => 5
  | .andn => 6
  | .not => 7

/-- The comparison of LCMP and LCMPS (R136). -/
inductive LoftCc where
  | eq | lt | le | gt | ge
  deriving DecidableEq, Repr

/-- The code of each LoftCc. -/
def LoftCc.code : LoftCc → Nat
  | .eq => 0
  | .lt => 1
  | .le => 2
  | .gt => 3
  | .ge => 4

/-- The scope a two-bit scope field names (R132). -/
def Scope.ofBits (b : BitVec 2) : Scope :=
  if b = 0 then .blk else if b = 1 then .spn else if b = 2 then .mod else .sys

/-- The access types of R227, with the codes 0 to 5. -/
inductive AccType where
  | read | write | atomic | fetch | engRead | engWrite
  deriving DecidableEq, Repr

/-- The code of each AccType (R227). -/
def AccType.code : AccType → Nat
  | .read => 0 | .write => 1 | .atomic => 2 | .fetch => 3 | .engRead => 4 | .engWrite => 5

/-- Does the access need Writable and set Dirty (R224, R227)? -/
def AccType.writes : AccType → Bool
  | .write | .atomic | .engWrite => true
  | _ => false

/-- The causes of a rollback or of a pre-emption request (R422, R431). -/
inductive PreemptCause where
  | gangHold | evacuation | contextSave
  deriving DecidableEq, Repr

/-- The header fields and the payload of a flit (R365, R366): its kind, its sequence number, the number it acknowledges and the credits it
returns. -/
structure Flit where
  kind : Nat
  seq : Nat
  ack : Nat
  credits : Nat
  payload : List Byte
  deriving DecidableEq, Repr

/-- What a message between modules asks of its home (R372 to R374). -/
inductive RemoteOp where
  | read (bytes : Nat)
  | write (data : List Byte)
  | runs (runs : List (Nat × List Byte))
  | atomic (op : AtomOp) (bytes : Nat) (operand compare : Nat)
  | addList (float : Bool) (bytes : Nat) (operands : List Nat)
  deriving DecidableEq, Repr

/-- A message that arrives (R371, R372): the module it is for, the source module and the partition of its function, the local
offset it names and what it asks. -/
structure RemoteMsg where
  id : Nat
  dest : Nat
  srcModule : Nat
  partition : Nat
  offset : Nat
  op : RemoteOp
  deriving DecidableEq, Repr

/-- The function for which a gang message is (R101); one that has come over an Itroth link carries the partition of its own function (R372). -/
structure GangFn where
  vf : Nat
  partition : Option Nat
  deriving DecidableEq, Repr

/-- The member that a gang message is about: its index, and the count of members that it names (R87, R101). -/
structure GangMember where
  index : Nat
  count : Nat
  deriving DecidableEq, Repr

/-- What returns to the source of a message (R373, R376, R381, R385). -/
inductive RemoteResp where
  | done (data : List Byte)
  | refused
  | unsupported (abort : Bool)
  | poisoned
  deriving DecidableEq, Repr

/-- What a management message asks (R450). -/
inductive MgmtReq where
  | bootStat (die : Nat)
  | pwrStat
  | linkStat (die link : Nat)
  | temperature (die : Nat)
  | report (die : Nat) (nonce : List Byte)
  | control (bytes : List Byte)     -- an MCTP control message
  deriving DecidableEq, Repr

/-- The registers of the BARs (R8). The first ones are those that a write only stores (the row REGISTER_WRITE): R69 shadow base and enable bits,
R111, R220, R349, R370, R382, R425. The others are written by rows of their own, or are read-only; readOnly is any other one, whose writes
are ignored. -/
inductive RegName where
  | shadowBase (die : Nat)
  | shadowStatus (die q : Nat)
  | profileBase (fn die : Nat)
  | ctxTable (fn die : Nat)
  | dirtyBase (fn die : Nat)
  | fnFlags (fn die : Nat)
  | maxBays (fn die : Nat)
  | ctxSave (fn ctx : Nat)
  | pantryByte (fn off : Nat)
  | fabricByte (off : Nat)
  | apertureBase (fn die : Nat)
  | apertureCtx (fn die : Nat)
  | apertureFlags (fn die : Nat)
  | vectors (fn : Nat)
  | evqcfg (fn die : Nat)
  | evRead (fn die : Nat)
  | evWrite (fn die : Nat)
  | evLost (fn die : Nat)
  | ctxStat (fn ctx : Nat)
  | command (fn die off : Nat)
  | inUse (fn tier : Nat)
  | logWrite (fn : Nat)
  | pantryRecl (fn : Nat)
  | gangres (die n : Nat)
  | govctl (die : Nat)
  | memcfg (die : Nat)
  | loftOwn (die bay : Nat)
  | loftRecl (die : Nat)
  | cellframe (die stack : Nat)
  | linkstat (die link : Nat)
  | linkctl (die link : Nat)
  | portcfg (die : Nat)
  | hdmcfg
  | evacctl (die : Nat)
  | migctl (die fn : Nat)
  | bootstat (die : Nat)
  | pwrctl
  | pwrstat
  | readOnly (off : Nat)
  deriving DecidableEq, Repr


/-- One constructor per row of the opcode table. -/
inductive Instr where
  /-- SMOV, R181: Copies scalar register sA into sD. -/
  | smov (d : BitVec 7) (a : BitVec 7)
  /-- SMOVI, R181: Writes the sign-extended 16-bit immediate into sD. -/
  | smovi (d : BitVec 7) (i : BitVec 16)
  /-- SMOVH, R181: Writes the immediate into the high half of sD and keeps the low half. -/
  | smovh (d : BitVec 7) (i : BitVec 16)
  /-- SADD, R181: Scalar add modulo 2^32. -/
  | sadd (d : BitVec 7) (a : BitVec 7) (b : BitVec 7)
  /-- SSUB, R181: Scalar subtract modulo 2^32. -/
  | ssub (d : BitVec 7) (a : BitVec 7) (b : BitVec 7)
  /-- SMUL, R181: Scalar multiply modulo 2^32. -/
  | smul (d : BitVec 7) (a : BitVec 7) (b : BitVec 7)
  /-- SMULH, R181: Writes the high 32 bits of the exact signed or unsigned product. -/
  | smulh (s : Bool) (d : BitVec 7) (a : BitVec 7) (b : BitVec 7)
  /-- SAND, R181: Scalar bitwise and. -/
  | sand (d : BitVec 7) (a : BitVec 7) (b : BitVec 7)
  /-- SOR, R181: Scalar bitwise or. -/
  | sor (d : BitVec 7) (a : BitVec 7) (b : BitVec 7)
  /-- SXOR, R181: Scalar bitwise xor. -/
  | sxor (d : BitVec 7) (a : BitVec 7) (b : BitVec 7)
  /-- SNOT, R181: Scalar bitwise not. -/
  | snot (d : BitVec 7) (a : BitVec 7)
  /-- SSHL, R181: Scalar shift left by sB. -/
  | sshl (d : BitVec 7) (a : BitVec 7) (b : BitVec 7)
  /-- SSHR, R181: Scalar logical shift right by sB. -/
  | sshr (d : BitVec 7) (a : BitVec 7) (b : BitVec 7)
  /-- SSRA, R181: Scalar arithmetic shift right by sB. -/
  | ssra (d : BitVec 7) (a : BitVec 7) (b : BitVec 7)
  /-- SMIN, R181: Scalar signed or unsigned minimum. -/
  | smin (s : Bool) (d : BitVec 7) (a : BitVec 7) (b : BitVec 7)
  /-- SMAX, R181: Scalar signed or unsigned maximum. -/
  | smax (s : Bool) (d : BitVec 7) (a : BitVec 7) (b : BitVec 7)
  /-- SCMP, R181: Writes 1 to sD if sA compares to sB under the condition, else 0. -/
  | scmp (c : Cc) (d : BitVec 7) (a : BitVec 7) (b : BitVec 7)
  /-- SSEL, R181: Selects sA if the old sD is nonzero, else sB. -/
  | ssel (d : BitVec 7) (a : BitVec 7) (b : BitVec 7)
  /-- SPOPC, R181: Counts the bits set in sA. -/
  | spopc (d : BitVec 7) (a : BitVec 7)
  /-- SCLZ, R181: Counts the leading zeros of sA. -/
  | sclz (d : BitVec 7) (a : BitVec 7)
  /-- SBREV, R181: Reverses the bits of sA. -/
  | sbrev (d : BitVec 7) (a : BitVec 7)
  /-- SBFE, R181: Extracts a bit field of sA, zero- or sign-extended. -/
  | sbfe (s : Bool) (d : BitVec 7) (a : BitVec 7) (b : BitVec 7)
  /-- SLD, R182: Scalar load of 1 to 8 bytes from a 64-bit address plus a scaled offset. -/
  | sld (z : LdSize) (d : BitVec 7) (a : BitVec 7) (b : BitVec 7)
  /-- SST, R182: Scalar store of 1 to 8 bytes to a 64-bit address plus a scaled offset. -/
  | sst (z : StSize) (d : BitVec 7) (a : BitVec 7) (b : BitVec 7)
  /-- SLDA, R182: Reads 4 bytes of constant space into sD. -/
  | slda (d : BitVec 7) (i : BitVec 16)
  /-- SADD64, R181: Adds register pairs modulo 2^64. -/
  | sadd64 (d : BitVec 7) (a : BitVec 7) (b : BitVec 7)
  /-- SSUB64, R181: Subtracts register pairs modulo 2^64. -/
  | ssub64 (d : BitVec 7) (a : BitVec 7) (b : BitVec 7)
  /-- SCMP64, R181: Compares register pairs and writes 1 or 0. -/
  | scmp64 (c : Cc) (d : BitVec 7) (a : BitVec 7) (b : BitVec 7)
  /-- SADD_IMM, R127: sD := sD + sign-extended immediate. -/
  | saddImm (d : BitVec 7) (i : BitVec 16)
  /-- SSUB_IMM, R127: sD := sD − sign-extended immediate. -/
  | ssubImm (d : BitVec 7) (i : BitVec 16)
  /-- SMUL_IMM, R127: sD := sD × sign-extended immediate. -/
  | smulImm (d : BitVec 7) (i : BitVec 16)
  /-- SAND_IMM, R127: sD := sD and zero-extended immediate. -/
  | sandImm (d : BitVec 7) (i : BitVec 16)
  /-- SOR_IMM, R127: sD := sD or zero-extended immediate. -/
  | sorImm (d : BitVec 7) (i : BitVec 16)
  /-- SXOR_IMM, R127: sD := sD xor zero-extended immediate. -/
  | sxorImm (d : BitVec 7) (i : BitVec 16)
  /-- SSHL_IMM, R127: Shifts sD left by imm16[4:0]. -/
  | sshlImm (d : BitVec 7) (i : BitVec 5)
  /-- SSHR_IMM, R127: Shifts sD logically right by imm16[4:0]. -/
  | sshrImm (d : BitVec 7) (i : BitVec 5)
  /-- SSRA_IMM, R127: Shifts sD arithmetically right by imm16[4:0]. -/
  | ssraImm (d : BitVec 7) (i : BitVec 5)
  /-- BRA, R161: Branches the whole split when the guard holds in some live executing lane. -/
  | bra (o : BitVec 24)
  /-- BRX, R151: Divergent branch that divides the split or pushes a deferral record. -/
  | brx (o : BitVec 24)
  /-- CALL, R163: Pushes a return address, raises Depth and jumps to a relative target. -/
  | call (o : BitVec 24)
  /-- CALLX, R163: Calls the code offset held in sA. -/
  | callx (a : BitVec 7)
  /-- ELECT, R167: Chooses the lowest live executing lane and optionally sets a predicate. -/
  | elect (d : BitVec 7) (a : BitVec 7)
  /-- CLAUSE_HEADER, R116: Issues a clause header: waits on flags, applies merges and deferral installs, seeds the signature. -/
  | clauseHeader (w : BitVec 12) (a : BitVec 4) (b : BitVec 4) (l : BitVec 4) (m : Bool) (y : Bool) (s : Bool)
  /-- MODE, R125: Writes MODE[23:3] from the payload. -/
  | mode (g : BitVec 7) (v : Bool) (t : BitVec 4) (r : BitVec 3) (s : Bool) (f : Bool) (b : Bool) (x : Bool) (y : Bool) (z : Bool)
  /-- MODES, R168: Sets MODE[23:3] from sA. -/
  | modes (a : BitVec 7)
  /-- MODES_SWAP, R168: Writes the old MODE to sD and sets MODE from sA. -/
  | modesSwap (d : BitVec 7) (a : BitVec 7)
  /-- WAITF, R169: Waits until every named completion flag reads clear. -/
  | waitf (m : BitVec 12)
  /-- SIGCHK, R170: Checks the signature and the exec mask copy, raising SignatureMismatch on a difference. -/
  | sigchk (i : BitVec 24)
  /-- TRAP, R171: Raises TrapInstruction with the immediate in TRAPINFO. -/
  | trap (i : BitVec 16)
  /-- SYSR, R174: Reads a special register into sD. -/
  | sysr (d : BitVec 7) (n : BitVec 16)
  /-- SYSW, R174: Writes sD to a writable special register. -/
  | sysw (d : BitVec 7) (n : BitVec 16)
  /-- QSUB, R175: Fences, raises a device-side queue's WriteIndex and rings its doorbell. -/
  | qsub (a : BitVec 7) (b : BitVec 7)
  /-- RCOMMIT, R176: Records the group's commit number and restart-live registers. -/
  | rcommit (i : BitVec 16)
  /-- SLEEP, R177: Makes the split wait 16 × imm16 cycles. -/
  | sleep (i : BitVec 16)
  /-- VADD, R184: Vector integer add. -/
  | vadd (d : BitVec 8) (a : BitVec 8) (b : BitVec 8)
  /-- VSUB, R184: Vector integer subtract. -/
  | vsub (d : BitVec 8) (a : BitVec 8) (b : BitVec 8)
  /-- VMUL, R184: Vector integer multiply. -/
  | vmul (d : BitVec 8) (a : BitVec 8) (b : BitVec 8)
  /-- VMULH, R184: High half of the exact vector product. -/
  | vmulh (d : BitVec 8) (a : BitVec 8) (b : BitVec 8)
  /-- VMAD, R184: Vector multiply-add into d. -/
  | vmad (d : BitVec 8) (a : BitVec 8) (b : BitVec 8)
  /-- VMADH, R184: High half of the product added to d. -/
  | vmadh (d : BitVec 8) (a : BitVec 8) (b : BitVec 8)
  /-- VDIV, R185: Vector integer quotient on the divider. -/
  | vdiv (d : BitVec 8) (a : BitVec 8) (b : BitVec 8)
  /-- VREM, R185: Vector integer remainder on the divider. -/
  | vrem (d : BitVec 8) (a : BitVec 8) (b : BitVec 8)
  /-- VDIVM, R185: Vector quotient and remainder into d and its successor. -/
  | vdivm (d : BitVec 8) (a : BitVec 8) (b : BitVec 8)
  /-- VAND, R184: Vector bitwise and. -/
  | vand (d : BitVec 8) (a : BitVec 8) (b : BitVec 8)
  /-- VOR, R184: Vector bitwise or. -/
  | vor (d : BitVec 8) (a : BitVec 8) (b : BitVec 8)
  /-- VXOR, R184: Vector bitwise xor. -/
  | vxor (d : BitVec 8) (a : BitVec 8) (b : BitVec 8)
  /-- VSHL, R184: Vector shift left. -/
  | vshl (d : BitVec 8) (a : BitVec 8) (b : BitVec 8)
  /-- VSHR, R184: Vector logical shift right. -/
  | vshr (d : BitVec 8) (a : BitVec 8) (b : BitVec 8)
  /-- VSRA, R184: Vector arithmetic shift right. -/
  | vsra (d : BitVec 8) (a : BitVec 8) (b : BitVec 8)
  /-- VROT, R184: Vector rotate left. -/
  | vrot (d : BitVec 8) (a : BitVec 8) (b : BitVec 8)
  /-- VMIN, R184: Vector integer minimum. -/
  | vmin (d : BitVec 8) (a : BitVec 8) (b : BitVec 8)
  /-- VMAX, R184: Vector integer maximum. -/
  | vmax (d : BitVec 8) (a : BitVec 8) (b : BitVec 8)
  /-- VBFE, R184: Vector bit-field extract. -/
  | vbfe (d : BitVec 8) (a : BitVec 8) (b : BitVec 8)
  /-- VBFI, R184: Vector bit-field insert. -/
  | vbfi (d : BitVec 8) (a : BitVec 8) (b : BitVec 8)
  /-- VSEL, R184: Selects a or b per lane by the guard. -/
  | vsel (d : BitVec 8) (a : BitVec 8) (b : BitVec 8)
  /-- VADDC, R184: Add with carry in and out through register d+1. -/
  | vaddc (d : BitVec 8) (a : BitVec 8) (b : BitVec 8)
  /-- VSAD, R184: Adds the sum of absolute differences to d. -/
  | vsad (d : BitVec 8) (a : BitVec 8) (b : BitVec 8)
  /-- VDP4, R184: Adds a four-element byte dot product to d. -/
  | vdp4 (d : BitVec 8) (a : BitVec 8) (b : BitVec 8)
  /-- VLUT3, R184: Three-input bitwise lookup by an 8-bit truth table. -/
  | vlut3 (d : BitVec 8) (a : BitVec 8) (i : BitVec 8)
  /-- VMOVI, R184: Writes the sign-extended immediate to each lane. -/
  | vmovi (d : BitVec 8) (i : BitVec 16)
  /-- VMOV, R184: Vector copy. -/
  | vmov (d : BitVec 8) (a : BitVec 8)
  /-- VNOT, R184: Vector bitwise not. -/
  | vnot (d : BitVec 8) (a : BitVec 8)
  /-- VABS, R184: Vector integer absolute value. -/
  | vabs (d : BitVec 8) (a : BitVec 8)
  /-- VNEG, R184: Vector integer negate. -/
  | vneg (d : BitVec 8) (a : BitVec 8)
  /-- VCLZ, R184: Leading zeros per element. -/
  | vclz (d : BitVec 8) (a : BitVec 8)
  /-- VPOPC, R184: Bits set per element. -/
  | vpopc (d : BitVec 8) (a : BitVec 8)
  /-- VBREV, R184: Bits reversed per element. -/
  | vbrev (d : BitVec 8) (a : BitVec 8)
  /-- VLANE, R184: Writes each lane's logical lane number. -/
  | vlane (d : BitVec 8)
  /-- VBCAST, R184: Broadcasts a scalar register or pair to every lane. -/
  | vbcast (d : BitVec 8) (a : BitVec 7)
  /-- VCMP_EQ, R184: Integer compare equal into a predicate. -/
  | vcmpEq (d : BitVec 7) (a : BitVec 8) (b : BitVec 8)
  /-- VCMP_NE, R184: Integer compare not equal into a predicate. -/
  | vcmpNe (d : BitVec 7) (a : BitVec 8) (b : BitVec 8)
  /-- VCMP_LT, R184: Integer compare less than into a predicate. -/
  | vcmpLt (d : BitVec 7) (a : BitVec 8) (b : BitVec 8)
  /-- VCMP_LE, R184: Integer compare less or equal into a predicate. -/
  | vcmpLe (d : BitVec 7) (a : BitVec 8) (b : BitVec 8)
  /-- VCMP_GT, R184: Integer compare greater than into a predicate. -/
  | vcmpGt (d : BitVec 7) (a : BitVec 8) (b : BitVec 8)
  /-- VCMP_GE, R184: Integer compare greater or equal into a predicate. -/
  | vcmpGe (d : BitVec 7) (a : BitVec 8) (b : BitVec 8)
  /-- PAND, R188: Predicate and with optional inversions. -/
  | pand (d : BitVec 7) (a : BitVec 7) (b : BitVec 7) (i : BitVec 3)
  /-- POR, R188: Predicate or with optional inversions. -/
  | por (d : BitVec 7) (a : BitVec 7) (b : BitVec 7) (i : BitVec 3)
  /-- PXOR, R188: Predicate xor with optional inversions. -/
  | pxor (d : BitVec 7) (a : BitVec 7) (b : BitVec 7) (i : BitVec 3)
  /-- PNOT, R188: Predicate not. -/
  | pnot (d : BitVec 7) (a : BitVec 7)
  /-- PMOV, R188: Predicate copy. -/
  | pmov (d : BitVec 7) (a : BitVec 7)
  /-- PSET, R188: Sets a predicate to a constant. -/
  | pset (d : BitVec 7) (i : Bool)
  /-- PCNT, R188: Counts live executing lanes whose predicate is true into a scalar. -/
  | pcnt (d : BitVec 7) (a : BitVec 7)
  /-- PFROMS, R188: Sets a predicate from bits of scalar registers. -/
  | pfroms (d : BitVec 7) (a : BitVec 7)
  /-- PTOS, R188: Writes a predicate mask into three scalar registers. -/
  | ptos (d : BitVec 7) (a : BitVec 7)
  /-- VFADD, R190: Float add with one rounding. -/
  | vfadd (d : BitVec 8) (a : BitVec 8) (b : BitVec 8)
  /-- VFSUB, R190: Float subtract. -/
  | vfsub (d : BitVec 8) (a : BitVec 8) (b : BitVec 8)
  /-- VFMUL, R190: Float multiply. -/
  | vfmul (d : BitVec 8) (a : BitVec 8) (b : BitVec 8)
  /-- VFMA, R190: Fused multiply-add into d. -/
  | vfma (d : BitVec 8) (a : BitVec 8) (b : BitVec 8)
  /-- VFMIN, R190: Float minimum under R50. -/
  | vfmin (d : BitVec 8) (a : BitVec 8) (b : BitVec 8)
  /-- VFMAX, R190: Float maximum under R50. -/
  | vfmax (d : BitVec 8) (a : BitVec 8) (b : BitVec 8)
  /-- VFDIV, R186: Correctly rounded float division on the divider. -/
  | vfdiv (d : BitVec 8) (a : BitVec 8) (b : BitVec 8)
  /-- VFLDEXP, R190: Scales a float by a power of two. -/
  | vfldexp (d : BitVec 8) (a : BitVec 8) (b : BitVec 8)
  /-- VDOT2, R190: Two-term half-precision dot product added to an FP32 d. -/
  | vdot2 (d : BitVec 8) (a : BitVec 8) (b : BitVec 8)
  /-- VFCMP_EQ, R190: Float compare equal into a predicate. -/
  | vfcmpEq (d : BitVec 7) (a : BitVec 8) (b : BitVec 8)
  /-- VFCMP_NE, R190: Float compare not equal into a predicate. -/
  | vfcmpNe (d : BitVec 7) (a : BitVec 8) (b : BitVec 8)
  /-- VFCMP_LT, R190: Float compare less than into a predicate. -/
  | vfcmpLt (d : BitVec 7) (a : BitVec 8) (b : BitVec 8)
  /-- VFCMP_LE, R190: Float compare less or equal into a predicate. -/
  | vfcmpLe (d : BitVec 7) (a : BitVec 8) (b : BitVec 8)
  /-- VFCMP_GT, R190: Float compare greater than into a predicate. -/
  | vfcmpGt (d : BitVec 7) (a : BitVec 8) (b : BitVec 8)
  /-- VFCMP_GE, R190: Float compare greater or equal into a predicate. -/
  | vfcmpGe (d : BitVec 7) (a : BitVec 8) (b : BitVec 8)
  /-- VFCMP_UN, R190: True when either operand is NaN. -/
  | vfcmpUn (d : BitVec 7) (a : BitVec 8) (b : BitVec 8)
  /-- VFCMP_ORD, R190: True when neither operand is NaN. -/
  | vfcmpOrd (d : BitVec 7) (a : BitVec 8) (b : BitVec 8)
  /-- VFABS, R191: Clears the float sign. -/
  | vfabs (d : BitVec 8) (a : BitVec 8)
  /-- VFNEG, R191: Inverts the float sign. -/
  | vfneg (d : BitVec 8) (a : BitVec 8)
  /-- VRCP, R193: Reciprocal: exact transcendental, or correctly rounded on f64. -/
  | vrcp (d : BitVec 8) (a : BitVec 8)
  /-- VRSQ, R193: Exact reciprocal square root. -/
  | vrsq (d : BitVec 8) (a : BitVec 8)
  /-- VSQRT, R191: Correctly rounded square root. -/
  | vsqrt (d : BitVec 8) (a : BitVec 8)
  /-- VEXP2, R193: Exact base-2 exponential. -/
  | vexp2 (d : BitVec 8) (a : BitVec 8)
  /-- VLOG2, R193: Exact base-2 logarithm. -/
  | vlog2 (d : BitVec 8) (a : BitVec 8)
  /-- VSIN, R193: Exact sine. -/
  | vsin (d : BitVec 8) (a : BitVec 8)
  /-- VCOS, R193: Exact cosine. -/
  | vcos (d : BitVec 8) (a : BitVec 8)
  /-- VTANH, R193: Exact hyperbolic tangent. -/
  | vtanh (d : BitVec 8) (a : BitVec 8)
  /-- VFRC, R191: Fractional part. -/
  | vfrc (d : BitVec 8) (a : BitVec 8)
  /-- VFRND, R191: Rounds to an integral value under MODE.Round. -/
  | vfrnd (d : BitVec 8) (a : BitVec 8)
  /-- VFGEXP, R191: floor(log2 |a|) as a float. -/
  | vfgexp (d : BitVec 8) (a : BitVec 8)
  /-- VFCLASS, R191: Writes the class mask of the float. -/
  | vfclass (d : BitVec 8) (a : BitVec 8)
  /-- VACT, R197: Evaluates an activation table by piecewise quadratic. -/
  | vact (d : BitVec 8) (a : BitVec 8) (n : BitVec 2)
  /-- ACTLD, R196: Loads and checks an activation table from global memory. -/
  | actld (a : BitVec 7) (n : BitVec 3)
  /-- VCVT, R198: Converts elements from the source type to MODE.Type. -/
  | vcvt (d : BitVec 8) (a : BitVec 8) (s : ElemType)
  /-- VQUANT, R199: Quantises each 32-lane beat into one MX block. -/
  | vquant (d : BitVec 8) (a : BitVec 8) (f : MxFmt)
  /-- VDEQ, R199: Dequantises MX element and scale codes. -/
  | vdeq (d : BitVec 8) (a : BitVec 8) (f : MxFmt)
  /-- VPACK, R200: Packs narrow elements of two registers into one. -/
  | vpack (d : BitVec 8) (a : BitVec 8) (b : BitVec 8)
  /-- VUNPACK, R200: Widens the low or high elements of a register. -/
  | vunpack (d : BitVec 8) (a : BitVec 8) (h : Bool)
  /-- VEXPAND, R201: Expands 4- or 6-bit elements exactly to E4M3. -/
  | vexpand (d : BitVec 8) (a : BitVec 8) (f : ExpandFmt)
  /-- QSWAPX, R203: Exchanges with the quad partner across x. -/
  | qswapx (d : BitVec 8) (a : BitVec 8)
  /-- QSWAPY, R203: Exchanges with the quad partner across y. -/
  | qswapy (d : BitVec 8) (a : BitVec 8)
  /-- QBCAST, R203: Broadcasts one quad position to its quad. -/
  | qbcast (d : BitVec 8) (a : BitVec 8) (p : BitVec 2)
  /-- QDIFF, R203: Quad difference along x or y. -/
  | qdiff (d : BitVec 8) (a : BitVec 8) (y : Bool)
  /-- VSHFL, R204: Reads a from the lane named in vB. -/
  | vshfl (d : BitVec 8) (a : BitVec 8) (b : BitVec 8)
  /-- VSHFLUP, R204: Reads a from lane L − imm8. -/
  | vshflup (d : BitVec 8) (a : BitVec 8) (i : BitVec 8)
  /-- VSHFLDN, R204: Reads a from lane L + imm8. -/
  | vshfldn (d : BitVec 8) (a : BitVec 8) (i : BitVec 8)
  /-- VSHFLX, R204: Reads a from lane L xor imm8. -/
  | vshflx (d : BitVec 8) (a : BitVec 8) (i : BitVec 8)
  /-- VVOTE, R205: Votes all, any or uniform over the active set into a scalar. -/
  | vvote (m : VoteMode) (d : BitVec 7) (a : BitVec 7)
  /-- VBALLOT, R205: Writes the mask of active lanes whose predicate is true. -/
  | vballot (d : BitVec 7) (a : BitVec 7)
  /-- VMATCH, R205: Writes masks of active lanes with equal values. -/
  | vmatch (d : BitVec 8) (a : BitVec 8) (m : Bool)
  /-- VREDI, R206: Integer reduction over the active set. -/
  | vredi (d : BitVec 8) (a : BitVec 8) (o : RedOp)
  /-- VSUMF, R62: Exact float sum over the live lanes. -/
  | vsumf (d : BitVec 8) (a : BitVec 8)
  /-- VSCAN, R206: Inclusive or exclusive scan over the active set. -/
  | vscan (d : BitVec 8) (a : BitVec 8) (o : ScanOp) (e : Bool)
  /-- LD_G32, R240: Global load of 4 bytes per lane. -/
  | ldG32 (d : BitVec 8) (v : BitVec 8) (j : BitVec 6) (h : BitVec 2)
  /-- LD_G64, R240: Global load of 8 bytes per lane. -/
  | ldG64 (d : BitVec 8) (v : BitVec 8) (j : BitVec 6) (h : BitVec 2)
  /-- LD_G128, R240: Global load of 16 bytes per lane. -/
  | ldG128 (d : BitVec 8) (v : BitVec 8) (j : BitVec 6) (h : BitVec 2)
  /-- ST_G32, R241: Global store of 4 bytes per lane. -/
  | stG32 (d : BitVec 8) (v : BitVec 8) (j : BitVec 6) (h : BitVec 2)
  /-- ST_G64, R241: Global store of 8 bytes per lane. -/
  | stG64 (d : BitVec 8) (v : BitVec 8) (j : BitVec 6) (h : BitVec 2)
  /-- ST_G128, R241: Global store of 16 bytes per lane. -/
  | stG128 (d : BitVec 8) (v : BitVec 8) (j : BitVec 6) (h : BitVec 2)
  /-- LDS, R244: Scratch load. -/
  | lds (d : BitVec 8) (v : BitVec 8) (b : BitVec 6) (z : AccSize)
  /-- STS, R244: Scratch store. -/
  | sts (d : BitVec 8) (v : BitVec 8) (b : BitVec 6) (z : AccSize)
  /-- LDC, R244: Constant-space load. -/
  | ldc (d : BitVec 8) (v : BitVec 8) (b : BitVec 6) (z : AccSize)
  /-- LD_ACQ, R243: 32-bit load followed by an acquire at its scope. -/
  | ldAcq (d : BitVec 8) (v : BitVec 8) (j : BitVec 6) (s : Scope)
  /-- ST_REL, R243: Release at its scope followed by a 32-bit store. -/
  | stRel (d : BitVec 8) (v : BitVec 8) (j : BitVec 6) (s : Scope)
  /-- ATOM, R246: Per-lane atomic read-modify-write returning the old value. -/
  | atom (d : BitVec 8) (a : BitVec 8) (o : AtomOp) (p : Bool) (w : Bool) (s : Scope)
  /-- RED, R248: Per-lane atomic update without return. -/
  | red (d : BitVec 8) (a : BitVec 8) (o : AtomOp) (p : Bool) (w : Bool) (s : Scope)
  /-- SCATADD, R249: Combines lanes per address into one atomic addition each. -/
  | scatadd (d : BitVec 8) (a : BitVec 8) (o : AtomOp) (p : Bool) (w : Bool) (s : Scope)
  /-- PREF, R242: Prefetches lines with a cache hint; never faults. -/
  | pref (v : BitVec 8) (j : BitVec 6) (h : BitVec 2)
  /-- FENCE, R399: Fence at a scope, making later writes releases and earlier reads acquires. -/
  | fence (s : BitVec 3)
  /-- ACQ, R400: Acquire on one bound object. -/
  | acq (s : BitVec 3) (a : BitVec 7) (p : Bool)
  /-- REL, R400: Release on one bound object. -/
  | rel (s : BitVec 3) (a : BitVec 7) (p : Bool)
  /-- BIND, R401: Writes an entry of the context's region binding table. -/
  | bind (d : BitVec 7) (a : BitVec 7) (b : BitVec 7)
  /-- UNBIND, R402: Invalidates an entry of the region binding table. -/
  | unbind (a : BitVec 7)
  /-- BARI, R408: Initialises a barrier word or numbered barrier. -/
  | bari (s : BarSpace) (a : BitVec 7) (b : BitVec 7)
  /-- BARA, R409: Releases and arrives at a barrier with a count, returning a token. -/
  | bara (s : BarSpace) (d : BitVec 7) (a : BitVec 7) (b : BitVec 7)
  /-- BART, R409: Releases and arrives with a count and expected bytes. -/
  | bart (s : BarSpace) (d : BitVec 7) (a : BitVec 7) (b : BitVec 7)
  /-- BARW, R410: Waits for a barrier phase to change and acquires. -/
  | barw (s : BarSpace) (a : BitVec 7) (b : BitVec 7)
  /-- BARQ, R411: Reads an atomic snapshot of a barrier into four scalars. -/
  | barq (s : BarSpace) (d : BitVec 7) (a : BitVec 7)
  /-- PATLD, R262: Loads and checks a pattern record into a pattern register. -/
  | patld (p : BitVec 3) (a : BitVec 7)
  /-- SCP, R254: Engine copy from global memory to scratch by record. -/
  | scp (q : BitVec 2) (p : BitVec 3) (a : BitVec 7) (b : BitVec 7)
  /-- SCPO, R254: Engine copy from scratch to global memory by record. -/
  | scpo (q : BitVec 2) (p : BitVec 3) (a : BitVec 7) (b : BitVec 7)
  /-- SGATH, R254: Engine indirect gather into scratch. -/
  | sgath (q : BitVec 2) (p : BitVec 3) (a : BitVec 7) (b : BitVec 7)
  /-- SSCAT, R254: Engine indirect scatter from scratch. -/
  | sscat (q : BitVec 2) (p : BitVec 3) (a : BitVec 7) (b : BitVec 7)
  /-- SDEQ, R256: Engine fill of scratch with MXFP4 blocks dequantised to BF16. -/
  | sdeq (q : BitVec 2) (p : BitVec 3) (a : BitVec 7) (b : BitVec 7)
  /-- SFILL, R263: Engine fill of scratch with a repeated word. -/
  | sfill (d : BitVec 7) (a : BitVec 7) (b : BitVec 7)
  /-- SXPOS, R257: Engine transpose of elements into bit planes in scratch. -/
  | sxpos (q : BitVec 2) (p : BitVec 3) (a : BitVec 7) (b : BitVec 7)
  /-- SCLOSE, R264: Closes the group's current engine batch. -/
  | sclose (d : BitVec 7)
  /-- SWAIT, R265: Waits for batches to complete and acquires their writes. -/
  | swait (a : BitVec 7)
  /-- SQFENCE, R267: Orders later commands of named engine queues after earlier ones. -/
  | sqfence (m : BitVec 4)
  /-- SCANCEL, R268: Cancels uncompleted commands of named engine queues. -/
  | scancel (m : BitVec 4)
  /-- LDT_TILE, R286: Loads a tile register from scratch by descriptor. -/
  | ldtTile (n : BitVec 4) (x : Bool) (d : BitVec 4) (z : BitVec 6)
  /-- LDT_DESCRIPTORS, R286: Loads four descriptor registers from 64 bytes of scratch. -/
  | ldtDescriptors (n : BitVec 2) (i : BitVec 16)
  /-- LDT_COUNTERS, R286: Loads k0–k7 from scratch. -/
  | ldtCounters (i : BitVec 16)
  /-- MMA, R287: Matrix multiply-accumulate of a tile by a scratch B operand. -/
  | mma (n : BitVec 3) (m : BitVec 4) (x : Bool) (d : BitVec 4) (z : BitVec 6)
  /-- MMA_R, R288: Matrix multiply-accumulate against the reuse latch. -/
  | mmaR (n : BitVec 3) (m : BitVec 4)
  /-- ACCZ, R289: Clears an accumulator to unset, unpinned rows. -/
  | accz (n : BitVec 3)
  /-- ACCPIN, R290: Pins every row of an accumulator to an exponent. -/
  | accpin (n : BitVec 3) (e : BitVec 16)
  /-- ACCUNPIN, R290: Clears the pinned bit of every row. -/
  | accunpin (n : BitVec 3)
  /-- ACCREN, R291: Renormalises every set unpinned row now. -/
  | accren (n : BitVec 3)
  /-- ACCRD, R293: Rounds accumulator rows to the target format into scratch. -/
  | accrd (n : BitVec 3) (x : Bool) (d : BitVec 4) (z : BitVec 6)
  /-- ACCRDW, R294: Writes raw accumulator rows to scratch. -/
  | accrdw (n : BitVec 3) (x : Bool) (d : BitVec 4) (z : BitVec 6)
  /-- ACCADD_ACC, R292: Adds another accumulator into an accumulator. -/
  | accaddAcc (n : BitVec 3) (m : BitVec 3)
  /-- ACCADD_SCRATCH, R292: Adds raw rows from scratch into an accumulator. -/
  | accaddScratch (n : BitVec 3) (x : Bool) (d : BitVec 4) (z : BitVec 6)
  /-- ACCSTAT, R295: Writes an accumulator's status record and optionally clears its counts. -/
  | accstat (c : Bool) (n : BitVec 3) (i : BitVec 16)
  /-- MSBAR, R296: Matrix stream arrives at a numbered barrier. -/
  | msbar (n : BitVec 4)
  /-- MSWAIT, R297: Matrix stream consumes one completed barrier phase. -/
  | mswait (n : BitVec 4)
  /-- MSLOOP, R298: Counts a loop counter and branches while below its limit. -/
  | msloop (k : BitVec 3) (o : BitVec 21)
  /-- MSJMP, R299: Matrix stream jump. -/
  | msjmp (o : BitVec 24)
  /-- MSRESTART, R300: Commits the stream's restart-live registers. -/
  | msrestart (i : BitVec 16)
  /-- MSCFG_GUARD, R301: Sets the guard width G. -/
  | mscfgGuard (g : BitVec 5)
  /-- MSCFG_ROUND, R301: Sets the ACCRD target format, rounding and saturation. -/
  | mscfgRound (f : BitVec 4) (s : Bool) (r : BitVec 3)
  /-- MSCFG_SCALE, R301: Loads the tensor scale from scratch. -/
  | mscfgScale (i : BitVec 16)
  /-- MSCFG_WIDE, R301: Sets an accumulator pair's wide mode and clears it. -/
  | mscfgWide (n : BitVec 2) (w : Bool)
  /-- LBAY, R316: Takes a Loft bay into compute mode for the context. -/
  | lbay (d : BitVec 7) (a : BitVec 7)
  /-- LFREE, R317: Returns a Loft bay to cache mode. -/
  | lfree (a : BitVec 7)
  /-- LXIN, R318: Engine command moving memory elements into bay planes. -/
  | lxin (d : BitVec 7) (a : BitVec 7) (q : BitVec 2) (p : BitVec 3)
  /-- LXOUT, R318: Engine command moving bay planes out to memory. -/
  | lxout (d : BitVec 7) (a : BitVec 7) (q : BitVec 2) (p : BitVec 3)
  /-- LOP, R319: Lane arithmetic or logic between two bay fields. -/
  | lop (o : LoftOp) (d : BitVec 7) (a : BitVec 7) (b : BitVec 7)
  /-- LOPS, R319: Lane arithmetic or logic between a bay field and a scalar. -/
  | lops (o : LoftOp) (d : BitVec 7) (a : BitVec 7) (b : BitVec 7)
  /-- LCMP, R320: Compares two bay fields into a one-plane field. -/
  | lcmp (c : LoftCc) (d : BitVec 7) (a : BitVec 7) (b : BitVec 7)
  /-- LCMPS, R320: Compares a bay field with a scalar into a one-plane field. -/
  | lcmps (c : LoftCc) (d : BitVec 7) (a : BitVec 7) (b : BitVec 7)
  /-- LPOP, R321: Counts set planes per lane. -/
  | lpop (d : BitVec 7) (a : BitVec 7)
  /-- LSEL, R322: Selects between two fields per lane by a mask plane. -/
  | lsel (d : BitVec 7) (a : BitVec 7) (b : BitVec 7)
  /-- LSRCH, R323: Counts and finds the lowest lane whose field equals a scalar. -/
  | lsrch (d : BitVec 7) (a : BitVec 7) (b : BitVec 7)
  /-- LSHIFT, R324: Moves field values across lanes by a signed count. -/
  | lshift (d : BitVec 7) (a : BitVec 7) (b : BitVec 7)
  /-- KVX_RD, R360: Resolves each lane's token slot address for reading. -/
  | kvxRd (d : BitVec 8) (a : BitVec 8)
  /-- KVX_WR, R360: Resolves each lane's token slot for writing, extending runs and allocating pages. -/
  | kvxWr (d : BitVec 8) (a : BitVec 8)
  /-- KVPIN, R361: Increments a shelf's reference count. -/
  | kvpin (d : BitVec 8) (a : BitVec 8)
  /-- KVREL, R361: Decrements a shelf's reference count, freeing its pages at zero. -/
  | kvrel (d : BitVec 8) (a : BitVec 8)
  /-- LOFT_OPERATION_END, R310: A Loft operation is performed on its bay and completes for its flag. -/
  | loftOperationEnd (die : Nat) (bay : Nat)
  /-- ATOMIC_COMPLETE, R119: An atomic's old values return and its flag count falls. -/
  | atomicComplete (op : Nat)
  /-- DIVIDER_COMPLETE, R180: A divider form writes its results and queues any arithmetic trap. -/
  | dividerComplete (op : Nat)
  /-- PANTRY_WALK_COMPLETE, R360: The die's Pantry walker finishes resolving a KVX, KVPIN or KVREL, writes the result registers and the instruction completes for its flag. -/
  | pantryWalkComplete (op : Nat)
  /-- LOAD_COMPLETE, R119: A load's data returns and its flag count falls. -/
  | loadComplete (op : Nat)
  /-- STORE_ACK, R239: A store buffer entry's writes are performed and the entry freed. -/
  | storeAck (blk : Nat) (grp : Nat)
  /-- ENGINE_SECTOR_WRITE, R258: The stream engine performs one sector write and credits any barrier word. -/
  | engineSectorWrite (blk : Nat) (grp : Nat) (queue : Nat)
  /-- ACTLD_LOAD_END, R196: An activation table load ends, checked to ready or empty. -/
  | actldLoadEnd (blk : Nat) (grp : Nat) (ent : Nat)
  /-- SLEEP_EXPIRE, R177: A sleeping split's wait ends. -/
  | sleepExpire (blk : Nat) (grp : Nat) (ent : Nat)
  /-- BLOCK_RETIRE, R440: A drained block retires, updating the profile table and freeing resources. -/
  | blockRetire (blk : Nat)
  /-- GRID_RETIRE, R441: A grid whose blocks and children have retired retires and completes its packet. -/
  | gridRetire (grid : Nat)
  /-- MERGE_WAIT_TIMEOUT, R156: A split waiting 1024 cycles at a merge point issues it alone. -/
  | mergeWaitTimeout (blk : Nat) (grp : Nat) (ent : Nat)
  /-- RET, R164: Pops a return address and lowers Depth, or swaps with a deferral record. -/
  | ret
  /-- EXIT, R165: Ends the split or installs its top deferral record. -/
  | exit
  /-- YIELD, R166: Acts as a set Yield bit at the end of the clause. -/
  | yield
  /-- NOP, R166: No effect beyond the signature fold. -/
  | nop
  /-- RTE_RETRY, R173: Restores MODE and SIG from the trap frame and resumes at the trapping word. -/
  | rteRetry
  /-- RTE_CONT, R173: Restores MODE and SIG, folds the trapping word, and resumes after it. -/
  | rteCont
  /-- MSEND, R302: Ends the matrix stream. -/
  | msend
  /-- LWAIT, R325: Waits for the group's earlier Loft operations. -/
  | lwait
  /-- DOORBELL, R71: A doorbell write makes the firmware read WriteIndex and serve the queue. -/
  | doorbell (fn : Nat) (die : Nat) (q : Nat)
  /-- QUEUE_ENABLE, R70: The PF sets ShadowStatus enable; the firmware writes mirrors and resets the marker. -/
  | queueEnable (die : Nat) (q : Nat)
  /-- EVQCFG_WRITE, R65: The PF configures and enables a function's event ring. -/
  | evqcfgWrite (fn : Nat) (die : Nat) (base : Nat) (z : Nat) (vec : Nat) (en : Bool)
  /-- EVREAD_WRITE, R65: The driver advances EvRead. -/
  | evreadWrite (fn : Nat) (die : Nat) (v : Nat)
  /-- EVLOST_WRITE, R65: A write to EvLost sets it to 0. -/
  | evlostWrite (fn : Nat) (die : Nat) (v : Nat)
  /-- QUEUE_CONTROL_POLL, R73: Every 4096 firmware cycles a bound queue's Control is read and a stop request acted on. -/
  | queueControlPoll (die : Nat) (q : Nat)
  /-- LANE_BIND, R74: A free firmware lane binds a waiting queue. -/
  | laneBind (die : Nat) (lane : Nat)
  /-- LANE_RELEASE, R74: A lane releases its queue when empty, stopped, or after 32 packets or 4096 blocked cycles. -/
  | laneRelease (die : Nat) (lane : Nat)
  /-- LOOKAHEAD_READ, R77: The look-ahead stage reads a packet and prefetches images and arguments. -/
  | lookaheadRead (die : Nat) (lane : Nat)
  /-- NOP_PACKET, R86: Issues a NOP packet, which does nothing. -/
  | nopPacket (die : Nat) (lane : Nat)
  /-- DISPATCH, R83: Checks a launch, copies arguments and hands the grid to distributors. -/
  | dispatchPacket (die : Nat) (lane : Nat)
  /-- GANG, R87: Opens a gang in the queue and issues once every member's capacity is reserved. -/
  | gangPacket (die : Nat) (lane : Nat)
  /-- SIGNAL, R86: Performs an atomic store, add or or on a signal word, optionally raising an interrupt. -/
  | signalPacket (die : Nat) (lane : Nat)
  /-- WAITSIG, R86: Issues once a masked signal word meets its condition. -/
  | waitsigPacket (die : Nat) (lane : Nat)
  /-- WAITSIG_POLL, R86: The firmware re-reads a held WAITSIG word on a reported write or every 4096 cycles. -/
  | waitsigPoll (die : Nat) (lane : Nat)
  /-- WAITSIG_TIMEOUT, R86: A WAITSIG timeout raises error 0x0D and appends a wait-timeout record. -/
  | waitsigTimeout (die : Nat) (lane : Nat)
  /-- JOIN, R86: Issues once another queue's marker has reached n. -/
  | joinPacket (die : Nat) (lane : Nat)
  /-- CALL_PACKET, R86: Continues the queue's packets from a buffer. -/
  | callPacket (die : Nat) (lane : Nat)
  /-- RETURN, R86: Closes the innermost open CALL. -/
  | returnPacket (die : Nat) (lane : Nat)
  /-- COPY, R87: Starts a one- or two-dimensional copy on the die's copy engine. -/
  | copyPacket (die : Nat) (lane : Nat)
  /-- COPY_COMPLETE, R79: The copy engine finishes or stops a COPY on a fault. -/
  | copyComplete (die : Nat) (job : Nat)
  /-- CELLAR, R87: Issues a cellar command, checking and accepting or rejecting it. -/
  | cellarPacket (die : Nat) (lane : Nat)
  /-- TASK, R87: Tags an embedded DISPATCH under a session key and sends it to an expander. -/
  | taskPacket (die : Nat) (lane : Nat)
  /-- SQFENCE_PACKET, R86: Issues once named queues' earlier packets have completed, then acquires. -/
  | sqfencePacket (die : Nat) (lane : Nat)
  /-- PHASE, R86: Writes the queue's marker register and Marker field. -/
  | phasePacket (die : Nat) (lane : Nat)
  /-- PLACEMENT_STEP, R93: A distributor resumes waiting blocks and places the first span that fits. -/
  | placementStep (die : Nat)
  /-- BLOCK_RELEASE, R102: Every group and the matrix stream of a carved block are released in one cycle. -/
  | blockRelease (blk : Nat)
  /-- SPAN_STARVING, R95: A span passed over for 65,536 cycles becomes starving. -/
  | spanStarving (die : Nat) (grid : Nat)
  /-- GANGRES_WRITE, R97: Sets a reservation class's cores, owner and enable. -/
  | gangresWrite (die : Nat) (cls : Nat) (v : Nat)
  /-- GANG_HOLD_START, R99: An open GANG at the head starts holding cores on its dies. -/
  | gangHoldStart (die : Nat) (lane : Nat)
  /-- CORE_HELD, R99: A chosen core becomes held once its blocks have retired or been saved. -/
  | coreHeld (die : Nat) (core : Nat)
  /-- HELD, R101: A member reports its holds complete to the coordinator. -/
  | gangHeld (f : GangFn) (gang : Nat) (member : GangMember)
  /-- UNHELD, R101: A member that released holds is uncounted. -/
  | gangUnheld (f : GangFn) (gang : Nat) (member : GangMember)
  /-- COMMIT, R101: The coordinator makes every member's GANG issue-ready. -/
  | gangCommit (f : GangFn) (gang : Nat)
  /-- ABORT, R101: Every member releases its holds and stops its queue. -/
  | gangAbort (f : GangFn) (gang : Nat) (err : Nat)
  /-- GANG_TIMEOUT, R87: A GANG reservation times out with error 0x0D and sends ABORT. -/
  | gangTimeout (die : Nat) (lane : Nat)
  /-- GROUP_OVERDUE, R105: A ready group that has not issued for 2048 cycles becomes overdue. -/
  | groupOverdue (blk : Nat) (grp : Nat)
  /-- GOVERNOR_WINDOW_START, R109: A core refills its matrix issue credit at the start of a 64-cycle window. -/
  | governorWindowStart (die : Nat) (core : Nat)
  /-- GOVERNOR_WINDOW_END, R109: A core raises or lowers its budget B at a window end. -/
  | governorWindowEnd (die : Nat) (core : Nat)
  /-- GOVERNOR_PERIOD, R109: The die's governor resets its stock of raise grants. -/
  | governorPeriod (die : Nat)
  /-- GOVCTL_WRITE, R108: Sets the governor's Max, Floor and RaiseCores. -/
  | govctlWrite (die : Nat) (v : Nat)
  /-- TRAP_DELIVERY_H, R412: A waiting failure is taken before the next clause header a split issues. -/
  | trapDeliveryH (blk : Nat) (grp : Nat) (ent : Nat)
  /-- PAGE_WALK_COMPLETE, R221: A translation walk ends, updating Accessed and Dirty or faulting. -/
  | pageWalkComplete (die : Nat) (fn : Nat) (ctx : Nat) (va : Nat) (acc : AccType)
  /-- PARK_REPLAY, R229: The runtime resolves a parking with action 0, replaying the access. -/
  | parkReplay (fn : Nat) (die : Nat) (park : Nat)
  /-- PARK_DELIVER, R229: The runtime resolves a parking with action 1, delivering the fault. -/
  | parkDeliver (fn : Nat) (die : Nat) (park : Nat)
  /-- INVALIDATE_RANGE, R226: Translation command invalidating a virtual range of a context. -/
  | invalidateRange (fn : Nat) (die : Nat) (ctx : Nat) (va : Nat) (len : Nat) (comp : Nat)
  /-- INVALIDATE_CONTEXT, R226: Translation command invalidating a whole context. -/
  | invalidateContext (fn : Nat) (die : Nat) (ctx : Nat) (comp : Nat)
  /-- HARVEST_DIRTY, R232: Copies named dirty bits to a destination and clears them. -/
  | harvestDirty (fn : Nat) (die : Nat) (ctx : Nat) (bit : Nat) (cnt : Nat) (dst : Nat) (comp : Nat)
  /-- TRANSLATION_COMMAND_DONE, R226: A translation command finishes and writes its completion word. -/
  | translationCommandDone (fn : Nat) (die : Nat)
  /-- MEMCFG_WRITE, R217: Sets Loft window bays, compute maximum and compression. -/
  | memcfgWrite (die : Nat) (v : Nat)
  /-- WINDOW_BAYS_READY, R218: Bays entering window mode finish write-back and zeroing; Busy clears. -/
  | windowBaysReady (die : Nat)
  /-- SECTOR_POISON, R230: An uncorrectable error poisons a 32-byte sector. -/
  | sectorPoison (pa : Nat)
  /-- ENGINE_COMMAND_COMPLETE, R264: An engine command completes and batches may complete. -/
  | engineCommandComplete (blk : Nat) (grp : Nat) (queue : Nat)
  /-- LBAY_COMPLETE, R316: A bay taken from cache mode is written back, zeroed and owned. -/
  | lbayComplete (op : Nat)
  /-- LFREE_COMPLETE, R317: A bay returns to cache mode after earlier operations end. -/
  | lfreeComplete (op : Nat)
  /-- LOFT_RECLAIM, R315: LOFTRECL Go reclaims a compute-mode bay and sets the lost mask. -/
  | loftReclaim (die : Nat) (v : Nat)
  /-- CELLFRAME_WRITE, R339: Sets a stack's cellar frame length and compute interval. -/
  | cellframeWrite (die : Nat) (stack : Nat) (v : Nat)
  /-- COMPUTE_INTERVAL_START, R340: A frame's compute interval begins and cellar parts may start or proceed. -/
  | computeIntervalStart (die : Nat) (stack : Nat)
  /-- CELLAR_PART_END, R333: A cellar unit finishes a command part. -/
  | cellarPartEnd (die : Nat) (unit : Nat)
  /-- CELLAR_PART_POISON, R346: A poisoned sector read by a part ends that part. -/
  | cellarPartPoison (die : Nat) (unit : Nat) (stream : Nat) (va : Nat)
  /-- CELLAR_COMPLETE, R345: A cellar command releases its holds, performs held requests and writes its record. -/
  | cellarComplete (die : Nat) (cmd : Nat)
  /-- PANTRYRECL_WRITE, R357: Starts a Pantry reclaim of a tier to a target. -/
  | pantryreclWrite (fn : Nat) (v : Nat)
  /-- LINK_FLIT_RECEIVE, R366: A receiver corrects and checks a flit, delivering it or sending a NAK. -/
  | linkFlitReceive (die : Nat) (link : Nat) (bytes : List Byte)
  /-- LINK_NAK, R366: A NAK makes the sender resend buffered flits and count a replay. -/
  | linkNak (die : Nat) (link : Nat) (seq : Nat)
  /-- LINKCTL_RETRAIN, R367: Software starts training a link at full rate and width. -/
  | linkctlRetrain (die : Nat) (link : Nat)
  /-- LINKCTL_DISABLE, R368: Holds a link down. -/
  | linkctlDisable (die : Nat) (link : Nat) (v : Nat)
  /-- LINK_TRAINING_END, R367: Training ends narrowed, slowed, or with the port down. -/
  | linkTrainingEnd (die : Nat) (link : Nat) (fail : Nat)
  /-- REMOTE_MESSAGE, R372: A message arrives at its home module, is admitted or refused, and is performed. -/
  | remoteMessage (m : RemoteMsg)
  /-- REMOTE_RESPONSE, R373: A response or acknowledgement returns to the source. -/
  | remoteResponse (id : Nat) (r : RemoteResp)
  /-- REMOTE_RETRY, R375: A home answers Retry and the source schedules a resend. -/
  | remoteRetry (id : Nat)
  /-- REMOTE_RESEND, R375: A retried message is retranslated and resent 1 µs later. -/
  | remoteResend (id : Nat)
  /-- REMOTE_TIMEOUT, R375: A message without response for TimeoutUs fails with RemoteTimeout. -/
  | remoteTimeout (id : Nat)
  /-- HOST_INBOUND_WRITE, R380: An inbound host posted write is performed at the home slice. -/
  | hostInboundWrite (addr : Nat) (bytes : List Byte)
  /-- HOST_INBOUND_READ, R379: A host read of the exposed range or BAR is served. -/
  | hostInboundRead (addr : Nat) (len : Nat)
  /-- PEER_APERTURE_ACCESS, R382: An inbound BAR 4 access is translated through the walker and performed. -/
  | peerApertureAccess (fn : Nat) (off : Nat) (wr : Bool) (bytes : List Byte)
  /-- PORTCFG_WRITE, R378: Sets a port's role for the next reset. -/
  | portcfgWrite (die : Nat) (v : Nat)
  /-- HDMCFG_WRITE, R378: Sets the local HBM range exposed to the host. -/
  | hdmcfgWrite (v : Nat)
  /-- EXTENT_REVOKE, R384: A RevokeIndex write invalidates, drains and frees an expander extent. -/
  | extentRevoke (idx : Nat)
  /-- EXPANDER_VIRAL, R386: An expander link signals viral, losing its extents. -/
  | expanderViral (idx : Nat)
  /-- EXPANDER_LOST, R386: An expander stays down, is removed or revokes, and its extents are lost. -/
  | expanderLost (idx : Nat)
  /-- UPSTREAM_VIRAL, R386: The upstream link signals viral, failing every host-range access. -/
  | upstreamViral
  /-- TASK_RECEIVE, R388: An expander verifies a task packet and launches or refuses it. -/
  | taskReceive (sender : Nat) (bytes : List Byte)
  /-- TASK_RETURN, R389: An expander's tagged return completes a TASK. -/
  | taskReturn (session : Nat) (seq : Nat) (status : Nat) (tag : List Byte)
  /-- PREEMPT_REQUEST, R422: A core halts the named blocks within 900 cycles and saves or rolls them back. -/
  | preemptRequest (blk : Nat) (cause : PreemptCause)
  /-- CONTEXT_SAVE, R427: Saves every resident block and unretired grid of a context. -/
  | contextSave (fn : Nat) (ctx : Nat) (drain : Bool) (comp : Nat)
  /-- CONTEXT_RESUME, R427: Resumes a saved context's grids and blocks on the named dies. -/
  | contextResume (fn : Nat) (ctx : Nat) (mask : Nat) (comp : Nat)
  /-- CONTEXT_STOP, R427: Stops every queue of a context. -/
  | contextStop (fn : Nat) (ctx : Nat) (comp : Nat)
  /-- CONTEXT_START, R427: Restarts the queues that a stop stopped. -/
  | contextStart (fn : Nat) (ctx : Nat) (comp : Nat)
  /-- CONTEXT_COMMAND_DONE, R427: A context command finishes and writes its completion word. -/
  | contextCommandDone (fn : Nat) (ctx : Nat)
  /-- CTXSTAT_CLEAR, R418: Writing 1 to Failed clears a context's failure state. -/
  | ctxstatClear (fn : Nat) (ctx : Nat)
  /-- LANE_DEATH, R420: An uncorrectable lane error kills the lane and queues LaneDead. -/
  | laneDeath (blk : Nat) (grp : Nat) (lanes : LaneMask) (pc : Nat)
  /-- BLOCK_ERROR, R416: An uncorrectable error in block state rolls back or fails the block. -/
  | blockError (blk : Nat) (what : Nat)
  /-- RESTART_RECORD_WRITE, R429: A completed restart record becomes the latest, or its write is abandoned. -/
  | restartRecordWrite (blk : Nat)
  /-- EVACUATE, R435: EVACCTL Go empties a die, saving, rolling back or failing its blocks. -/
  | evacuate (die : Nat) (v : Nat)
  /-- EVACUATION_COMPLETE, R435: Busy clears when every block of the die is saved, rolled back or torn down. -/
  | evacuationComplete (die : Nat)
  /-- MIGCTL_QUIESCE, R437: Sets Quiesce so home slices answer Retry to a function's new messages. -/
  | migctlQuiesce (die : Nat) (fn : Nat) (v : Nat)
  /-- MODULE_RESET, R444: Each die measures fuses and firmware, remaps lanes and releases its firmware core. -/
  | moduleReset
  /-- REPORT, R448: Mailbox operation 1 returns a signed attestation report. -/
  | report (fn : Nat) (die : Nat) (req : Nat) (resp : Nat) (comp : Nat)
  /-- OPEN_TASK_SESSION, R387: Mailbox operation 2 runs the key exchange and returns a session id. -/
  | openTaskSession (fn : Nat) (die : Nat) (req : Nat) (resp : Nat) (comp : Nat)
  /-- CLOSE_TASK_SESSION, R447: Mailbox operation 3 closes a task session. -/
  | closeTaskSession (fn : Nat) (die : Nat) (req : Nat) (resp : Nat) (comp : Nat)
  /-- READ_CERTIFICATE, R447: Mailbox operation 4 returns the die's identity certificate. -/
  | readCertificate (fn : Nat) (die : Nat) (req : Nat) (resp : Nat) (comp : Nat)
  /-- POWER_SAMPLE, R449: Every 1 ms power is sampled and each governor's effective Max adjusted. -/
  | powerSample (watts : Nat) (amps : Nat)
  /-- PWRCTL_WRITE, R449: Sets the package power cap. -/
  | pwrctlWrite (v : Nat)
  /-- MANAGEMENT_MESSAGE, R450: An MCTP message over I3C reads status or fetches a report. -/
  | managementMessage (req : MgmtReq)
  /-- REGISTER_WRITE, R8: A write to a register without behaviour of its own updates its RW fields. -/
  | registerWrite (r : RegName) (v : Nat)
  /-- ORDINARY_INTERVAL_START, R340: At the end of a frame's compute interval the channel returns to ordinary reads, writes and refreshes, and running cellar parts pause. -/
  | ordinaryIntervalStart (die : Nat) (stack : Nat)
  /-- CONTEXT_TEARDOWN, R346: A context is disabled or its function torn down: its bays return to cache mode, unretired children are torn down and unstarted cellar work is discarded. -/
  | contextTeardown (fn : Nat) (ctx : Nat)
  /-- BACK_INVALIDATION_SNOOP_RESPONSE, R379: The host answers a back-invalidation snoop, letting a module write to a line the host holds be performed. -/
  | backInvalidationSnoopResponse (line : Nat)
  /-- BACK_INVALIDATION_FROM_EXPANDER, R383: An expander sends a back-invalidation snoop, and the module writes back and invalidates its cached copies of that expander line. -/
  | backInvalidationFromExpander (line : Nat)
  deriving DecidableEq, Repr

end Sys2Proof
end

