-- ==== Sys2Proof/Machine/State.lean ====
section
/-! DEFINITION. The state of one module, of either fitting (spec/00_scope.md R1, R2): everything spec/ gives it. Registers
are bit vectors; tables are lists in canonical form (Cells) or association lists (Tab); no field is a function. -/

namespace Sys2Proof.Machine

/-- Why a step stops. No instruction of this model stops: every word and operation has an effect in the spec. -/
inductive Fault where
  /-- Nothing raises it: kept so that the outcome type of the host is inhabited by a name. Safe. -/
  | none
  deriving DecidableEq, Repr

/-- Why an instruction is refused. -/
inductive Refusal where
  /-- Raised by Dispatch.lean for an arm whose meaning is not written, with the mnemonic of the opcode table. Safe. -/
  | notModelled (mnemonic : String)
  deriving DecidableEq, Repr

/-- What a waiting split waits for (R148). -/
inductive Wait where
  | header (m : BitVec 12)         -- the Wait field of a header (R118)
  | mask (m : BitVec 12)         -- WAITF (R169)
  | merge (since : Nat)          -- a merge point (R156)
  | sleep (until_ : Nat)         -- SLEEP (R177)
  | barWord (scr : Bool) (at_ : Nat) -- BARW on a barrier word (R410)
  | barNum (n : Nat)             -- BARW on a numbered barrier (R410)
  deriving DecidableEq, Repr

/-- The State field of the split table (R147, R148). -/
inductive Status where
  | empty
  | ready
  | parked (park : Nat)
  | waiting (w : Wait)
  deriving DecidableEq, Repr

/-- A deferral record (R152). -/
structure Deferral where
  live : LaneMask
  exec : LaneMask
  pc : Nat
  depth : Nat
  mode : Word
  sig : Word
  holds : List (Nat × Nat)
  deriving DecidableEq, Repr

/-- The trap frame (R172); ll, left, the flags and the Yield bit are those of the clause whose header stands at hdr (R118, R173). -/
structure Frame where
  pc : Nat
  hdr : Nat
  ll : Nat
  left : Nat
  flagA : Nat
  flagB : Nat
  yieldBit : Bool
  ofStream : Bool
  atH : Bool
  word : Word
  mode : Word
  sig : Word
  deriving DecidableEq, Repr

/-- One entry of a split table (R147). hdr, left, ll, flagA and flagB are the position inside a clause: the offset of the
clause's header, the words still to issue (0 where a header is required), the long-latency words issued and the
header's two flags (R118, R119). held is the model's own: the epoch in which the ready split's next word was found unable to issue (R104;
log 4); loads is the register and the table of an ACTLD whose load is under way (R196); kvFail is the lowest lane of a Pantry instruction under way that
has failed, with its trap (R360); last is the trap frame of the word that issued last, should a message of it meet poison (R412), and atH the header
to which an RTE has returned and that must issue before the next failure is taken (R173). -/
structure Split where
  status : Status := .empty
  pc : Nat := 0
  hdr : Nat := 0
  left : Nat := 0
  ll : Nat := 0
  flagA : Nat := 15
  flagB : Nat := 15
  live : LaneMask := 0
  exec : LaneMask := 0
  execCopy : LaneMask := 0
  depth : Nat := 0
  mode : Word := 0
  sig : Word := 0
  s : Cells 32 := []
  stack : Cells 32 := []
  holds : List (Nat × Nat) := []
  defs : List Deferral := []
  frame : Option Frame := none
  trapCode : Word := 0
  trapInfo : DWord := 0
  latTrap : Option Word := none
  latCycles : Option Word := none
  latBay : Option Word := none
  kvFail : Option (Nat × Nat × DWord) := none
  replay : Option LaneMask := none
  merged : Bool := false
  yieldBit : Bool := false
  lastIssue : Nat := 0
  held : Option Nat := none
  loads : Option (Nat × Nat) := none
  last : Option Frame := none
  atH : Option Nat := none
  deriving DecidableEq, Repr

/-- One write that a store buffer entry holds: the lane, the space, the place and the bytes, or an atomic update; tok names the message, or
the request at its home, by which it has been sent. -/
structure SbWrite where
  lane : Nat
  scr : Bool
  at_ : Nat
  bytes : List Byte
  rmw : Option (AtomOp × Nat × List Nat)
  tok : Option Nat := none
  deriving DecidableEq, Repr

/-- A store buffer entry (R239): its writes that have not been performed, and the failure of the lowest lane that failed (R376, R377). -/
structure SbEntry where
  id : Nat
  writes : List SbWrite
  fail : Option (Nat × Nat × DWord) := none
  deriving DecidableEq, Repr

/-- The data commands of the stream engine (R254, R263, R318). -/
inductive EngKind where
  | scp | scpo | sgath | sscat | sdeq | sxpos | fill | lxin | lxout
  deriving DecidableEq, Repr

/-- A command of an engine queue (R252): its captured operands, the sector writes (elements, for a global destination)
already performed, the commands that SQFENCE makes it wait for, and the accesses of the sector in hand that were asked for and answered, by
number: 4n for element n, 4n + 1 for its index entry, 4n + 2 for its scale, 3 for the sector write, of put elements. stop names the SCANCELs that
wait for the sector write in hand. For LXIN and LXOUT scr is the first lane, and op the Loft operation. -/
structure EngCmd where
  id : Nat
  kind : EngKind
  pat : BitVec 512
  scr : Nat
  word : Option Nat
  fill : Word
  bytes : Nat
  bay : Nat
  field : Word
  batch : BitVec 16
  done : Nat
  fence : List Nat
  op : Nat
  asked : List Nat
  got : Tab (List Byte)
  stop : List Nat := []
  put : Nat := 0
  deriving DecidableEq, Repr

/-- A failure that waits for delivery H (R412). -/
structure Failure where
  code : Nat
  info : DWord
  stream : Bool
  deriving DecidableEq, Repr

/-- A group (R13, R17): its role, its registers, its splits, its buffers, the MMIO windows that it has written since its last release
at sys scope (R380), whether the clause that it completed last had its Yield bit set (R105), and the greatest scope code of the FENCEs and RELs that
it has executed, plus 1 (R395). -/
structure Group where
  gid : Nat := 0
  slot : Nat := 0
  code : Nat := 0
  index : Nat := 0
  vregs : Nat := 0
  lanes : Nat := 96
  absent : LaneMask := 0
  dead : LaneMask := 0
  splits : Tab Split := []
  v : Cells 32 := []
  p : Cells 96 := []
  q : Cells 512 := []
  sb : List SbEntry := []
  unacked : Nat := 0
  closed : BitVec 16 := 0
  done : BitVec 16 := 0
  eng : Tab (List EngCmd) := []
  engPark : Tab Nat := []
  engFence : List (Nat × List Nat) := []
  fails : List Failure := []
  commit : Option (Nat × Cells 32) := none
  lastIssue : Nat := 0
  overdue : Bool := false
  part : Nat := 0
  mmioDirty : List Nat := []
  yielded : Bool := false
  fenced : Nat := 0
  deriving DecidableEq, Repr

/-- A numbered barrier (R281). -/
structure NumBar where
  expected : BitVec 16 := 0
  pending : BitVec 16 := 0
  phase : BitVec 16 := 0
  deriving DecidableEq, Repr

/-- A tile register (R269). -/
structure Tile where
  data : Cells 8 := []
  scales : Cells 8 := []
  tag : BitVec 4 := 0
  valid : Bool := false
  deriving DecidableEq, Repr

/-- A row of an accumulator tile (R54): tags are 0 none, 1 +Inf, 2 −Inf, 3 NaN. -/
structure Row where
  e : Int := 0
  unset : Bool := true
  pinned : Bool := false
  h : Nat := 63
  m : List Int := []
  tags : List Nat := []
  deriving DecidableEq, Repr

/-- An accumulator tile (R54, R269). -/
structure Acc where
  rows : Tab Row := []
  events : Word := 0
  overflows : Word := 0
  deriving DecidableEq, Repr

/-- The reuse latch (R288). -/
structure Latch where
  rows : Cells 8 := []
  scales : Cells 8 := []
  fmt : BitVec 4 := 0
  valid : Bool := false
  deriving DecidableEq, Repr

/-- The matrix stream of a block (R269); old holds the bytes of scratch that the word that issued last overwrote (R277). -/
structure Stream where
  pc : Nat := 0
  hdr : Nat := 0
  left : Nat := 0
  t : Tab Tile := []
  a : Tab Acc := []
  wide : List Nat := []
  k : Cells 32 := []
  d : Cells 128 := []
  g : Nat := 6
  fmt : BitVec 4 := 1
  rm : Nat := 0
  sat : Bool := false
  scale : Word := 0x3F800000
  latch : Latch := {}
  seen : Cells 16 := []
  halted : Bool := false
  retry : Nat := 0
  ended : Bool := false
  parked : Option Nat := none
  waiting : Bool := false
  heldOnce : Bool := false
  commit : Option (Nat × Cells 32 × Cells 128) := none
  old : List (Nat × Byte) := []
  deriving DecidableEq, Repr

/-- An activation table (R195): 0 empty, 1 loading, 2 ready. -/
structure ActTable where
  st : Nat := 0
  data : Cells 8 := []
  w : Word := 0
  addr : Nat := 0
  deriving DecidableEq, Repr

/-- Where a block is in its life. -/
inductive Life where
  | unplaced | carved | running | saved | rolledBack | failed | retired
  deriving DecidableEq, Repr

/-- A block (R13 to R17): its place, its scratch, its groups and its matrix stream; pages and image are the pages of its context's save area that hold
its record, and the bytes of it (R424, R425). -/
structure Block where
  life : Life := .unplaced
  die : Nat := 0
  core : Nat := 0
  grid : Nat := 0
  lin : Nat := 0
  span : Nat := 0
  scratch : Cells 8 := []
  groups : Tab Group := []
  hasMs : Bool := false
  ms : Stream := {}
  msHeld : BitVec 24 := 0
  act : Tab ActTable := []
  bars : Tab NumBar := []
  opportunistic : Bool := false
  preempt : Option PreemptCause := none
  busy : BitVec 48 := 0
  idle : BitVec 48 := 0
  stalled : BitVec 48 := 0
  recN : Nat := 0
  recGen : Nat := 0
  rollbacks : Nat := 0
  recHas : Bool := false
  writing : List (Nat × List Word) := []
  cause : Nat := 0
  resumeOn : BitVec 4 := 0
  pages : List Nat := []
  image : List Byte := []
  deriving DecidableEq, Repr

/-- A grid, as its DISPATCH packet and its image give it (R83, R22, R23); codeCopy is an expander's own copy of a task's code (R388), next counts, per die, the spans placed there, placed the
blocks placed, extra the spans that an evacuation or a resume handed to a die (R427, R435), passedAt says since when a die has passed its next span over
(R93, R95), mmio names the MMIO windows that blocks of it wrote and that are still to be read (R442), and pages and record are the pages of
its context's save area that hold its record, and the bytes of it (R424). -/
structure Grid where
  fn : Nat := 0
  ctx : Nat := 0
  die : Nat := 0
  queue : Nat := 0
  slot : Nat := 0
  packet : Nat := 0
  prio : Nat := 0
  pin : Option Nat := none
  gang : Option Nat := none
  phase : BitVec 8 := 0
  spanSize : Nat := 1
  image : Nat := 0
  code : Nat := 0
  codeBytes : Nat := 0
  codeCopy : Option (Cells 8) := none
  args : Cells 8 := []
  scratchBytes : Nat := 0
  dimX : Nat := 0
  dimY : Nat := 0
  dimZ : Nat := 0
  roles : List (Nat × Nat × Nat × Nat) := []
  descs : List (Nat × Word × Nat) := []
  matrix : Option Nat := none
  msRestart : Nat := 0
  msMask : BitVec 32 := 0
  restartable : Bool := false
  sigEn : Bool := false
  restartBytes : Nat := 0
  restartRec : Nat := 0
  trapEntry : Option Nat := none
  signal : Nat := 0
  signalValue : DWord := 0
  depth : Nat := 0
  parent : Option Nat := none
  children : Nat := 0
  next : Tab Nat := []
  placed : Nat := 0
  order : Nat := 0
  extra : Tab (List Nat) := []
  passedAt : Tab Nat := []
  starving : List Nat := []
  blocksLeft : Nat := 0
  failed : Bool := false
  retired : Bool := false
  qsubs : List (Nat × Nat) := []
  expander : Option (Nat × Nat) := none
  mmio : List Nat := []
  pages : List Nat := []
  record : List Byte := []
  deriving DecidableEq, Repr

/-- What an outstanding operation is (R119). -/
inductive OpKind where
  | load | atomic | divide | engine | loft | pantry | queue
  deriving DecidableEq, Repr

/-- An outstanding long-latency operation: the results that its completion writes, and what it still waits for. A vector
result is a register, a lane and a value; a scalar result a register and a value. -/
structure Op where
  kind : OpKind := .load
  blk : Nat := 0
  grp : Nat := 0
  ent : Nat := 0
  flag : Nat := 15
  vres : List (Nat × Nat × Word) := []
  sres : List (Nat × Word) := []
  remote : Nat := 0
  fail : Option (Nat × DWord) := none
  acq : Nat := 0
  deriving DecidableEq, Repr

/-- A Loft operation at its bay (R310), with its captured words; stopped says that its core has halted since, so that it has left its bay until
its group resumes (R313). -/
structure LoftJob where
  op : Nat
  blk : Nat
  grp : Nat
  die : Nat
  fn : Nat
  ctx : Nat
  bay : Nat
  form : Instr
  dst : Word
  srcA : Word
  srcB : Word
  mask : Word
  scalar : DWord
  sreg : Nat
  stopped : Bool := false
  deriving DecidableEq, Repr

/-- A bay of the Loft (R216, R303): mode 0 cache, 1 window, 2 compute; its planes, the lost-plane map, by plane the subarrays whose row
of it fails its parity, and whether a residue will (R312). -/
structure Bay where
  mode : Nat := 0
  fn : Nat := 0
  ctx : Nat := 0
  planes : Cells 262144 := []
  lost : BitVec 512 := 0
  bad : Cells 128 := []
  resid : Bool := false
  reclaiming : Bool := false
  deriving DecidableEq, Repr

/-- A translation held by a TLB (R225). -/
structure Tlb where
  fn : Nat
  ctx : Nat
  page : Nat
  size : Nat
  pa : Nat
  writable : Bool
  dirty : Bool
  capable : Bool
  pinned : Bool
  domain : Nat
  deriving DecidableEq, Repr

/-- Who parked (R228, R231). -/
inductive Parker where
  | split (blk grp ent : Nat)
  | queue (blk grp e : Nat)
  | stream (blk : Nat)
  | access (id : Nat)            -- a message to another module that met poison (R385)
  deriving DecidableEq, Repr

/-- An unresolved parking (R228, R229). -/
structure Park where
  fn : Nat
  die : Nat
  who : Parker
  poison : Bool
  va : Nat
  lanes : LaneMask
  deriving DecidableEq, Repr

/-- A gang of a queue (R87, R97 to R101), under the number of its GANG packet: its identity, what it reserves, the cores chosen
and those of them that are held, whether HELD was sent and COMMIT has come, the members that a coordinator has counted, and, by die, the
key of the gang to which it gave its holds up. -/
structure Gang where
  queue : Nat := 0
  fn : Nat := 0
  id : Nat := 0
  count : Nat := 0
  index : Nat := 0
  cores : Nat := 0
  mask : BitVec 4 := 0
  since : Nat := 0
  timeout : Nat := 0
  chosen : List (Nat × Nat) := []
  held : List (Nat × Nat) := []
  reported : Bool := false
  committed : Bool := false
  members : List Nat := []
  yielded : Tab Nat := []
  deriving DecidableEq, Repr

/-- A COPY job of a die's copy engine (R87), with its packet's place: its virtual address, the ring slot, the CALL depth and the innermost
position; ended says that its bytes have been copied, or that a fault stopped it, while some of its writes still wait (R344). -/
structure CopyJob where
  at_ : Nat
  pkt : Nat
  queue : Nat
  slot : Nat
  depth : Nat
  inner : Nat
  fn : Nat
  ctx : Nat
  src : Nat
  dst : Nat
  bytes : Nat
  rows : Nat
  spitch : Int
  dpitch : Int
  ended : Option Bool := none
  deriving DecidableEq, Repr

/-- A queue of a die: the shadow entry it was enabled with, the firmware's own state (R66 to R78), and the COPYs that stopped on a
fault and are issued again at a restart (R87). errCopy says that such a COPY, and not the packet at the head, is what ErrorSlot names; again is the
number of open CALLs, and the slot, of a packet that a restart reads at the place of such a COPY (R73). -/
structure Queue where
  enabled : Bool := false
  mismatch : Bool := false
  err : Bool := false
  ring : Nat := 0
  cb : Nat := 0
  z : Nat := 4
  cls : Nat := 0
  fn : Nat := 0
  gangClass : Nat := 0
  ctx : Nat := 0
  vector : Nat := 0
  marker : Word := 0
  readIdx : Nat := 0
  writeIdx : Nat := 0
  waiting : Option Nat := none
  calls : List (Nat × Nat × Nat) := []
  stopped : Bool := false
  cmdStopped : Bool := false
  gang : Option Nat := none
  pendGang : Option Nat := none
  submits : List (Nat × Nat) := []
  redo : List CopyJob := []
  errCopy : Bool := false
  again : Option (Nat × Nat) := none
  deriving DecidableEq, Repr

/-- A firmware lane (R74, R75): its queue, the packets issued since binding, when its head packet came to the head, the steps
that passed it over, the packets read ahead, what an SQFENCE waits for, and whether a poll found its WAITSIG met. -/
structure FwLane where
  queue : Option Nat := none
  issued : Nat := 0
  blockedSince : Nat := 0
  passed : Nat := 0
  ahead : Nat := 0
  fenceSet : Option (List Nat) := none
  waitMet : Bool := false
  deriving DecidableEq, Repr

/-- A packet that has issued and not completed (R79). -/
structure Pkt where
  die : Nat
  queue : Nat
  slot : Nat
  kind : Nat
  deriving DecidableEq, Repr

/-- Who learns that a request at a home has been performed: nobody, the host or a peer that wrote, a message that came over a link, an entry of a store buffer, a lane of an
atomic with its destination registers, an engine queue with its sector write, an event record with its index in the ring of a function on a die, a SIGNAL packet with the vector
that it raises, a COPY packet. -/
inductive Asker where
  | nobody
  | inbound
  | msg (id src : Nat)
  | store (blk grp sb : Nat)
  | lane (op lane : Nat) (regs : List Nat)
  | engine (blk grp q : Nat)
  | record (fn die idx : Nat)
  | signal (pkt fn : Nat) (vec : Option Nat)
  | copy (pkt : Nat)
  deriving DecidableEq, Repr

/-- A request that waits at its home for a held page (R344) or a line that the host holds (R379): the physical address, what it
asks, who learns of it, and the function it counts for. -/
structure HeldReq where
  pa : Nat
  op : RemoteOp
  who : Asker
  fn : Nat
  deriving DecidableEq, Repr

/-- An accepted cellar command (R341 to R346): its queue and ring slot, its parameter block, mask and record address, its parts (the unit,
whether it waits (0), runs (1), has ended (2) or was discarded (3), and the outputs it wrote), the physical page of each stream
of each unit, the pages it holds, those it uses, what a poisoned sector ended, the requests that wait on its holds, those that it has released
and that wait still, and the words, by split and PC, that found a page held (R345). -/
structure CellCmd where
  pkt : Nat
  die : Nat
  queue : Nat
  slot : Nat
  fn : Nat
  ctx : Nat
  prio : Nat
  pb : Cells 8
  mask : BitVec 64
  record : Nat
  parts : List (Nat × Nat × Nat)
  bases : List (Nat × Nat × Nat)
  outPages : List Nat
  usePages : List Nat
  bad : Option (Nat × Nat × Nat)
  held : List HeldReq
  waits : List HeldReq := []
  words : List (Nat × Nat × Nat × Nat) := []
  deriving DecidableEq, Repr

/-- A die (R3): its registers and its controllers; linkWas is LINKSTAT of a link as it stood before the training in progress (R369). -/
structure Die where
  lanes : Tab FwLane := []
  copies : Tab CopyJob := []
  bays : Tab Bay := []
  loft : List LoftJob := []
  lostMask : Tab (BitVec 64) := []
  preparing : List Nat := []
  memcfg : Word := 0x3800
  cellframe : Tab Word := []
  computing : List Nat := []
  govctl : Word := 0x00082018
  effMax : Nat := 8
  stock : Nat := 24
  grant : Nat := 0
  gangres : Cells 32 := []
  shadowBase : Nat := 0
  evac : Word := 0
  migctl : Cells 32 := []
  portcfg : Word := 0
  bootstat : Word := 0xB0
  linkstat : Cells 32 := []
  linkctl : Cells 32 := []
  linkWas : Cells 32 := []
  linkRx : Cells 32 := []
  linkTx : Tab (List Flit) := []
  linkSeq : Cells 32 := []
  replays : Tab (List Nat) := []
  fuse : List Byte := []
  firmware : List Byte := []
  fwStep : List Nat := []
  deriving DecidableEq, Repr

/-- A core (R3, R5, R109): cycle count, budget, credit, and the marks of the current window. -/
structure Core where
  cycles : DWord := 0
  b : Nat := 2
  credit : Int := 0
  heldWin : Bool := false
  issuedWin : Bool := false
  tlb : List Tlb := []
  deriving DecidableEq, Repr

/-- The event queue of a function on a die (R65). unwritten lists the records whose writes still wait at their home (R344): EvWrite has not
passed them. -/
structure EventQ where
  base : Nat := 0
  z : Nat := 0
  vec : Nat := 0
  enabled : Bool := false
  write : Nat := 0
  read : Nat := 0
  lost : Word := 0
  unwritten : List Nat := []
  deriving DecidableEq, Repr

/-- An entry of a region binding table (R394). -/
structure Bind where
  valid : Bool := false
  regionScr : Bool := false
  base : Nat := 0
  size : Nat := 0
  objScr : Bool := false
  obj : Nat := 0
  deriving DecidableEq, Repr

/-- A context of a function (R64): its state registers and what the device keeps for it; viral says that ViralContainment waits for a block of it to
be resumed (R386). -/
structure Context where
  stat : DWord := 0
  save : DWord := 0
  viral : Bool := false
  binds : Tab Bind := []
  torn : Bool := false
  deriving DecidableEq, Repr

/-- An outstanding context command (R427): its operation, context, die mask, drain flag and completion address, whether a save
found its area too small, and whether one with drain has drained and reclaimed its bays. -/
structure CtxCmd where
  op : Nat
  ctx : Nat
  mask : Nat
  drain : Bool
  comp : Nat
  small : Bool
  drained : Bool := false
  deriving DecidableEq, Repr

/-- What a function has on each die: the configuration block of R220, the peer aperture of R382, the bytes of the command blocks at 0x900, 0x940
and 0x980 of its doorbell page (R226, R427, R447), and the mailbox command that is outstanding: its operation and its three addresses. -/
structure FnBlock where
  ctxTable : Nat := 0
  dirtyBase : Nat := 0
  flags : BitVec 8 := 0
  maxBays : Nat := 0
  apBase : Nat := 0
  apCtx : Nat := 0
  apFlags : BitVec 8 := 0
  stage : Cells 8 := []
  mail : Option (Nat × Nat × Nat × Nat) := none
  deriving DecidableEq, Repr

/-- A function: the registers of R111, R349, R350, R357, its blocks on the dies (R220, R382) and the MSI-X vectors that it has been given
(R64; log 69). -/
structure Fn where
  vectors : Nat := 64
  cfg : Tab FnBlock := []
  profile : Tab Nat := []
  pantry : Cells 8 := []
  inUse : Tab Nat := []
  logWrite : Nat := 0
  pantryRecl : Word := 0
  trCmds : List (Nat × Nat × Nat) := []
  ctxCmds : List CtxCmd := []
  ctxs : Tab Context := []
  deriving DecidableEq, Repr

/-- Who makes an access for itself, and may have to wait for another module (R371), for the host (R379) or for a channel (R340) before it can do
what it does: the firmware for a queue, its look-ahead for the packet at the head of a queue, a copy engine's job, a grid that retires, a split,
the fetch of a split or of a matrix stream, a word of a split or of a matrix stream, an operation or event of the opcode table, a unit at the
operation n of its turn, a request that waits at its home. -/
inductive FarWho where
  | queue (q : Nat)
  | head (q : Nat)
  | copy (die pkt : Nat)
  | grid (g : Nat)
  | split (blk grp ent : Nat)
  | fetch (blk grp ent : Nat)
  | stream (blk : Nat)
  | word (blk grp ent : Nat)
  | words (blk : Nat)
  | op (i : Instr)
  | unit (kind id n : Nat)
  | home
  deriving DecidableEq, Repr

/-- What such an agent waits for: the answer of a message to another module (R371), or of those from number n on once more, a line that the host holds (R379), a channel or a bay
(R218, R340). -/
inductive FarAsk where
  | msg (fn pa : Nat) (req : RemoteOp)
  | again (n : Nat)
  | snoop (line : Nat)
  | wait
  deriving DecidableEq, Repr

/-- An access of such an agent to another module: its message, and once it has been answered its code, 0 where it was performed, and its
bytes. -/
structure Far where
  who : FarWho
  pa : Nat
  req : RemoteOp
  msg : Nat
  ans : Option (Nat × List Byte)
  deriving DecidableEq, Repr

/-- A message to another module that has had no final answer (R373 to R376): retried says that its last answer was a Retry, behind that it has
not been sent, ent is the entry of the split that issued it, frame that of its word, stale says that its translation has been invalidated since (R438),
poisoned that its answer was poisoned while that split was parked (R385), and who learns of the answer of a write of a controller that nobody
waits for. -/
structure Remote where
  op : Option Nat
  blk : Nat
  grp : Nat
  lane : Nat
  va : Nat
  ctx : Nat
  fn : Nat
  pa : Nat
  req : RemoteOp
  regs : List Nat
  sb : Option Nat
  retried : Bool
  engine : Option Nat
  die : Nat
  far : Bool
  behind : Bool
  ent : Nat := 0
  frame : Option Frame := none
  stale : Bool := false
  poisoned : Bool := false
  who : Asker := .nobody
  deriving DecidableEq, Repr

/-- A task session of R387, with the key that its exchange left and, on an expander, its tasks not yet retired. -/
structure Session where
  id : Nat
  expander : Nat
  key : List Byte
  tasks : Nat
  fn : Nat
  ctx : Nat
  lastSeq : Nat
  open_ : Bool
  remoteSide : Bool
  deriving DecidableEq, Repr

/-- A TASK that an expander has accepted and not returned (R389). -/
structure TaskOut where
  pkt : Nat
  expander : Nat
  session : Nat
  seq : Nat
  deriving DecidableEq, Repr

/-- What leaves the module: a raised vector, a transaction on the host port, a message, a flit, a management reply. -/
inductive Out where
  | msix (fn vec : Nat)
  | hostWrite (addr : Nat) (bytes : List Byte)
  | hostRead (addr len : Nat) (data : List Byte) (status : Nat)
  | remote (id : Nat) (port : Nat) (src part : Nat) (module_ : Nat) (offset : Nat) (req : RemoteOp)
  | answer (id : Nat) (r : RemoteResp)
  | retry (id : Nat)
  | forward (m : RemoteMsg) (port : Nat)
  | flit (die link : Nat) (bytes : List Byte)
  | gang (die kind fn gang member err part : Nat)
  | task (expander : Nat) (bytes : List Byte)
  | exchange (expander : Nat) (bytes : List Byte)
  | snoop (line : Nat)
  | snoopDone (line : Nat)
  | mgmt (bytes : List Byte)
  deriving DecidableEq, Repr

/-- A turn of the agenda: an agent issues its next word, or an operation or event of the opcode table comes about. -/
inductive Turn where
  | split (blk grp ent : Nat)
  | stream (blk : Nat)
  | event (i : Instr)
  deriving DecidableEq, Repr

/-- The agent that issues the next word. -/
structure Focus where
  blk : Nat := 0
  grp : Nat := 0
  ent : Nat := 0
  stream : Bool := false
  deriving DecidableEq, Repr

/-- What the save area of a context holds that another module saved (R424): its grids, its blocks, each under the index of its grid, the region binding
table, and by die the lost masks. -/
structure SavedWork where
  grids : List Grid
  blocks : List (Nat × Block)
  binds : Tab Bind
  lost : Tab (BitVec 64)
  deriving DecidableEq, Repr

/-- The state of the module. lpddr is its fitting: none for the compute fitting, the installed capacity for the expander (R1, R4,
R215); nothing writes it. later holds the events of the agenda that had to wait (log 71), boots counts the module resets
(R445). later, farNow, farPos and farAsk, of which the last three are none and 0 between steps, and tick, nextId, clock, epoch, window, focus,
agenda and outbox are the model's own (log 1, 4, 5). -/
structure State where
  lpddr : Option Nat := none
  mem : List Host.Cell := []
  poison : List Nat := []
  blocks : Tab Block := []
  grids : Tab Grid := []
  dies : Tab Die := []
  cores : Tab Core := []
  queues : Tab Queue := []
  fns : Tab Fn := []
  evq : Tab EventQ := []
  l2tlb : Tab (List Tlb) := []
  ops : Tab Op := []
  parks : Tab Park := []
  pkts : Tab Pkt := []
  cells : Tab CellCmd := []
  fabric : Cells 8 := []
  hdmcfg : Word := 0
  pwrctl : Word := 6000
  pwrstat : Word := 0
  upViral : Bool := false
  snoops : List Nat := []
  hostShared : List Nat := []
  snoopHeld : List HeldReq := []
  revoking : List Nat := []
  remotes : Tab Remote := []
  far : List Far := []
  farNow : Option FarWho := none
  farPos : Nat := 0
  farAsk : Option FarAsk := none
  sessions : List Session := []
  tasks : List TaskOut := []
  gangs : Tab Gang := []
  outbox : List Out := []
  focus : Focus := {}
  agenda : List Turn := []
  later : List Instr := []
  tick : Nat := 0
  nextId : Nat := 1
  clock : Nat := 0
  epoch : Nat := 0
  window : Nat := 0
  boots : Nat := 0
  deriving DecidableEq, Repr

/-- The state right after module reset (R444, and the Reset column of each register). -/
def State.reset : State :=
  { dies := [(0, { portcfg := 1 })] }

end Sys2Proof.Machine
end

