-- ==== Sys2Proof/Config.lean ====
section
/-! DEFINITION. What an implementation fixes, and the values the spec leaves open: constants without a body, so that no
proof can see which value they hold. -/

namespace Sys2Proof.Config

open Sys2Proof.Machine

/-- A free value of w bits: nothing constrains it. It is applied to the state's tick counter, which the step that takes it
advances (log 1). -/
opaque free (w : Nat) : Nat → BitVec w

/-- The cores of a die that its fuses leave enabled (R92). -/
opaque fusedCore : Nat → Nat → Bool

/-- Does a physical lane of a sub-partition of a core of a die pass the built-in test of a module reset (R445)? -/
opaque lanePasses (reset die core part lane : Nat) : Bool

/-- The fuse bytes and the firmware image a die measures at reset (R444). -/
opaque fuseBytes : Nat → List Byte
opaque firmwareImage : Nat → List Byte

/-- SHAKE256 and KMAC256 of NIST (R387, R388, R444): the output of the given number of bytes. The spec names the functions
and does not define them (log 8). -/
opaque shake256 : List Byte → Nat → List Byte
opaque kmac256 : List Byte → List Byte → Nat → List Byte → List Byte

/-- The Ed448 identity of a die: its public key, a signature under its key and its certificate (R447, R448). -/
opaque identityKey : Nat → List Byte
opaque ed448 : Nat → List Byte → List Byte
opaque certificate : Nat → List Byte

/-- What the exchange of R387 takes and brings, by its time: this side's nonce and its ephemeral private key; from the other side its nonce, its
report, its ephemeral public key with the signature under its identity key, and whether it accepts this side's report and key. -/
opaque ownNonce : Nat → List Byte
opaque ownSecret : Nat → List Byte
opaque peerNonce : Nat → List Byte
opaque peerReport : Nat → List Byte
opaque peerKey : Nat → List Byte
opaque peerKeySig : Nat → List Byte
opaque peerAccepts : Nat → Bool

/-- X448 of a private key and a public value, the public key of a private one, and whether an Ed448 signature of a text verifies under a public key
(R387, R448). -/
opaque x448 : List Byte → List Byte → List Byte
opaque x448Public : List Byte → List Byte
opaque ed448Verifies (key sig text : List Byte) : Bool

/-- A die temperature, sampled (R450). -/
opaque temperature : Nat → Nat → Word

/-- What a host completer answers to a carried AtomicOp at an address: 0 performed, 1 Unsupported Request, 2 Completer Abort
(R224, R381). -/
opaque hostAtomic : Nat → Nat

/-- The two check bytes of one of the Reed–Solomon codes of a flit (R365): the field polynomial and the generator of the code are not stated. -/
opaque rsCheck : List Byte → List Byte

/-- What the management endpoint answers to an MCTP control message, by its time (R450). -/
opaque mctpControl : Nat → List Byte → List Byte

/-- Which register, and which byte of it, lies at an offset of the PF's BAR 0 below 64 MiB: the spec places registers there and gives
the offsets inside some blocks, but not where the blocks lie (R379; log 51). none is a reserved byte. -/
opaque barByte : Nat → Option (RegName × Nat)

/-- Does the host port run CXL.cache, and which generation it trained (R378, R379)? -/
opaque cxl : Bool
opaque portGen : Nat → BitVec 3

/-- The bus address at which a function's BAR 4 lies, and the doorbell pages (R64, R382): fixed by enumeration. -/
opaque bar4 : Nat → Nat

/-- The layout of a saved context is private to the device (R424): the bytes that a save of a block or a grid writes; what the device makes of a block's
or a grid's record that software has changed; how many pages the save of another module takes, from its first page, and what it holds, none where it is
no save (log 7). -/
opaque saveImage : Nat → List Byte
opaque openBlock : List Byte → Option Block
opaque openGrid : List Byte → Option Grid
opaque workPages : List Byte → Nat
opaque openWork : List Byte → Option SavedWork

/-- Does a matrix word read, at a time and an offset of scratch, the byte that a store still in a store buffer writes there, and a group the byte that
stood there before the latest matrix word wrote it (R277, log 90)? -/
opaque raced : Nat → Nat → Bool

end Sys2Proof.Config
end

