-- ==== Sys2Proof/Machine/Bits.lean ====
section
/-! DEFINITION. The tables of the state, bytes and bit fields: reading and writing a sparse table in canonical form, the
byte order of memory (R6), sign extension, lane masks (R149). -/

namespace Sys2Proof

/-- The value at a key; 0 where the key is not listed. -/
def Cells.get {w : Nat} : Cells w → Nat → BitVec w
  | [], _ => 0
  | (a, v) :: t, k => if a = k then v else Cells.get t k

/-- Put an entry at its place among rising keys. -/
def insertKey {α : Type} (k : Nat) (v : α) : Tab α → Tab α
  | [] => [(k, v)]
  | e :: rest => if k < e.1 then (k, v) :: e :: rest else e :: insertKey k v rest

/-- Write a key: the entry for it goes, and one with the new value comes unless that value is 0. -/
def Cells.set {w : Nat} (m : Cells w) (k : Nat) (v : BitVec w) : Cells w :=
  let m' := m.filter (fun e => e.1 ≠ k)
  if v = 0 then m' else insertKey k v m'

/-- The canonical form: keys rise strictly and no listed value is 0. -/
def Cells.wf {w : Nat} : Cells w → Bool
  | [] => true
  | (a, v) :: t => decide (v ≠ 0) && (t.all fun e => decide (a < e.1)) && Cells.wf t

/-- The record at a key, or the default. -/
def Tab.get {α : Type} (d : α) : Tab α → Nat → α
  | [], _ => d
  | (a, v) :: t, k => if a = k then v else Tab.get d t k

/-- Is the key listed? -/
def Tab.has {α : Type} (t : Tab α) (k : Nat) : Bool := t.any (·.1 == k)

/-- Take a key out. -/
def Tab.del {α : Type} (t : Tab α) (k : Nat) : Tab α := t.filter (fun e => e.1 ≠ k)

/-- Write the record at a key. -/
def Tab.set {α : Type} (t : Tab α) (k : Nat) (v : α) : Tab α := insertKey k v (t.del k)

/-- The least entry whose record satisfies p. -/
def Tab.find {α : Type} (t : Tab α) (p : Nat → α → Bool) : Option Nat := (t.find? fun e => p e.1 e.2).map (·.1)

namespace Machine

/-- The canonical form of memory: addresses rise strictly and no entry is 0, what an unlisted address reads as (log 2). -/
def Memory.wf (m : List Host.Cell) : Bool := Cells.wf (w := 8) m

/-- The number whose little-endian bytes are given (R6). -/
def ofBytes : List Byte → Nat
  | [] => 0
  | b :: t => b.toNat + 256 * ofBytes t

/-- The n little-endian bytes of a number (R6). -/
def toBytes : Nat → Nat → List Byte
  | 0, _ => []
  | n + 1, x => BitVec.ofNat 8 x :: toBytes n (x / 256)

/-- The n bytes from an address. -/
def getBytes (m : Cells 8) (a n : Nat) : List Byte := (List.range n).map fun i => m.get (a + i)

/-- Write bytes from an address upwards. -/
def putBytes (m : Cells 8) (a : Nat) : List Byte → Cells 8
  | [] => m
  | b :: t => putBytes (m.set a b) (a + 1) t

/-- The little-endian number of n bytes from an address. -/
def getNum (m : Cells 8) (a n : Nat) : Nat := ofBytes (getBytes m a n)

/-- Bits hi to lo of a number. -/
def bits (x hi lo : Nat) : Nat := x / 2 ^ lo % 2 ^ (hi + 1 - lo)

/-- Bit i of a number. -/
def bitOf (x i : Nat) : Bool := x / 2 ^ i % 2 == 1

/-- The w-bit two's complement value of a number. -/
def signed (w x : Nat) : Int := if x % 2 ^ w < 2 ^ (w - 1) then (x % 2 ^ w : Nat) else (x % 2 ^ w : Nat) - (2 ^ w : Nat)

/-- An integer modulo 2^w, as a number. -/
def wrap (w : Nat) (x : Int) : Nat := (x % (2 ^ w : Nat)).toNat

/-- The 32-bit pattern of an integer. -/
def w32 (x : Int) : Word := BitVec.ofInt 32 x

/-- The 64-bit value of a pair of registers, the even one low (R7). -/
def pair (lo hi : Word) : DWord := hi ++ lo

/-- The low and the high half of a 64-bit value. -/
def lo32 (x : DWord) : Word := x.truncate 32
def hi32 (x : DWord) : Word := (x >>> 32).truncate 32

/-- LanesOf: the lanes of a mask, ascending (R149). -/
def lanesOf (m : LaneMask) : List Nat := (List.range 96).filter fun l => m.getLsbD l

/-- The mask of the lanes that satisfy p. -/
def maskOf (p : Nat → Bool) : LaneMask :=
  (List.range 96).foldl (fun m l => if p l then m ||| (1#96 <<< l) else m) 0

/-- The mask of lanes 0 to n − 1. -/
def lowLanes (n : Nat) : LaneMask := BitVec.ofNat 96 (2 ^ n - 1)

/-- Word k of a mask: lanes 32k to 32k + 31 (R149). -/
def maskWord (m : LaneMask) (k : Nat) : Word := (m >>> (32 * k)).truncate 32

/-- A mask with its word k replaced. -/
def setMaskWord (m : LaneMask) (k : Nat) (v : Word) : LaneMask :=
  (m &&& ~~~((0xFFFFFFFF#96) <<< (32 * k))) ||| ((v.zeroExtend 96) <<< (32 * k))

/-- One step of CRC32C (R159), for n bits of w from bit i. -/
def crcBits (c w : Word) : Nat → Nat → Word
  | 0, _ => c
  | n + 1, i =>
    let t := (c ^^^ (w >>> i)) &&& 1
    let c' := c >>> 1
    crcBits (if t = 1 then c' ^^^ 0x82F63B78 else c') w n (i + 1)

/-- CRC32C (R159): fold a word into the state. -/
def crc32c (c w : Word) : Word := crcBits c w 32 0

/-- The number of leading zeros of a w-bit number. -/
def clz (w x : Nat) : Nat := w - (if x = 0 then 0 else Nat.log2 x + 1)

/-- The number of bits set among the low w bits. -/
def popc : Nat → Nat → Nat
  | 0, _ => 0
  | w + 1, x => x % 2 + popc w (x / 2)

/-- The low w bits reversed. -/
def brev : Nat → Nat → Nat
  | 0, _ => 0
  | w + 1, x => (x % 2) * 2 ^ w + brev w (x / 2)

/-- Drop repeats, keeping first occurrences. -/
def dedup {α : Type} [BEq α] (l : List α) : List α := l.foldl (fun acc x => if acc.contains x then acc else acc ++ [x]) []

end Machine
end Sys2Proof
end

