-- ==== Sys2Proof/Machine/Access.lean ====
section
/-! DEFINITION. The one home of every register and table entry: the accessors through which each is read and written
(R122, R123, R147, R149), and the queries about splits and groups that many rules use. -/

namespace Sys2Proof.Machine

namespace State

def blkOf (s : State) (b : Nat) : Block := s.blocks.get {} b
def setBlk (s : State) (b : Nat) (x : Block) : State := { s with blocks := s.blocks.set b x }
def modBlk (s : State) (b : Nat) (f : Block → Block) : State := s.setBlk b (f (s.blkOf b))
def grpOf (s : State) (b g : Nat) : Group := (s.blkOf b).groups.get {} g
def modGrp (s : State) (b g : Nat) (f : Group → Group) : State :=
  s.modBlk b fun x => { x with groups := x.groups.set g (f (x.groups.get {} g)) }
def splOf (s : State) (b g e : Nat) : Split := (s.grpOf b g).splits.get {} e
def modSplOf (s : State) (b g e : Nat) (f : Split → Split) : State :=
  s.modGrp b g fun x => { x with splits := x.splits.set e (f (x.splits.get {} e)) }
def gridOf (s : State) (g : Nat) : Grid := s.grids.get {} g
def modGrid (s : State) (g : Nat) (f : Grid → Grid) : State := { s with grids := s.grids.set g (f (s.gridOf g)) }
def dieOf (s : State) (d : Nat) : Die := s.dies.get {} d
def modDie (s : State) (d : Nat) (f : Die → Die) : State := { s with dies := s.dies.set d (f (s.dieOf d)) }
/-- Cores are keyed by 128 × die + core. -/
def coreKey (d c : Nat) : Nat := 128 * d + c
def coreOf (s : State) (d c : Nat) : Core := s.cores.get {} (coreKey d c)
def modCore (s : State) (d c : Nat) (f : Core → Core) : State :=
  { s with cores := s.cores.set (coreKey d c) (f (s.coreOf d c)) }
/-- Queues are keyed by 1024 × die + queue index, as a queue reference numbers them (R66). -/
def queueOf (s : State) (q : Nat) : Queue := s.queues.get {} q
def modQueue (s : State) (q : Nat) (f : Queue → Queue) : State := { s with queues := s.queues.set q (f (s.queueOf q)) }
def fnOf (s : State) (f : Nat) : Fn := s.fns.get {} f
def modFn (s : State) (f : Nat) (g : Fn → Fn) : State := { s with fns := s.fns.set f (g (s.fnOf f)) }
def ctxOf (s : State) (f c : Nat) : Context := (s.fnOf f).ctxs.get {} c
def modCtx (s : State) (f c : Nat) (g : Context → Context) : State :=
  s.modFn f fun x => { x with ctxs := x.ctxs.set c (g (x.ctxs.get {} c)) }
/-- Event queues are keyed by 4 × function + die. -/
def evqOf (s : State) (f d : Nat) : EventQ := s.evq.get {} (4 * f + d)
def modEvq (s : State) (f d : Nat) (g : EventQ → EventQ) : State :=
  { s with evq := s.evq.set (4 * f + d) (g (s.evqOf f d)) }

/-- The block, group and split that issue (the focus). -/
def blk (s : State) : Block := s.blkOf s.focus.blk
def grp (s : State) : Group := s.grpOf s.focus.blk s.focus.grp
def spl (s : State) : Split := s.splOf s.focus.blk s.focus.grp s.focus.ent
def grid (s : State) : Grid := s.gridOf s.blk.grid
def modB (s : State) (f : Block → Block) : State := s.modBlk s.focus.blk f
def modG (s : State) (f : Group → Group) : State := s.modGrp s.focus.blk s.focus.grp f
def modS (s : State) (f : Split → Split) : State := s.modSplOf s.focus.blk s.focus.grp s.focus.ent f
def ms (s : State) : Stream := s.blk.ms
def modM (s : State) (f : Stream → Stream) : State := s.modB fun b => { b with ms := f b.ms }

/-- Say what leaves the module. -/
def emit (s : State) (o : Out) : State := { s with outbox := s.outbox ++ [o] }
/-- Take a free value of w bits (log 1). -/
def fresh (s : State) (w : Nat) : BitVec w × State := (Config.free w s.tick, { s with tick := s.tick + 1 })
/-- Take a new identifier (log 4). -/
def newId (s : State) : Nat × State := (s.nextId, { s with nextId := s.nextId + 1 })

end State

/-- A scalar register of a split; s125 to s127 are Exec (R122, R149). -/
def Split.getS (x : Split) (r : Nat) : Word := if 125 ≤ r then maskWord x.exec (r - 125) else x.s.get r

/-- Write a scalar register: a write to s125 to s127 writes Exec := value and Live, and ExecCopy with it (R149). -/
def Split.setS (x : Split) (r : Nat) (v : Word) : Split :=
  if 125 ≤ r then
    let m := setMaskWord x.exec (r - 125) v &&& x.live
    { x with exec := m, execCopy := m }
  else { x with s := x.s.set r v }

/-- An even and odd pair of scalar registers (R7). -/
def Split.getP (x : Split) (r : Nat) : DWord := pair (x.getS r) (x.getS (r + 1))
def Split.setP (x : Split) (r : Nat) (v : DWord) : Split := (x.setS r (lo32 v)).setS (r + 1) (hi32 v)

/-- The key of a vector register of a lane. -/
def vKey (r l : Nat) : Nat := r * 96 + l

/-- A vector register of a lane; an absent lane reads 0 (R20). -/
def Group.getV (g : Group) (r l : Nat) : Word := g.v.get (vKey r l)
def Group.setV (g : Group) (r l : Nat) (x : Word) : Group := { g with v := g.v.set (vKey r l) x }
def Group.getVP (g : Group) (r l : Nat) : DWord := pair (g.getV r l) (g.getV (r + 1) l)

/-- A predicate of a lane: p0 reads true (R122). -/
def Group.getPr (g : Group) (r l : Nat) : Bool := r == 0 || (g.p.get r).getLsbD l
def Group.setPr (g : Group) (r l : Nat) (x : Bool) : Group :=
  if r = 0 then g
  else { g with p := g.p.set r (if x then g.p.get r ||| (1#96 <<< l) else g.p.get r &&& ~~~(1#96 <<< l)) }

/-- Write a vector register in each of the lanes. -/
def Group.setVs (g : Group) (r : Nat) (ls : List Nat) (f : Nat → Word) : Group :=
  { g with v := ls.foldl (fun m l => m.set (vKey r l) (f l)) g.v }
/-- Write a predicate in each of the lanes; a write to p0 is ignored (R122). -/
def Group.setPs (g : Group) (r : Nat) (ls : List Nat) (f : Nat → Bool) : Group :=
  ls.foldl (fun g l => g.setPr r l (f l)) g

/-- The live-capable lanes of a group (R19). -/
def Group.capable (g : Group) : LaneMask := lowLanes g.lanes
/-- The helper lanes: from the lane count up to the end of its quad, unless an error made one absent (R19, R20). -/
def Group.helpers (g : Group) : LaneMask :=
  lowLanes (4 * ((g.lanes + 3) / 4)) &&& ~~~lowLanes g.lanes &&& ~~~g.absent

/-- Fields of MODE (R124). -/
def Split.guard (x : Split) : Nat := bits x.mode.toNat 23 17
def Split.guardInv (x : Split) : Bool := x.mode.getLsbD 16
def Split.type (x : Split) : Nat := bits x.mode.toNat 15 12
def Split.round (x : Split) : Nat := bits x.mode.toNat 11 9
def Split.sat (x : Split) : Bool := x.mode.getLsbD 8
def Split.ftz (x : Split) : Bool := x.mode.getLsbD 7
def Split.bank (x : Split) : Nat := bits x.mode.toNat 6 6
def Split.trapDiv (x : Split) : Bool := x.mode.getLsbD 5
def Split.trapInv (x : Split) : Bool := x.mode.getLsbD 4
def Split.trapAcc (x : Split) : Bool := x.mode.getLsbD 3
def Split.sigEn (x : Split) : Bool := x.mode.getLsbD 2

namespace State

def getS (s : State) (r : Nat) : Word := s.spl.getS r
def setS (s : State) (r : Nat) (v : Word) : State := s.modS (·.setS r v)
def getP (s : State) (r : Nat) : DWord := s.spl.getP r
def setP (s : State) (r : Nat) (v : DWord) : State := s.modS (·.setP r v)
def getV (s : State) (r l : Nat) : Word := s.grp.getV r l

/-- Is the guard of MODE true in a lane (R124)? -/
def guardAt (s : State) (l : Nat) : Bool := s.grp.getPr s.spl.guard l != s.spl.guardInv

/-- The lanes of Exec that are not dead and whose guard is true: the lanes in which a vector instruction executes, helper
lanes apart (R124, R179). A replay after a parking is limited to the recorded lanes (R227). -/
def execLanes (s : State) : LaneMask :=
  let m := s.spl.exec &&& ~~~s.grp.dead
  let m := match s.spl.replay with | some r => m &&& r | none => m
  maskOf fun l => m.getLsbD l && s.guardAt l

/-- The helper lanes that execute with a set of lanes: those of whose quad some lane executes (R20). -/
def helpersOf (s : State) (m : LaneMask) : LaneMask :=
  let h := s.grp.helpers
  maskOf fun l => h.getLsbD l && (List.range 4).any fun i => m.getLsbD (l / 4 * 4 + i)

/-- Every lane whose destination a vector instruction writes: the executing lanes and the helpers that go with them. -/
def writeLanes (s : State) : LaneMask := s.execLanes ||| s.helpersOf s.execLanes

/-- The same whatever the guard holds, as VSEL needs it (R184). -/
def execAnyGuard (s : State) : LaneMask :=
  let m := s.spl.exec &&& ~~~s.grp.dead
  m ||| s.helpersOf m

/-- The function and the context of the issuing block. -/
def fn (s : State) : Nat := s.grid.fn
def ctx (s : State) : Nat := s.grid.ctx

end State

/-- The entries of a group in order. -/
def Group.entries (g : Group) : List (Nat × Split) := (List.range 4).map fun e => (e, g.splits.get {} e)
/-- Has the group ended: are all four entries empty (R155)? -/
def Group.ended (g : Group) : Bool := g.entries.all fun e => e.2.status == .empty
/-- The lowest empty entry (R151). -/
def Group.emptyEntry (g : Group) : Option Nat := (g.entries.find? fun e => e.2.status == .empty).map (·.1)
/-- The groups of a block in order. -/
def Block.glist (b : Block) : List (Nat × Group) := b.groups
/-- Is the block one whose words may issue? -/
def Block.live (b : Block) : Bool := b.life == .running

/-- The limits of GOVCTL, Max and Floor, under the module's own lowering of Max (R108, R449). -/
def Die.govMax (d : Die) : Nat :=
  let v := bits d.govctl.toNat 19 16
  min (if v = 0 ∨ v > 8 then 8 else v) d.effMax
def Die.govFloor (d : Die) : Nat :=
  let v := bits d.govctl.toNat 15 12
  min (if v = 0 then 1 else if v > 8 then 8 else v) d.govMax

end Sys2Proof.Machine
end

