-- ==== Sys2Proof/Machine/Phys.lean ====
section
/-! DEFINITION. Physical memory and the ways to it (spec/08_memory_hierarchy.md R213 to R219, R230, R232; spec/12_cellar_units.md R340, R344;
spec/14_links.md R365 to R373, R379, R383): ranges, poison, dirty bits, writes at a home, extents, flits, and messages to other modules.
An unlisted byte reads 0 (log 2). Links 0 to 3 of a die are its Itroth ports, links 4 to 6 lead to the other dies. The layout of a flit's payload is
the model's own: a physical address, by which its message is routed again when a port goes down, and the message (log 17). -/

namespace Sys2Proof.Machine

/-- The ranges of physical addresses (R213). -/
inductive Range where
  | hbm | window | expander | module_ | host | none
  deriving DecidableEq, Repr

/-- The fitting of the module (R1): does it have LPDDR-6 memory? -/
def State.isExpander (s : State) : Bool := s.lpddr.isSome

/-- The dies of the module (R1, R4). -/
def State.dieIds (s : State) : List Nat := List.range (if s.isExpander then 1 else 4)

/-- Does the host port run CXL? That of the expander is a CXL port (R4); for the compute fitting the port's training settles it (R378). -/
def State.cxl (s : State) : Bool := s.isExpander || Config.cxl

/-- Where the Loft windows begin, the span of local memory, and the end of the windows (R213, R215). -/
def State.winBase (s : State) : Nat := if s.isExpander then 0x20000000000 else 0x10000000000
def State.localBytes (s : State) : Nat := match s.lpddr with | some n => min n (2 ^ 41) | none => 2 ^ 39
def State.winBytes (s : State) : Nat := if s.isExpander then 2 ^ 29 else 2 ^ 31

/-- The range of a physical address (R213, R215). -/
def State.rangeOf (s : State) (pa : Nat) : Range :=
  if pa < s.localBytes then .hbm
  else if s.winBase ≤ pa ∧ pa < s.winBase + s.winBytes then .window
  else if 0x1000000000000 ≤ pa ∧ pa < 0x4000000000000 then .expander
  else if 0x4000000000000 ≤ pa ∧ pa < 0x8000000000000 ∧ bitOf pa 39 = false ∧ !s.isExpander then .module_
  else if 0x8000000000000 ≤ pa ∧ pa < 0x10000000000000 then .host
  else .none

/-- The domain code of a range (R213, R222). -/
def Range.domain : Range → Nat
  | .hbm | .window | .module_ => 0
  | .host => 1
  | .expander => 2
  | .none => 3

/-- Fields of MEMCFG (R217). -/
def Die.windowBays (d : Die) : Nat := bits d.memcfg.toNat 21 16
def Die.computeMax (d : Die) : Nat := bits d.memcfg.toNat 13 8
def Die.compEn (d : Die) : Bool := d.memcfg.getLsbD 24
def Die.memBusy (d : Die) : Bool := d.memcfg.getLsbD 0

/-! ### Flits (R365) -/

/-- CRC-64 of R365, bit by bit, most significant first, from 0 (DESIGN CHOICE, log 17). -/
def crc64Bit (c : BitVec 64) (b : Bool) : BitVec 64 :=
  (c <<< 1) ^^^ (if c.getLsbD 63 != b then 0x42F0E1EBA9EA3693 else 0)
def crc64 (bs : List Byte) : BitVec 64 :=
  bs.foldl (fun c b => (List.range 8).foldl (fun c i => crc64Bit c (b.getLsbD (7 - i))) c) 0

/-- The bytes of code i of the FEC among bytes 0 to 249, and its two check bytes, which stand at 250 + i and 253 + i (DESIGN CHOICE, log 17). -/
def fecCode (i : Nat) (bs : List Byte) : List Byte := (List.range ((252 - i) / 3)).map fun k => bs.getD (i + 3 * k) 0
def fecCheck (i : Nat) (bs : List Byte) : List Byte := (Config.rsCheck (fecCode i bs) ++ [0, 0]).take 2
/-- Bytes 250 to 255 of a flit. -/
def fecBytes (bs : List Byte) : List Byte := (List.range 6).map fun j => (fecCheck (j % 3) bs).getD (j / 3) 0

/-- The 256 bytes of a flit. -/
def Flit.wire (f : Flit) : List Byte :=
  let head := toBytes 4 (f.seq % 1024 + f.ack % 1024 * 2 ^ 10 + f.kind % 4 * 2 ^ 20 + f.credits % 1024 * 2 ^ 22)
  let body := head ++ (f.payload ++ toBytes 238 0).take 238
  let sealed := body ++ toBytes 8 (crc64 body).toNat
  sealed ++ fecBytes sealed

/-- Do the check bytes of code i agree with its other bytes? -/
def fecGood (i : Nat) (bs : List Byte) : Bool := fecCheck i bs == [bs.getD (250 + i) 0, bs.getD (253 + i) 0]

/-- Correct code i: where its check bytes do not agree, the change of one of its bytes after which they do, if there is one. -/
def fecCorrect (i : Nat) (bs : List Byte) : List Byte :=
  if fecGood i bs then bs
  else
    ((((List.range ((255 - i) / 3 + 1)).map fun k => i + 3 * k).flatMap fun p => (List.range 256).map fun v => bs.set p (BitVec.ofNat 8 v)).find?
      fun c => fecGood i c).getD bs

/-- Read 256 received bytes: corrected by FEC, and none where the CRC then fails (R366). -/
def Flit.parse (bs : List Byte) : Option Flit :=
  let c := fecCorrect 2 (fecCorrect 1 (fecCorrect 0 ((bs ++ toBytes 256 0).take 256)))
  if ofBytes ((c.drop 242).take 8) = (crc64 (c.take 242)).toNat then
    let h := ofBytes (c.take 4)
    some { seq := bits h 9 0, ack := bits h 19 10, kind := bits h 21 20, credits := bits h 31 22, payload := (c.drop 4).take 238 }
  else none

/-- The bytes of a message in the payload of a flit: the spec gives them no layout (DESIGN CHOICE, log 17). -/
def opBytes : RemoteOp → List Byte
  | .read n => toBytes 1 0 ++ toBytes 4 n
  | .write d => toBytes 1 1 ++ toBytes 4 d.length ++ d
  | .runs l => toBytes 1 2 ++ toBytes 4 l.length ++ l.flatMap fun r => toBytes 4 r.1 ++ toBytes 4 r.2.length ++ r.2
  | .atomic o n v c => toBytes 1 3 ++ toBytes 1 o.code ++ toBytes 1 n ++ toBytes 16 v ++ toBytes 16 c
  | .addList f n vs => toBytes 1 4 ++ toBytes 1 f.toNat ++ toBytes 1 n ++ toBytes 4 vs.length ++ vs.flatMap fun v => toBytes 8 v
def messageBytes (m : RemoteMsg) : List Byte :=
  toBytes 1 1 ++ toBytes 8 m.id ++ toBytes 2 m.dest ++ toBytes 2 m.srcModule ++ toBytes 1 m.partition ++ toBytes 8 m.offset ++ opBytes m.op
def answerBytes : Out → List Byte
  | .answer id r => toBytes 1 2 ++ toBytes 8 id ++ (match r with
    | .done d => toBytes 1 0 ++ toBytes 4 d.length ++ d
    | .refused => toBytes 1 1
    | .unsupported a => toBytes 1 2 ++ toBytes 1 a.toNat
    | .poisoned => toBytes 1 3)
  | .retry id => toBytes 1 3 ++ toBytes 8 id
  | _ => []

/-- The bytes that a request touches. -/
def reqBytes : RemoteOp → Nat
  | .read n => n
  | .write bs => bs.length
  | .runs l => l.foldl (fun m x => max m (x.1 + x.2.length)) 0
  | .atomic _ n _ _ => n
  | .addList _ n _ => n

namespace State

/-- The bytes from a physical address. -/
def rd (s : State) (pa n : Nat) : List Byte := getBytes s.mem pa n
def rdNum (s : State) (pa n : Nat) : Nat := getNum s.mem pa n

/-- Does an access meet a poisoned sector (R230)? -/
def poisoned (s : State) (pa n : Nat) : Bool := s.poison.any fun p => p * 32 < pa + n && pa < p * 32 + 32

/-- The bit of a frame in the dirty bitmap (R232, R215), where the frame has one. -/
def dirtyBit (s : State) (pa : Nat) : Option Nat :=
  match s.rangeOf pa with
  | .hbm => some (pa / 4096)
  | .window => some ((if s.isExpander then 2 ^ 29 else 2 ^ 27) + (pa - s.winBase) / 4096)
  | _ => none

/-- The home die of a local address (R211), and the unit whose channel holds it (R214, R327). -/
def homeDie (s : State) (pa : Nat) : Nat :=
  if s.isExpander then 0
  else match s.rangeOf pa with
    | .window => bits (pa - s.winBase) 30 29
    | _ => bits pa 38 37
def unitOf (s : State) (pa : Nat) : Nat :=
  let ch := (BitVec.ofNat 5 (bits pa 25 21) ^^^ BitVec.ofNat 5 (bits pa 30 26)).toNat
  if s.isExpander then ch else bits pa 36 36 * 32 + ch
/-- The stack of a cellar unit, or the group of eight channels in the expander (R348). -/
def stackOfUnit (s : State) (u : Nat) : Nat := if s.isExpander then u / 8 else u / 32

/-- Does the channel of a local address serve only its cellar unit now: a part runs on it, in a compute interval (R340)? -/
def chanBusy (s : State) (pa : Nat) : Bool :=
  s.rangeOf pa == .hbm &&
    let d := s.homeDie pa
    let u := s.unitOf pa
    (s.dieOf d).computing.contains (s.stackOfUnit u) && s.cells.any fun e => e.2.die == d && e.2.parts.any fun p => p.1 == u && p.2.1 == 1

/-! ### Requests at a home (R344, R379) -/

/-- Does an accepted cellar command hold the 2 MiB page of a physical address (R344)? -/
def heldPage (s : State) (pa : Nat) : Bool := s.cells.any fun e => e.2.outPages.contains (pa / 2 ^ 21)

/-- Add a request to the ones that wait on the first command that holds its page. -/
def holdReq (s : State) (r : HeldReq) : State :=
  match s.cells.find? fun e => e.2.outPages.contains (r.pa / 2 ^ 21) with
  | some e => { s with cells := s.cells.set e.1 { e.2 with held := e.2.held ++ [r] } }
  | none => s

/-- Ask the host to give up a line (R379). -/
def snoop (s : State) (pa : Nat) : State :=
  let l := pa / 128
  if s.hostShared.contains l && !s.snoops.contains l then { s with snoops := s.snoops ++ [l] }.emit (.snoop l) else s

/-- The lines that n bytes touch. -/
def linesOf (pa n : Nat) : List Nat := if n = 0 then [] else (List.range ((pa + n - 1) / 128 - pa / 128 + 1)).map fun i => pa / 128 + i

/-- An agent finds that it has to wait: the first thing that it waits for stands, and what it would do after that is not done (log 71). -/
def ask (s : State) (a : FarAsk) : State := if s.farAsk.isSome then s else { s with farAsk := some a }

/-- Before a controller of the device writes, the host gives up its copies of the lines (R379), and the channel serves ordinary accesses
(R340): otherwise the controller waits. -/
def claimLine (s : State) (l pa : Nat) : State :=
  if s.hostShared.contains l then s.ask (.snoop l) else if s.chanBusy pa then s.ask .wait else s
def claim (s : State) (pa n : Nat) : State := (linesOf pa n).foldl (fun s l => s.claimLine l (max pa (128 * l))) s

/-- Set bits of a byte of memory for the device itself: where a cellar command holds the page the update waits there (R344). -/
def orByte (s : State) (pa : Nat) (m : Byte) : State :=
  if s.heldPage pa then s.holdReq { pa := pa, op := .atomic .or 1 m.toNat 0, who := .nobody, fn := 64 }
  else
    let s := s.claim pa 1
    { s with mem := Cells.set (w := 8) s.mem pa (Cells.get (w := 8) s.mem pa ||| m) }

/-- The block of a function on a die (R220, R382). -/
def fnBlock (s : State) (fn die : Nat) : FnBlock := (s.fnOf fn).cfg.get {} die
def modFnBlock (s : State) (fn die : Nat) (f : FnBlock → FnBlock) : State :=
  s.modFn fn fun x => { x with cfg := x.cfg.set die (f (x.cfg.get {} die)) }

/-- The byte and the bit of a dirty bitmap that a write made for a function sets, as the block of the frame's home die says (R232). -/
def dirtyAt (s : State) (fn pa : Nat) : Option (Nat × Byte) :=
  let f := s.fnBlock fn (s.homeDie pa)
  if f.flags.getLsbD 0 then (s.dirtyBit pa).map fun i => (f.dirtyBase + i / 8, 1#8 <<< (i % 8)) else none

/-- Set the dirty bit of the frame of a write made for a function (R232). -/
def markDirty (s : State) (fn pa : Nat) : State :=
  match s.dirtyAt fn pa with
  | some (a, m) => s.orByte a m
  | none => s

/-- The field of the fabric block at an offset (R370). -/
def fab (s : State) (off n : Nat) : Nat := getNum s.fabric off n

/-- The MMIO window that holds a host address, if one does (R370). -/
def mmioWindow (s : State) (pa : Nat) : Option Nat :=
  (List.range 8).find? fun n => decide (s.fab (0xC0 + 16 * n) 8 ≤ pa ∧ pa < s.fab (0xC0 + 16 * n) 8 + s.fab (0xC8 + 16 * n) 8)

/-- Does an access to the host range go out as a TLP: inside an MMIO window, or whatever its address under PCIe (R380)? -/
def hostTlp (s : State) (pa : Nat) : Bool := s.rangeOf pa == .host && (!s.cxl || (s.mmioWindow pa).isSome)

/-- What a write to the host range sends (R380). -/
def tlpWrite (s : State) (pa : Nat) (bs : List Byte) : State := if s.hostTlp pa then s.emit (.hostWrite pa bs) else s

/-- A read of the host range that goes out as a TLP, with the data that came back (R380). -/
def tlpRead (s : State) (pa n : Nat) : State := if s.hostTlp pa then s.emit (.hostRead pa n (s.rd pa n) 0) else s

/-- Put bytes at a physical address. A write of a whole sector clears its poison (R230). -/
def put (s : State) (pa : Nat) (bs : List Byte) : State :=
  { s with mem := putBytes s.mem pa bs,
           poison := s.poison.filter fun p => !(decide (pa ≤ p * 32) && decide (p * 32 + 32 ≤ pa + bs.length)) }

/-- Write bytes at a physical address for a function: the dirty bit first (R232), then the bytes. -/
def wr (s : State) (fn pa : Nat) (bs : List Byte) : State := ((s.markDirty fn pa).tlpWrite pa bs).put pa bs

/-- The number of no function: what is written for none counts for none in dirty tracking (R232). -/
def noFn : Nat := 64

/-- Entry i of the extent table (R383): base, length, expander, function, state, die. -/
def extentAddr (s : State) (i : Nat) : Nat := s.fab 0x10 8 + 32 * i
def extentState (s : State) (i : Nat) : Nat := s.rdNum (s.extentAddr i + 0x12) 1
def extentFn (s : State) (i : Nat) : Nat := s.rdNum (s.extentAddr i + 0x11) 1
def extentBase (s : State) (i : Nat) : Nat := s.rdNum (s.extentAddr i) 8
def extentLen (s : State) (i : Nat) : Nat := s.rdNum (s.extentAddr i + 8) 8

/-- Do n bytes of the expander range lie wholly within one granted extent of a function (R383)? The table has 1024 entries. -/
def extentGranted (s : State) (fn pa n : Nat) : Bool :=
  (List.range 1024).any fun i => s.extentState i == 1 && s.extentFn i == fn &&
    decide (s.extentBase i ≤ pa ∧ pa + n ≤ s.extentBase i + s.extentLen i)
/-- Does an address lie in a lost extent (R386)? -/
def extentLost (s : State) (pa : Nat) : Bool :=
  (List.range 1024).any fun i => s.extentState i == 3 && decide (s.extentBase i ≤ pa ∧ pa < s.extentBase i + s.extentLen i)

/-! ### Writes at a home -/

/-- A controller's write of bytes of one line: it waits where a cellar command holds the page (R344), and calls the host's copy back
(R379). -/
def homeWrite (s : State) (fn pa : Nat) (bs : List Byte) (who : Asker) : State × Bool :=
  if s.heldPage pa then (s.holdReq { pa := pa, op := .write bs, who := who, fn := fn }, false)
  else ((s.claim pa bs.length).wr fn pa bs, true)

/-- The same line by line; true where none of it waits. -/
def homeWrites (s : State) (fn : Nat) (who : Asker) : Nat → Nat → List Byte → State × Bool
  | 0, _, _ => (s, true)
  | k + 1, pa, bs =>
    if bs = [] then (s, true)
    else
      let m := 128 - pa % 128
      match s.homeWrite fn pa (bs.take m) who with
      | (s, a) =>
        match s.homeWrites fn who k (pa + m) (bs.drop m) with
        | (s, b) => (s, a && b)

/-! ### Links and flits (R365 to R368) -/

/-- Fields of LINKSTAT (R368). -/
def linkWord (s : State) (d l : Nat) : Word := (s.dieOf d).linkstat.get l
def linkIsUp (s : State) (d l : Nat) : Bool := (s.linkWord d l).getLsbD 31
def linkTrains (s : State) (d l : Nat) : Bool := (s.linkWord d l).getLsbD 30
/-- Has the fitting the link: a compute module's die has seven, the expander none (R364)? -/
def hasLink (s : State) (d l : Nat) : Bool := !s.isExpander && decide (d < 4 ∧ l < 7)
/-- May flits be sent: the link is up and does not train (R367)? -/
def linkSends (s : State) (d l : Nat) : Bool := s.linkIsUp d l && !s.linkTrains d l

/-- The data flits that a sender holds, and the number that a receiver last took in. -/
def linkBuf (s : State) (d l : Nat) : List Flit := (s.dieOf d).linkTx.get [] l
def lastGood (s : State) (d l : Nat) : Nat := (((s.dieOf d).linkRx.get l).toNat + 1023) % 1024

/-- Emit the flits of a list, where the link sends. -/
def emitFlits (s : State) (d l : Nat) (fs : List Flit) : State :=
  if s.linkSends d l then fs.foldl (fun s f => s.emit (.flit d l (Flit.wire f))) s else s

/-- Send a new data flit; it stays behind the 256 of the replay buffer while that is full (R366). The credits it returns are not stated. -/
def sendFlit (s : State) (d l : Nat) (payload : List Byte) : State :=
  let tx := s.linkBuf d l
  let n := ((s.dieOf d).linkSeq.get l).toNat
  let (c, s) := s.fresh 10
  let f : Flit := { kind := 0, seq := n, ack := s.lastGood d l, credits := c.toNat, payload := payload }
  let s := s.modDie d fun x => { x with linkTx := x.linkTx.set l (tx ++ [f]), linkSeq := x.linkSeq.set l (BitVec.ofNat 32 ((n + 1) % 1024)) }
  if tx.length < 256 then s.emitFlits d l [f] else s

/-! ### Messages to other modules (R370 to R375) -/

/-- The route to a module: a port mask, the ports of it that are up, and the port that carries an address: number PA[38:7] mod c of the c
ports that are up (R370, R371). -/
def routeMask (s : State) (m : Nat) : Nat := s.rdNum (s.fab 0 8 + 2 * m) 2
def routePorts (s : State) (m : Nat) : List Nat := (List.range 16).filter fun p => bitOf (s.routeMask m) p && s.linkIsUp (p / 4) (p % 4)
def routePort (s : State) (pa : Nat) : Option Nat :=
  let ps := s.routePorts (bits pa 49 40)
  if ps.length = 0 then none else ps[bits pa 38 7 % ps.length]?

/-- This module's number, the partition of a function and whether it may use the fabric (R370). -/
def moduleNo (s : State) : Nat := s.fab 0x18 2
def partition (s : State) (fn : Nat) : Nat := s.fab (0x40 + 2 * fn) 1
def fabricOn (s : State) (fn : Nat) : Bool := bitOf (s.fab (0x40 + 2 * fn) 2) 8

/-- The local place of an address of this module's own number (R371). -/
def localPa (s : State) (pa : Nat) : Nat :=
  if s.rangeOf pa = .module_ ∧ bits pa 49 40 = s.moduleNo then pa % 2 ^ 39 else pa

/-- A message for a module goes out in flits, on the port that an address chooses; each flit carries the address and up to 230 bytes of the
message (log 17). -/
def flitsTo (s : State) (pa : Nat) (bs : List Byte) : State :=
  match s.routePort pa with
  | some p => (List.range ((bs.length + 229) / 230)).foldl (fun s i => s.sendFlit (p / 4) (p % 4) (toBytes 8 pa ++ (bs.drop (230 * i)).take 230)) s
  | none => s

/-- Send a message on the port that its address chooses; it carries this module's number and the partition of its function (R371, R372). -/
def sendMsg (s : State) (id pa fn : Nat) (req : RemoteOp) : State :=
  match s.routePort pa with
  | some p =>
    (s.emit (.remote id p s.moduleNo (s.partition fn) (bits pa 49 40) (pa % 2 ^ 39) req)).flitsTo pa
      (messageBytes { id := id, dest := bits pa 49 40, srcModule := s.moduleNo, partition := s.partition fn, offset := pa % 2 ^ 39, op := req })
  | none => s

/-- Do two messages of a die go to one line: the same physical one, or, of lanes and engines, the same virtual one of a context, whose translation
has changed between them (R373, R375, R438)? -/
def sameLine (r x : Remote) : Bool :=
  r.die == x.die && (r.pa / 128 == x.pa / 128 || (!r.far && !x.far && r.fn == x.fn && r.ctx == x.ctx && r.va / 128 == x.va / 128))

/-- Is an earlier message of the die to the line still without its final answer (R373, R375)? -/
def lineBusy (s : State) (r : Remote) (before : Nat) : Bool := s.remotes.any fun e => decide (e.1 < before) && sameLine r e.2

/-- Record a message that has had no answer, and send it; behind an earlier one of the same die to the same line it waits (R373, R375). -/
def postRemote (s : State) (r : Remote) : State :=
  let (id, s) := s.newId
  let behind := s.lineBusy r id
  let s := { s with remotes := s.remotes.set id { r with behind := behind } }
  if behind then s else s.sendMsg id r.pa r.fn r.req

/-- The messages behind one that has been answered, or has left its line, go out where none is before them any more. -/
def sendNext (s : State) (r : Remote) : State :=
  (s.remotes.filter fun e => e.2.behind && sameLine r e.2).foldl (fun s e =>
    if s.lineBusy e.2 e.1 then s
    else { s with remotes := s.remotes.set e.1 { e.2 with behind := false } }.sendMsg e.1 e.2.pa e.2.fn e.2.req) s

/-- Forget messages: what waited behind them goes out. -/
def dropRemotes (s : State) (p : Nat × Remote → Bool) : State :=
  let gone := s.remotes.filter p
  gone.foldl (fun s e => s.sendNext e.2) { s with remotes := s.remotes.filter fun e => !p e }

/-- The accesses that an agent has asked of other modules, in their order. -/
def farOf (s : State) (w : FarWho) : List Far := s.far.filter fun x => x.who == w

/-- The access of an agent to another module's memory: its answer, where it has come (R371). -/
def farDo (s : State) (fn pa : Nat) (req : RemoteOp) : State × Option (Nat × List Byte) :=
  if s.farAsk.isSome then (s, none)
  else
    match s.farNow.bind fun w => (s.farOf w)[s.farPos]? with
    | some ⟨_, p, r, _, some a⟩ => if p = pa ∧ r = req then ({ s with farPos := s.farPos + 1 }, some a) else (s.ask (.msg fn pa req), none)
    | _ => (s.ask (.msg fn pa req), none)

/-- A message of a controller of a die. -/
def farMsg (die fn pa : Nat) (req : RemoteOp) (who : Asker) : Remote :=
  { op := none, blk := 0, grp := 0, lane := 0, va := 0, ctx := 0, fn := fn, pa := pa, req := req, regs := [], sb := none, retried := false,
    engine := none, die := die, far := true, behind := false, who := who }

/-- Send what an agent of a die asks of another module as its access of number n, unless it has been sent. -/
def farPost (s : State) (w : FarWho) (die n fn pa : Nat) (req : RemoteOp) : State :=
  if (s.farOf w)[n]?.any fun (x : Far) => x.pa == pa && x.req == req then s
  else
    let id := s.nextId
    let s : State := { s with far := (s.far.filter fun x => x.who != w) ++ (s.farOf w).take n }
    let s := s.postRemote (farMsg die fn pa req .nobody)
    { s with far := s.far ++ [{ who := w, pa := pa, req := req, msg := id, ans := none }] }

/-- What an agent of a die waits for is brought on its way: the message is sent, the host is asked for the line. -/
def askFor (s : State) (w : FarWho) (die n : Nat) : FarAsk → State
  | .msg fn pa req => s.farPost w die n fn pa req
  | .again k => { s with far := (s.far.filter fun x => x.who != w) ++ (s.farOf w).take k }
  | .snoop l => s.snoop (128 * l)
  | .wait => s

/-- Forget the answers that an agent has had. -/
def farDrop (s : State) (w : FarWho) : State := { s with far := s.far.filter fun x => x.who != w }

/-- The state as an agent finds it, and as it leaves it: everything that it waited for on its way has come (log 71). -/
def asAgent (s : State) (w : FarWho) : State := { s with farNow := some w, farPos := 0, farAsk := none }
def agentDone (t s : State) (w : FarWho) : State := { t with farNow := s.farNow, farPos := s.farPos, farAsk := s.farAsk }.farDrop w

/-- What an agent of a die does that may have to wait for another module, the host or a channel: the first thing that has not come is asked
for, and nothing else is done; once everything has come it is done whole, and there is a result (R340, R371, R373, R379; DESIGN CHOICE, log
71). -/
def farSee {α : Type} (s : State) (w : FarWho) (die : Nat) (f : State → State × α) : State × Option α :=
  match f (s.asAgent w) with
  | (t, r) =>
    match t.farAsk with
    | none => (t.agentDone s w, some r)
    | some a => (s.askFor w die t.farPos a, none)
def farTry (s : State) (w : FarWho) (die : Nat) (f : State → State) : State × Bool :=
  match s.farSee w die fun t => (f t, ()) with
  | (t, r) => (t, r.isSome)
def farRun (s : State) (w : FarWho) (die : Nat) (f : State → State) : State := (s.farTry w die f).1

/-- An agent that needs one access to another module: its answer, or it is asked for and waited for. -/
def farLoad (s : State) (w : FarWho) (die fn pa n : Nat) : State × Option (Nat × List Byte) :=
  match ((s.farOf w).find? fun x => x.pa == pa && x.req == .read n).bind Far.ans with
  | some a => (s.farDrop w, some a)
  | none => (s.farPost w die 0 fn pa (.read n), none)

/-- The answer of a message that such an agent sent: code 0 with its bytes, 7 where they are poisoned, else the code of its failure (R376). -/
def farEnd (s : State) (id code : Nat) (bs : List Byte) : State :=
  { s with far := s.far.map fun x => if x.msg = id then { x with ans := some (code, bs) } else x }

end State

end Sys2Proof.Machine
end

