-- ==== Sys2Proof/Machine/Mem.lean ====
section
/-! DEFINITION. Translation, the accesses of a die's controllers, and event records: spec/08_memory_hierarchy.md R207 to R232 and
spec/03_launching.md R65. -/

namespace Sys2Proof.Machine

/-- Fields of a page-table entry (R222). -/
def pteAddr (e : Nat) : Nat := bits e 51 12 * 4096

/-- Is the address in the compression state region of its die (R219, R223)? -/
def State.compRegion (s : State) (pa : Nat) : Bool :=
  let per := if s.isExpander then s.localBytes else 2 ^ 37
  s.rangeOf pa == .hbm && (s.dieOf (pa / per)).compEn && decide (pa % per ≥ per - 2 ^ 26)

/-- Is a valid entry malformed (R223, R383)? dom is the table domain of the context, lvl the level and idx the index. -/
def malformed (s : State) (fn dom lvl idx e : Nat) : Bool :=
  let leaf := bitOf e 6
  let a := pteAddr e
  let d := bits e 59 58
  let s64 := bitOf e 7
  let comp := bitOf e 57
  let size := if lvl = 1 then 2 ^ 30 else if lvl = 2 then 2 ^ 21 else if s64 then 2 ^ 16 else 2 ^ 12
  if leaf then
    decide (bits e 63 60 ≠ 0 ∨ bits e 54 52 ≠ 0 ∨ bits e 11 8 ≠ 0 ∨ bits e 3 2 ≠ 0) || lvl == 0 || (s64 && lvl != 3) ||
      decide (a % size ≠ 0) || s.rangeOf a == .none || s.compRegion a || d == 3 || d != (s.rangeOf a).domain ||
      (bitOf e 55 && (!bitOf e 56 || comp || lvl != 2 || s.rangeOf a != .hbm)) ||
      (comp && s.rangeOf a != .hbm) || (s64 && idx % 16 != 0) ||
      (d == 2 && !s.extentLost a && !s.extentGranted fn a size)
  else
    decide (bits e 63 52 ≠ 0 ∨ bits e 11 7 ≠ 0 ∨ bits e 5 1 ≠ 0) || lvl == 3 || s.rangeOf a == .none ||
      s.compRegion a || decide ((s.rangeOf a).domain ≠ dom)

/-- What one access of a lane, an engine or the matrix stream's fetch meets before it is performed. -/
inductive Reach where
  | ok (pa : Nat)                        -- local: memory of this module or cached host and expander memory
  | remote (pa : Nat)                    -- another module (R371)
  | fault (reason : Nat)                 -- parks, kind 0x05 (R227)
  | poison                               -- parks, kind 0x06 (R230)
  | protect                              -- beyond the window bays: traps, does not park (R218)
  | fail (code : Nat)                    -- a remote failure, delivery H (R371, R376, R386)
  | wait                                 -- a window bay still being prepared (R218)
  deriving DecidableEq, Repr

namespace State

/-- Where a translated access goes, and what stops it (R218, R230, R340, R371, R386). -/
def reachPa (s : State) (fn pa n : Nat) (reads : Bool) : Reach :=
  let here := fun (pa : Nat) => if s.chanBusy pa then Reach.wait else if reads && s.poisoned pa n then .poison else .ok pa
  match s.rangeOf pa with
  | .window =>
    let d := s.dieOf (bits (pa - s.winBase) 30 29)
    let w := (pa - s.winBase) % 2 ^ 29
    if w ≥ d.windowBays * 2 ^ 24 then .protect
    else if d.preparing.contains (63 - w / 2 ^ 24) then .wait
    else here pa
  | .module_ =>
    if bits pa 49 40 = s.moduleNo then here (s.localPa pa)
    else if !s.fabricOn fn then .fail 0x06
    else if (s.routePort pa).isNone then .fail 0x06
    else .remote pa
  | .expander => if s.extentLost pa then .fail 0x14 else here pa
  | .host => if s.upViral then .fail 0x15 else here pa
  | _ => here pa

end State

/-- What a walk ends with: a reason of R227, a number from 6 on for what is no page fault, or a translation. 6: it meets a poisoned sector of a
table (R230); 7: it has to wait (R218, R340, R371, R379); 8: a table lies beyond the window bays (R218); 0x100 + c: an access that it makes, or
one to the page, fails with code c (R371, R376, R386). -/
abbrev Walk := Except Nat Tlb

/-- A walker reads the entry of a table at a physical address, wherever the table lies (R221, R223, R230, R371, R380, R386). -/
def tabRead (s : State) (fn pa : Nat) : State × Except Nat Nat :=
  match s.reachPa fn pa 8 true with
  | .ok pa => (s.tlpRead pa 8, .ok (s.rdNum pa 8))
  | .remote pa =>
    match s.farDo fn pa (.read 8) with
    | (s, some (0, bs)) => (s, .ok (ofBytes bs))
    | (s, some (7, _)) => (s, .error 6)
    | (s, some (c, _)) => (s, .error (0x100 + c))
    | (s, none) => (s, .error 7)
  | .wait => (s.ask .wait, .error 7)
  | .protect => (s, .error 8)
  | .fail c => (s, .error (0x100 + c))
  | .poison | .fault _ => (s, .error 6)

/-- Mark a leaf Accessed, and Dirty for a write, by a compare-and-swap at system scope, where the leaf lies (R224, R371). An update that a host
completer refuses faults with reason 5. -/
def leafUpdate (s : State) (fn pa e : Nat) (writes : Bool) : State × Option Nat :=
  let m := if writes then 0x30 else 0x10
  if e ||| m = e then (s, none)
  else if s.hostTlp pa && Config.hostAtomic pa != 0 then (s, some 5)
  else
    match s.reachPa fn pa 8 false with
    | .remote pa =>
      match s.farDo fn pa (.atomic .or 8 m m) with
      | (s, some (0, _)) => (s, none)
      | (s, some (7, _)) => (s, some 6)
      | (s, some (c, _)) => (s, some (0x100 + c))
      | (s, none) => (s, some 7)
    | .fail c => (s, some (0x100 + c))
    | _ => (s.orByte (s.localPa pa) (BitVec.ofNat 8 m), none)

/-- A leaf reached by the walk: permission, then its update (R224, R227, R386). -/
def leafEnd (s : State) (fn ctx va pa e size : Nat) (acc : AccType) : State × Walk :=
  if bits e 59 58 = 2 ∧ s.extentLost (pteAddr e) then (s, .error 0x114)
  else if acc.writes && !bitOf e 1 then (s, .error 2)
  else
    match leafUpdate s fn pa e acc.writes with
    | (s, some r) => (s, .error r)
    | (s, none) =>
      (s, .ok { fn := fn, ctx := ctx, page := va / size, size := size, pa := pteAddr e, writable := bitOf e 1,
                dirty := bitOf e 5 || acc.writes, capable := bitOf e 55, pinned := bitOf e 56, domain := bits e 59 58 })

/-- The levels of a walk from a table (R221). n counts the levels left: 4 at level 0. -/
def walkFrom (s : State) (fn ctx dom rootBits va : Nat) (acc : AccType) : Nat → Nat → State × Walk
  | 0, _ => (s, .error 3)
  | n + 1, tab =>
    let lvl := 3 - n
    if lvl = 3 then
      let g := 16 * bits va 20 16
      let i := bits va 20 12
      match tabRead s fn (tab + 8 * g) with
      | (s, .error r) => (s, .error r)
      | (s, .ok eg) =>
        if bitOf eg 0 && bitOf eg 7 then
          if malformed s fn dom 3 g eg || !bitOf eg 6 then (s, .error 3)
          else leafEnd s fn ctx va (tab + 8 * g) eg (2 ^ 16) acc
        else
          match tabRead s fn (tab + 8 * i) with
          | (s, .error r) => (s, .error r)
          | (s, .ok e) =>
            if !bitOf e 0 then (s, .error 1)
            else if !bitOf e 6 || bitOf e 7 || malformed s fn dom 3 i e then (s, .error 3)
            else leafEnd s fn ctx va (tab + 8 * i) e (2 ^ 12) acc
    else
      let i := if lvl = 0 then bits va 55 39 else if lvl = 1 then bits va 38 30 else bits va 29 21
      if lvl = 0 ∧ i ≥ 2 ^ rootBits then (s, .error 1)
      else
        match tabRead s fn (tab + 8 * i) with
        | (s, .error r) => (s, .error r)
        | (s, .ok e) =>
          if !bitOf e 0 then (s, .error 1)
          else if malformed s fn dom lvl i e then (s, .error 3)
          else if bitOf e 6 then leafEnd s fn ctx va (tab + 8 * i) e (if lvl = 1 then 2 ^ 30 else 2 ^ 21) acc
          else walkFrom s fn ctx dom rootBits va acc n (pteAddr e)

/-- A page-table walk by the walker of a die (R220, R221, R223, R227, R235). -/
def walk (s : State) (die fn ctx va : Nat) (acc : AccType) : State × Walk :=
  let at_ := (s.fnBlock fn die).ctxTable + 16 * ctx
  if va ≥ 2 ^ 56 then (s, .error 1)
  else
    match tabRead s fn at_ with
    | (s, .error r) => (s, .error r)
    | (s, .ok e) =>
      match tabRead s fn (at_ + 8) with
      | (s, .error r) => (s, .error r)
      | (s, .ok e') =>
        if !bitOf e 7 || (s.ctxOf fn ctx).torn then (s, .error 1)
        else if bits e 63 52 ≠ 0 ∨ bits e 11 8 ≠ 0 ∨ bits e 4 0 > 17 ∨ bits e 6 5 ≥ 2 ∨ e' ≠ 0 then (s, .error 3)
        else walkFrom s fn ctx (bits e 6 5) (bits e 4 0) va acc 4 (pteAddr e)

/-- Does a TLB entry answer for an address? -/
def Tlb.covers (t : Tlb) (fn ctx va : Nat) : Bool :=
  t.fn == fn && t.ctx == ctx && decide (t.size ≠ 0 ∧ va / t.size = t.page)

/-- Put a translation into a TLB of n entries; the oldest goes when it is full (DESIGN CHOICE, log 9). -/
def tlbFill (n : Nat) (l : List Tlb) (t : Tlb) : List Tlb := (t :: l.filter (fun x => decide (x ≠ t))).take n

/-- The set of an L2 TLB that a translation goes to: its page number modulo 4096 (DESIGN CHOICE, log 9). -/
def Tlb.set (t : Tlb) : Nat := t.page % 4096

/-- Put a translation into an L2 TLB of 4096 sets of 8: the oldest of its set goes when the set is full (R225; log 9). -/
def l2Fill (l : List Tlb) (t : Tlb) : List Tlb :=
  tlbFill 8 (l.filter fun x => x.set == t.set) t ++ l.filter fun x => x.set != t.set

namespace State

/-- What the TLBs of a core (or, for a controller of the die, its L2 TLB) answer: an entry whose Dirty was clear sends a
write back to the walker (R225). -/
def tlbHit (s : State) (die : Nat) (core : Option Nat) (fn ctx va : Nat) (acc : AccType) : Option Tlb :=
  let l1 := match core with | some c => (s.coreOf die c).tlb | none => []
  match (l1 ++ s.l2tlb.get [] die).find? fun t => t.covers fn ctx va with
  | some t => if acc.writes && t.writable && !t.dirty then none else some t
  | none => none

/-- Fill the TLBs with a translation. -/
def fillTlb (s : State) (die : Nat) (core : Option Nat) (t : Tlb) : State :=
  let s := { s with l2tlb := s.l2tlb.set die (l2Fill (s.l2tlb.get [] die) t) }
  match core with
  | some c => s.modCore die c fun x => { x with tlb := tlbFill 256 x.tlb t }
  | none => s

/-- Translate a virtual address for an access (R221 to R225): the new state, and the physical address or a reason. -/
def translate (s : State) (die : Nat) (core : Option Nat) (fn ctx va : Nat) (acc : AccType) : State × Except Nat Nat :=
  match s.tlbHit die core fn ctx va acc with
  | some t => if acc.writes && !t.writable then (s, .error 2) else (s, .ok (t.pa + va % t.size))
  | none =>
    match walk s die fn ctx va acc with
    | (s, .error r) => (s, .error r)
    | (s, .ok t) => (s.fillTlb die core t, .ok (t.pa + va % t.size))

end State

namespace State

/-- What an access whose translation fails meets (R218, R227, R230, R386). -/
def missed (r : Nat) : Reach :=
  if r < 6 then .fault r else if r = 6 then .poison else if r = 7 then .wait else if r = 8 then .protect else .fail (r - 0x100)

/-- One access of n bytes at a virtual address by the issuing core of the block (R221, R227, R230). -/
def reach (s : State) (b : Block) (va n : Nat) (acc : AccType) : State × Reach :=
  let gr := s.gridOf b.grid
  match s.translate b.die (some b.core) gr.fn gr.ctx va acc with
  | (s, .error r) => (s, missed r)
  | (s, .ok pa) => (s, s.reachPa gr.fn pa n (decide (acc ≠ .write ∧ acc ≠ .engWrite)))

/-! ### Controllers of a die -/

/-- Translate a run of n bytes page by page: the physical pieces, or the first failing address with its reason. -/
def translateRun (s : State) (die fn ctx : Nat) (acc : AccType) : Nat → Nat → Nat → State × Except (Nat × Nat) (List (Nat × Nat))
  | 0, _, _ => (s, .ok [])
  | k + 1, va, n =>
    if n = 0 then (s, .ok [])
    else
      let m := min n (4096 - va % 4096)
      match s.translate die none fn ctx va acc with
      | (s, .error r) => (s, .error (va, r))
      | (s, .ok pa) =>
        match s.translateRun die fn ctx acc k (va + m) (n - m) with
        | (s, .error x) => (s, .error x)
        | (s, .ok l) => (s, .ok ((pa, m) :: l))

/-- Bytes of another module's memory, line by line, one message for each (R371, R373): none where one is refused, lost or poisoned. -/
def farRead (s : State) (fn : Nat) : Nat → Nat → Nat → State × Option (List Byte)
  | 0, _, _ => (s, some [])
  | k + 1, pa, n =>
    if n = 0 then (s, some [])
    else
      let m := min n (128 - pa % 128)
      match s.farDo fn pa (.read m) with
      | (s, some (0, bs)) =>
        match s.farRead fn k (pa + m) (n - m) with
        | (s, some t) => (s, some (bs ++ t))
        | (s, none) => (s, none)
      | (s, _) => (s, none)
def farWrite (s : State) (fn : Nat) : Nat → Nat → List Byte → State × Bool
  | 0, _, _ => (s, true)
  | k + 1, pa, bs =>
    if bs = [] then (s, true)
    else
      let m := 128 - pa % 128
      match s.farDo fn pa (.write (bs.take m)) with
      | (s, some (0, _)) => s.farWrite fn k (pa + m) (bs.drop m)
      | (s, _) => (s, false)

/-- One piece that a controller reads: none where it cannot be read. It waits for a window bay that is being prepared and for a channel that
computes (R218, R340). -/
def devPiece (s : State) (fn pa n : Nat) : State × Option (List Byte) :=
  match s.reachPa fn pa n true with
  | .ok pa => (s.tlpRead pa n, some (s.rd pa n))
  | .wait => (s.ask .wait, none)
  | .remote pa => s.farRead fn (n / 128 + 2) pa n
  | _ => (s, none)

/-- The pieces of a run, in their order. -/
def devPieces (s : State) (fn : Nat) : List (Nat × Nat) → State × Option (List Byte)
  | [] => (s, some [])
  | p :: t =>
    match s.devPiece fn p.1 p.2 with
    | (s, none) => (s, none)
    | (s, some a) =>
      match s.devPieces fn t with
      | (s, some b) => (s, some (a ++ b))
      | (s, none) => (s, none)

/-- A controller of a die reads bytes at a virtual address: none where a byte does not translate, is poisoned, or cannot be reached
(R218, R371, R386). -/
def devRead (s : State) (die fn ctx va n : Nat) : State × Option (List Byte) :=
  match s.translateRun die fn ctx .read (n / 4096 + 2) va n with
  | (s, .error _) => (s, none)
  | (s, .ok l) => s.devPieces fn l

/-- May a controller write a piece, and where: none where it cannot be reached (R218, R371, R386). -/
def devTarget (s : State) (fn : Nat) (p : Nat × Nat) : Option (Nat × Bool) :=
  match s.reachPa fn p.1 p.2 false with
  | .ok pa => some (pa, false)
  | .remote pa => some (pa, true)
  | _ => none

/-- Bytes of another module's memory are written line by line. An event record is sent, and nobody waits for its answer but the ring (R65);
another write is waited for. -/
def farStore (s : State) (die fn pa : Nat) (bs : List Byte) (who : Asker) : State × Bool × Bool :=
  match who with
  | .record _ _ _ => (s.postRemote (farMsg die fn pa (.write bs) who), true, false)
  | _ =>
    match s.farWrite fn (bs.length / 128 + 2) pa bs with
    | (s, ok) => (s, ok, true)

/-- Write the pieces of a run: whether all of it could be written, and whether all of it has been performed (R344). -/
def writePieces (s : State) (die fn : Nat) (who : Asker) : List (Nat × Nat) → List Byte → State × Bool × Bool
  | [], _ => (s, true, true)
  | p :: t, bs =>
    match s.devTarget fn p with
    | none => (s, false, true)
    | some (pa, far) =>
      let (s, ok, now) :=
        if far then s.farStore die fn pa (bs.take p.2) who
        else
          match s.homeWrites fn who (p.2 / 128 + 2) pa (bs.take p.2) with
          | (s, now) => (s, true, now)
      if !ok then (s, false, now)
      else
        match s.writePieces die fn who t (bs.drop p.2) with
        | (s, a, b) => (s, a, now && b)

/-- A controller of a die writes bytes at a virtual address: whether it could, and whether every byte has been performed at its home.
Nothing is written where a byte does not translate or cannot be reached; a poisoned sector is written, and clean where all of it is (R230). -/
def devStore (s : State) (die fn ctx va : Nat) (bs : List Byte) (who : Asker) : State × Bool × Bool :=
  match s.translateRun die fn ctx .write (bs.length / 4096 + 2) va bs.length with
  | (s, .error _) => (s, false, true)
  | (s, .ok l) =>
    if l.any fun p => s.reachPa fn p.1 p.2 false == .wait then (s.ask .wait, false, true)
    else if l.all fun p => (s.devTarget fn p).isSome then s.writePieces die fn who l bs
    else (s, false, true)

def devWrite (s : State) (die fn ctx va : Nat) (bs : List Byte) : State × Bool :=
  match s.devStore die fn ctx va bs .nobody with
  | (s, ok, _) => (s, ok)

/-- A store that is not made where it meets a poisoned sector (R470). -/
def devStoreClean (s : State) (die fn ctx va : Nat) (bs : List Byte) (who : Asker) : State × Bool × Bool :=
  match s.translateRun die fn ctx .write (bs.length / 4096 + 2) va bs.length with
  | (s, .error _) => (s, false, true)
  | (s, .ok l) => if l.any fun p => s.poisoned (s.localPa p.1) p.2 then (s, false, true) else s.devStore die fn ctx va bs who
def devWriteClean (s : State) (die fn ctx va : Nat) (bs : List Byte) : State × Bool :=
  match s.devStoreClean die fn ctx va bs .nobody with
  | (s, ok, _) => (s, ok)

def devNum (s : State) (die fn ctx va n : Nat) : State × Option Nat :=
  match s.devRead die fn ctx va n with
  | (s, some b) => (s, some (ofBytes b))
  | (s, none) => (s, none)

/-- An event that a function's ring of a die cannot take is counted in EvLost, saturating (R65). -/
def loseEvent (s : State) (fn die : Nat) : State :=
  s.modEvq fn die fun q => { q with lost := if q.lost = 0xFFFFFFFF then q.lost else q.lost + 1 }

/-- Raise a vector of a function: one of those it has been given (R64; log 69). -/
def raise (s : State) (fn vec : Nat) : State := if vec < (s.fnOf fn).vectors then s.emit (.msix fn vec) else s

/-- The records of a function's ring on a die up to the first that is not yet written: EvWrite (R65). -/
def shown (q : EventQ) : Nat := q.unwritten.foldl min q.write

/-- An event is discarded: the newest record already written says that events were discarded after it (R65). -/
def dropEvent (s : State) (fn die : Nat) : State :=
  let q := s.evqOf fn die
  let s := s.loseEvent fn die
  if q.write = 0 then s
  else (s.devWrite die fn 0 (q.base + 32 * ((q.write - 1) % 2 ^ q.z) + 0x18) (toBytes 8 ((q.write - 1) % 2 ^ 63 + 2 ^ 63))).1

/-- Append an event record to the event queue of a function on a die (R65): the fields at 0x00, 0x02, 0x04, 0x05, 0x06, 0x08
and 0x10; the device writes the die at 0x01 and the sequence number at 0x18. The vector is raised once the record has been written. -/
def event (s : State) (fn die kind o2 o4 o5 o6 w8 w10 : Nat) : State :=
  let q := s.evqOf fn die
  if !q.enabled then s.loseEvent fn die
  else if q.write - q.read = 2 ^ q.z then s.dropEvent fn die
  else
    let bs := toBytes 1 kind ++ toBytes 1 die ++ toBytes 2 o2 ++ toBytes 1 o4 ++ toBytes 1 o5 ++ toBytes 2 o6 ++
      toBytes 8 w8 ++ toBytes 8 w10 ++ toBytes 8 (q.write % 2 ^ 63)
    match s.devStore die fn 0 (q.base + 32 * (q.write % 2 ^ q.z)) bs (.record fn die q.write) with
    | (s, false, _) => s.dropEvent fn die
    | (s, true, now) =>
      let s := s.modEvq fn die fun q => { q with write := q.write + 1, unwritten := if now then q.unwritten else q.unwritten ++ [q.write] }
      if now then s.raise fn q.vec else s

/-- A record that waited has been written: EvWrite may pass it, and the vector is raised (R65). -/
def recordDone (s : State) (fn die idx : Nat) : State :=
  let s := s.modEvq fn die fun q => { q with unwritten := q.unwritten.filter (· != idx) }
  s.raise fn (s.evqOf fn die).vec

/-- Scratch of a block (R208). -/
def scr (s : State) (b a n : Nat) : List Byte := getBytes (s.blkOf b).scratch a n
def scrNum (s : State) (b a n : Nat) : Nat := getNum (s.blkOf b).scratch a n
def setScr (s : State) (b a : Nat) (bs : List Byte) : State :=
  s.modBlk b fun x => { x with scratch := putBytes x.scratch a bs }
def scrBytes (s : State) (b : Nat) : Nat := (s.gridOf (s.blkOf b).grid).scratchBytes

/-- A group or the stream engine writes scratch: what a matrix word had overwritten there is gone (R391). -/
def writeScr (s : State) (b a : Nat) (bs : List Byte) : State :=
  let s := s.setScr b a bs
  if (s.blkOf b).ms.old.isEmpty then s
  else s.modBlk b fun x => { x with ms := { x.ms with old := x.ms.old.filter fun o => decide (o.1 < a ∨ a + bs.length ≤ o.1) } }

/-- Bytes of scratch of the focused block, as a group reads them: of a byte that the latest matrix word has written, either value, byte by byte
(R277). -/
def seenScr (s : State) (a n : Nat) : List Byte :=
  if s.blk.ms.old.isEmpty then s.scr s.focus.blk a n
  else (List.range n).map fun i =>
    match s.blk.ms.old.find? fun o => o.1 == a + i with
    | some o => if Config.raced s.clock (a + i) then o.2 else s.blk.scratch.get (a + i)
    | none => s.blk.scratch.get (a + i)

/-- Constant space of the issuing block: 64 KiB, wrapping (R26). -/
def const (s : State) (a n : Nat) : List Byte := (List.range n).map fun i => s.grid.args.get ((a + i) % 65536)

end State

end Sys2Proof.Machine
end

