-- ==== Sys2Proof/Machine/Links.lean ====
section
/-! DEFINITION. Replay, training and the registers of links (spec/14_links.md R366 to R369, R371). -/

namespace Sys2Proof.Machine
namespace State

/-- Replace bits hi to lo of LINKSTAT. -/
def setLink (s : State) (d l hi lo v : Nat) : State :=
  s.modDie d fun x =>
    let w := (x.linkstat.get l).toNat
    { x with linkstat := x.linkstat.set l (BitVec.ofNat 32 (w - bits w hi lo * 2 ^ lo + v % 2 ^ (hi + 1 - lo) * 2 ^ lo)) }

/-- The record of kind 0x09 (R369). -/
def linkEvent (s : State) (d l ev : Nat) : State := s.event 0 d 0x09 l ev 0 0 0 (s.linkWord d l).toNat

/-- The buffered flits after a sequence number. -/
def afterSeq (fs : List Flit) (n : Nat) : List Flit :=
  match (fs.take 256).findIdx? fun f => f.seq == n with
  | some i => fs.drop (i + 1)
  | none => fs

/-- Flits up to a number are acknowledged: they leave the buffer, and flits that waited behind it are sent. -/
def ackFlits (s : State) (d l n : Nat) : State :=
  let tx := s.linkBuf d l
  let rest := afterSeq tx n
  (s.modDie d fun x => { x with linkTx := x.linkTx.set l rest }).emitFlits d l ((rest.take 256).drop (256 - (tx.length - rest.length)))

/-- Training starts (R367): no flit is sent until it ends. -/
def startTraining (s : State) (d l : Nat) : State :=
  let s := s.modDie d fun x => { x with linkWas := x.linkWas.set l (s.linkWord d l) }
  (s.setLink d l 30 30 1).setLink d l 15 8 (bits (s.linkWord d l).toNat 15 8 + 1)

/-- A NAK names the last good number (R366): what follows it is sent again, and a sixteenth replay within 1 ms, counted as 1,200,000
cycles of the module's clock, starts training (R367). -/
def nakFlits (s : State) (d l n : Nat) : State :=
  let rest := afterSeq (s.linkBuf d l) n
  let times := (s.clock :: ((s.dieOf d).replays.get [] l).filter fun t => decide (t + 1200000 > s.clock)).take 16
  let s := s.modDie d fun x => { x with linkTx := x.linkTx.set l rest, replays := x.replays.set l times }
  let s := (s.emitFlits d l (rest.take 256)).setLink d l 7 0 (bits (s.linkWord d l).toNat 7 0 + 1)
  if times.length ≥ 16 then (s.modDie d fun x => { x with replays := x.replays.del l }).startTraining d l else s

/-- A link goes down: the unacknowledged flits of an Itroth port go out, in order, on the ports that the rule then chooses (R371). -/
def downLink (s : State) (d l : Nat) : State :=
  let fs := s.linkBuf d l
  let was := s.linkIsUp d l
  let s := ((s.setLink d l 31 30 0).modDie d fun x => { x with linkTx := x.linkTx.del l })
  let s := if was then s.linkEvent d l 3 else s
  fs.foldl (fun s f =>
    match s.routePort (ofBytes (f.payload.take 8)) with
    | some p => s.sendFlit (p / 4) (p % 4) f.payload
    | none => s) s

/-- What has changed at a link that comes out of training, against what it was before: 1 its rate, 2 it has narrowed, 4 it has come up, in this
order (R369; DESIGN CHOICE, log 81). -/
def linkChanges (was now : Nat) : List Nat :=
  (if bits was 29 28 ≠ bits now 29 28 then [1] else []) ++ (if bits now 27 26 ≠ 0 ∧ bits was 27 26 ≠ bits now 27 26 then [2] else []) ++
    (if bitOf was 31 then [] else [4])

/-- A link comes out of training with its rate and width: what is buffered is sent again (R367). -/
def upLink (s : State) (d l : Nat) : State :=
  let was := ((s.dieOf d).linkWas.get l).toNat
  let s := s.setLink d l 31 30 2
  let s := (linkChanges was (s.linkWord d l).toNat).foldl (fun s ev => s.linkEvent d l ev) s
  s.emitFlits d l ((s.linkBuf d l).take 256)

/-- The lanes in use under a Width code. -/
def lanesInUse (w : Nat) : Nat := if w = 1 then 0x0F else if w = 2 then 0xF0 else 0xFF

/-- Training ends with the lanes that failed (R367). -/
def endTraining (s : State) (d l fail : Nat) : State :=
  let v := (s.linkWord d l).toNat
  let w := bits v 27 26
  let r := bits v 29 28
  let f := (BitVec.ofNat 8 fail &&& BitVec.ofNat 8 (lanesInUse w)).toNat
  let s := s.setLink d l 25 18 f
  if l ≥ 4 then (if f = 0 then s.upLink d l else s.downLink d l)
  else if f ≠ 0 ∧ w = 0 ∧ f / 16 = 0 then (s.setLink d l 27 26 2).upLink d l
  else if f ≠ 0 ∧ w = 0 ∧ f % 16 = 0 then (s.setLink d l 27 26 1).upLink d l
  else if f = 0 ∧ r < 2 then (s.setLink d l 29 28 (r + 1)).upLink d l
  else s.downLink d l

end State

/-- LINK_FLIT_RECEIVE (R365, R366): the 256 bytes that arrive. A flit whose CRC fails after FEC is discarded and answered by a NAK; a good data
flit is taken in sequence, once. What its message asks comes about as REMOTE_MESSAGE, or as what an answer is. -/
def execLinkFlitReceive (d l : Nat) (bs : List Byte) (s : State) : Host.Outcome State Fault Refusal :=
  .next (
    if !s.hasLink d l || !s.linkSends d l then s
    else
    match Flit.parse bs with
    | none =>
      let (c, s) := s.fresh 10
      s.emit (.flit d l (Flit.wire { kind := 2, seq := 0, ack := s.lastGood d l, credits := c.toNat, payload := [] }))
    | some f =>
      let s := s.ackFlits d l f.ack
      if f.kind = 2 then s.nakFlits d l f.ack
      else if f.kind = 0 ∧ f.seq = ((s.dieOf d).linkRx.get l).toNat % 1024 then
        s.modDie d fun x => { x with linkRx := x.linkRx.set l (BitVec.ofNat 32 ((f.seq + 1) % 1024)) }
      else s)

/-- LINK_NAK (R366). -/
def execLinkNak (d l n : Nat) (s : State) : Host.Outcome State Fault Refusal := .next (if s.hasLink d l then s.nakFlits d l n else s)

/-- LINKCTL_RETRAIN (R367, R368): from 224 Gb/s and 8 lanes; a link held down does not train. -/
def execLinkctlRetrain (d l : Nat) (s : State) : Host.Outcome State Fault Refusal :=
  .next (if !s.hasLink d l || ((s.dieOf d).linkctl.get l).getLsbD 30 || s.linkTrains d l then s
         else (s.startTraining d l).setLink d l 29 26 0)

/-- LINKCTL_DISABLE (R368): holds the link down. -/
def execLinkctlDisable (d l v : Nat) (s : State) : Host.Outcome State Fault Refusal :=
  .next (if !s.hasLink d l then s else
    let s := s.modDie d fun x => { x with linkctl := x.linkctl.set l (BitVec.ofNat 32 v &&& 0x40000000) }
    if bitOf v 30 then s.downLink d l else s)

/-- LINK_TRAINING_END (R367). -/
def execLinkTrainingEnd (d l fail : Nat) (s : State) : Host.Outcome State Fault Refusal :=
  .next (if s.hasLink d l && s.linkTrains d l then s.endTraining d l fail else s)

end Sys2Proof.Machine
end

