-- ==== Sys2Proof/WellFormed.lean ====
section
/-! DEFINITION. The limits that a decoded word must obey whatever state it meets: steps 3 and 8 of R138
(spec/05_instruction_words.md), with the register limits of R115 and of each form's own entry. A breach raises
IllegalInstruction (0x01). The limits that depend on the state (R103, and those of MODE) are not here. -/

namespace Sys2Proof

/-- Is a register number even: the even register of a pair (R7, R115)? -/
def even {n : Nat} (r : BitVec n) : Bool := r.toNat % 2 == 0

/-- Does a register number start a run of four that is aligned to four (R240, R245)? -/
def quad {n : Nat} (r : BitVec n) : Bool := r.toNat % 4 == 0

/-- The data register limit of a load or store of the size (R240, R244). -/
def AccSize.regOk (z : AccSize) (d : BitVec 8) : Bool :=
  match z with
  | .b32 => true
  | .b64 => even d
  | .b128 => quad d

/-- The register limits of an atomic (R245), and scratch only at .blk (R132). -/
def atomOk (d a : BitVec 8) (o : AtomOp) (scr wide : Bool) (sc : Scope) : Bool :=
  (scr || even a) && (!wide || even d) && (!scr || decide (sc = .blk)) &&
    (decide (o ≠ .cas) || (if wide then quad d else decide (d.toNat ≤ 254)))

/-- The limits of the operand a of a barrier instruction: an even pair for .g, 0 to 15 for .n (R133, R404). -/
def barOk (s : BarSpace) (a : BitVec 7) : Bool :=
  match s with
  | .word => even a
  | .scr => true
  | .num => decide (a.toNat < 16)

/-- The value limits of ACQ and REL (R400): scope 1 to 4, .scr only with blk, and an even pair for a global object. -/
def objOk (sc : BitVec 3) (a : BitVec 7) (scr : Bool) : Bool :=
  decide (1 ≤ sc.toNat ∧ sc.toNat ≤ 4) && (if scr then decide (sc.toNat = 1) else even a)

/-- A clause header's limits, step 3 of R138 (R117). -/
def headerOk (flagA flagB len : BitVec 4) (merge seed : Bool) : Bool :=
  decide (len ≠ 0) && decide (flagA.toNat < 12 ∨ flagA.toNat = 15) && decide (flagB.toNat < 12 ∨ flagB.toNat = 15) &&
    (!merge || seed)

/-- Steps 3 and 8 of R138: does the instruction obey the limits that its own fields can break? -/
def Instr.wf : Instr → Bool
  | .clauseHeader _ a b l m _ s => headerOk a b l m s
  | .mode _ _ t r _ _ _ _ _ _ => decide (t.toNat ≤ 13) && decide (r.toNat ≤ 5)
  | .sadd64 d a b | .ssub64 d a b => even d && even a && even b
  | .scmp64 _ _ a b => even a && even b
  | .sld z d a _ => even a && (decide (z ≠ .b64) || even d)
  | .sst z d a _ => even a && (decide (z ≠ .b64) || even d)
  | .slda _ i => quad i
  | .qsub _ b => even b
  | .ptos d _ | .vballot d _ => decide (d.toNat ≤ 125)
  | .pfroms _ a => decide (a.toNat ≤ 125)
  | .vlut3 _ a _ => decide (a.toNat ≤ 254)
  | .vaddc d _ _ => decide (d.toNat ≤ 254)
  | .vdivm d _ _ => decide (d.toNat ≤ 254)
  | .vmatch d _ _ => decide (d.toNat ≤ 253)
  | .vexpand d _ f => (match f with | .e2m3 | .e3m2 => true | _ => even d)
  | .ldG64 d _ _ _ | .stG64 d _ _ _ => even d
  | .ldG128 d _ _ _ | .stG128 d _ _ _ => quad d
  | .lds d _ _ z | .sts d _ _ z | .ldc d _ _ z => z.regOk d
  | .atom d a o p w s => atomOk d a o p w s
  | .red d a o p w s => atomOk d a o p w s && decide (o ≠ .exch) && decide (o ≠ .cas)
  | .scatadd d a o p w s => atomOk d a o p w s && (decide (o = .add) || decide (o = .fadd))
  | .fence s => decide (s.toNat ≤ 4)
  | .acq s a p | .rel s a p => objOk s a p
  | .bind d a b => decide (d.toNat ≤ 126) && even a && even b
  | .bari s a _ => barOk s a
  | .bara s _ a _ => barOk s a
  | .bart s _ a b => barOk s a && even b && decide (s ≠ .num)
  | .barw s a _ => barOk s a
  | .barq s d a => barOk s a && decide (d.toNat ≤ 124)
  | .patld _ a => even a
  | .actld a _ => even a
  | .mscfgGuard g => decide (2 ≤ g.toNat ∧ g.toNat ≤ 16)
  | .mscfgRound _ _ r => decide (r.toNat ≤ 5)
  | .lxin _ a _ _ | .lxout _ a _ _ => decide (a.toNat ≤ 126)
  | .lop o _ a b => decide (a.toNat ≤ 126) && (decide (o ≠ .not) || decide (b = 0))
  | .lops o _ a b => decide (a.toNat ≤ 126) && (if o = .not then decide (b = 0) else even b)
  | .lcmp c _ a _ => decide (a.toNat ≤ 126) && decide (c.code ≤ 2)
  | .lcmps _ _ a b => decide (a.toNat ≤ 126) && even b
  | .lpop _ a => decide (a.toNat ≤ 126)
  | .lsel d a _ => decide (a.toNat ≤ 126) && decide (d.toNat ≤ 126)
  | .lsrch d a b => decide (a.toNat ≤ 126) && decide (d.toNat ≤ 126) && even b
  | .lshift _ a _ => decide (a.toNat ≤ 126)
  | .kvxRd d a | .kvxWr d a => even d && decide (a.toNat ≤ 254)
  | _ => true

end Sys2Proof
end

