-- ==== Sys2Proof/Decode.lean ====
section
/-! DEFINITION. The decoder and the encoder of instruction words (spec/05_instruction_words.md R113 to R116, R126 to R138). -/

namespace Sys2Proof

/-- Why a word is no instruction: steps 5, 6 and 7 of R138. -/
inductive DecErr where
  | badPrimary | badSub | reserved
  deriving DecidableEq, Repr

/-- Bits 31:24, the primary opcode (R113). -/
def prim (w : Word) : Nat := w.toNat / 2 ^ 24

/-- The field of n bits from bit lo. -/
def fld (w : Word) (lo n : Nat) : BitVec n := BitVec.ofNat n (w.toNat / 2 ^ lo)

/-- Bit lo of a word. -/
def bit (w : Word) (lo : Nat) : Bool := w.toNat / 2 ^ lo % 2 == 1

/-- The sub field of formats FS and FT: bits 23:21 (R114). -/
def sub3 (w : Word) : Nat := w.toNat / 2 ^ 21 % 8

/-- The sub field of format FX: bits 7:0 (R114). -/
def sub8 (w : Word) : Nat := w.toNat % 256

/-- The sub field of format FSM: bits 1:0 (R114). -/
def sub2 (w : Word) : Nat := w.toNat % 4

/-- The sub field of format FA: bits 7:4 (R114). -/
def sub4 (w : Word) : Nat := w.toNat / 2 ^ 4 % 16

/-- Step 7 of R138: every reserved bit of the word is 0. -/
def ok (w : Word) (rsv : Nat) (i : Instr) : Except DecErr Instr :=
  if w.toNat &&& rsv = 0 then .ok i else .error .reserved


/-- The words of primaries 0x00 to 0x2F (R127), under steps 5 to 7 of R138. -/
def decodeScalar (w : Word) : Except DecErr Instr :=
  match prim w with
  | 0x00 => match sub3 w with
      | 0 => ok w 0x7F (.smov (fld w 14 7) (fld w 7 7))
      | _ => .error .badSub
  | 0x01 => ok w 0x800000 (.smovi (fld w 16 7) (fld w 0 16))
  | 0x02 => ok w 0x800000 (.smovh (fld w 16 7) (fld w 0 16))
  | 0x03 => match sub3 w with
      | 0 => ok w 0x0 (.sadd (fld w 14 7) (fld w 7 7) (fld w 0 7))
      | _ => .error .badSub
  | 0x04 => match sub3 w with
      | 0 => ok w 0x0 (.ssub (fld w 14 7) (fld w 7 7) (fld w 0 7))
      | _ => .error .badSub
  | 0x05 => match sub3 w with
      | 0 => ok w 0x0 (.smul (fld w 14 7) (fld w 7 7) (fld w 0 7))
      | _ => .error .badSub
  | 0x06 => match sub3 w with
      | 0 => ok w 0x0 (.smulh false (fld w 14 7) (fld w 7 7) (fld w 0 7))
      | 1 => ok w 0x0 (.smulh true (fld w 14 7) (fld w 7 7) (fld w 0 7))
      | _ => .error .badSub
  | 0x07 => match sub3 w with
      | 0 => ok w 0x0 (.sand (fld w 14 7) (fld w 7 7) (fld w 0 7))
      | _ => .error .badSub
  | 0x08 => match sub3 w with
      | 0 => ok w 0x0 (.sor (fld w 14 7) (fld w 7 7) (fld w 0 7))
      | _ => .error .badSub
  | 0x09 => match sub3 w with
      | 0 => ok w 0x0 (.sxor (fld w 14 7) (fld w 7 7) (fld w 0 7))
      | _ => .error .badSub
  | 0x0A => match sub3 w with
      | 0 => ok w 0x7F (.snot (fld w 14 7) (fld w 7 7))
      | _ => .error .badSub
  | 0x0B => match sub3 w with
      | 0 => ok w 0x0 (.sshl (fld w 14 7) (fld w 7 7) (fld w 0 7))
      | _ => .error .badSub
  | 0x0C => match sub3 w with
      | 0 => ok w 0x0 (.sshr (fld w 14 7) (fld w 7 7) (fld w 0 7))
      | _ => .error .badSub
  | 0x0D => match sub3 w with
      | 0 => ok w 0x0 (.ssra (fld w 14 7) (fld w 7 7) (fld w 0 7))
      | _ => .error .badSub
  | 0x0E => match sub3 w with
      | 0 => ok w 0x0 (.smin false (fld w 14 7) (fld w 7 7) (fld w 0 7))
      | 1 => ok w 0x0 (.smin true (fld w 14 7) (fld w 7 7) (fld w 0 7))
      | _ => .error .badSub
  | 0x0F => match sub3 w with
      | 0 => ok w 0x0 (.smax false (fld w 14 7) (fld w 7 7) (fld w 0 7))
      | 1 => ok w 0x0 (.smax true (fld w 14 7) (fld w 7 7) (fld w 0 7))
      | _ => .error .badSub
  | 0x10 => match sub3 w with
      | 0 => ok w 0x0 (.scmp .eq (fld w 14 7) (fld w 7 7) (fld w 0 7))
      | 1 => ok w 0x0 (.scmp .ne (fld w 14 7) (fld w 7 7) (fld w 0 7))
      | 2 => ok w 0x0 (.scmp .ltS (fld w 14 7) (fld w 7 7) (fld w 0 7))
      | 3 => ok w 0x0 (.scmp .leS (fld w 14 7) (fld w 7 7) (fld w 0 7))
      | 4 => ok w 0x0 (.scmp .ltN (fld w 14 7) (fld w 7 7) (fld w 0 7))
      | 5 => ok w 0x0 (.scmp .leN (fld w 14 7) (fld w 7 7) (fld w 0 7))
      | _ => .error .badSub
  | 0x11 => match sub3 w with
      | 0 => ok w 0x0 (.ssel (fld w 14 7) (fld w 7 7) (fld w 0 7))
      | _ => .error .badSub
  | 0x12 => match sub3 w with
      | 0 => ok w 0x7F (.spopc (fld w 14 7) (fld w 7 7))
      | _ => .error .badSub
  | 0x13 => match sub3 w with
      | 0 => ok w 0x7F (.sclz (fld w 14 7) (fld w 7 7))
      | _ => .error .badSub
  | 0x14 => match sub3 w with
      | 0 => ok w 0x7F (.sbrev (fld w 14 7) (fld w 7 7))
      | _ => .error .badSub
  | 0x15 => match sub3 w with
      | 0 => ok w 0x0 (.sbfe false (fld w 14 7) (fld w 7 7) (fld w 0 7))
      | 1 => ok w 0x0 (.sbfe true (fld w 14 7) (fld w 7 7) (fld w 0 7))
      | _ => .error .badSub
  | 0x16 => match sub3 w with
      | 0 => ok w 0x0 (.sld .n8 (fld w 14 7) (fld w 7 7) (fld w 0 7))
      | 1 => ok w 0x0 (.sld .s8 (fld w 14 7) (fld w 7 7) (fld w 0 7))
      | 2 => ok w 0x0 (.sld .n16 (fld w 14 7) (fld w 7 7) (fld w 0 7))
      | 3 => ok w 0x0 (.sld .s16 (fld w 14 7) (fld w 7 7) (fld w 0 7))
      | 4 => ok w 0x0 (.sld .b32 (fld w 14 7) (fld w 7 7) (fld w 0 7))
      | 5 => ok w 0x0 (.sld .b64 (fld w 14 7) (fld w 7 7) (fld w 0 7))
      | _ => .error .badSub
  | 0x17 => match sub3 w with
      | 0 => ok w 0x0 (.sst .b8 (fld w 14 7) (fld w 7 7) (fld w 0 7))
      | 1 => ok w 0x0 (.sst .b16 (fld w 14 7) (fld w 7 7) (fld w 0 7))
      | 2 => ok w 0x0 (.sst .b32 (fld w 14 7) (fld w 7 7) (fld w 0 7))
      | 3 => ok w 0x0 (.sst .b64 (fld w 14 7) (fld w 7 7) (fld w 0 7))
      | _ => .error .badSub
  | 0x18 => ok w 0x800000 (.slda (fld w 16 7) (fld w 0 16))
  | 0x19 => match sub3 w with
      | 0 => ok w 0x0 (.sadd64 (fld w 14 7) (fld w 7 7) (fld w 0 7))
      | _ => .error .badSub
  | 0x1A => match sub3 w with
      | 0 => ok w 0x0 (.ssub64 (fld w 14 7) (fld w 7 7) (fld w 0 7))
      | _ => .error .badSub
  | 0x1B => match sub3 w with
      | 0 => ok w 0x0 (.scmp64 .eq (fld w 14 7) (fld w 7 7) (fld w 0 7))
      | 1 => ok w 0x0 (.scmp64 .ne (fld w 14 7) (fld w 7 7) (fld w 0 7))
      | 2 => ok w 0x0 (.scmp64 .ltS (fld w 14 7) (fld w 7 7) (fld w 0 7))
      | 3 => ok w 0x0 (.scmp64 .leS (fld w 14 7) (fld w 7 7) (fld w 0 7))
      | 4 => ok w 0x0 (.scmp64 .ltN (fld w 14 7) (fld w 7 7) (fld w 0 7))
      | 5 => ok w 0x0 (.scmp64 .leN (fld w 14 7) (fld w 7 7) (fld w 0 7))
      | _ => .error .badSub
  | 0x1C => ok w 0x800000 (.saddImm (fld w 16 7) (fld w 0 16))
  | 0x1D => ok w 0x800000 (.ssubImm (fld w 16 7) (fld w 0 16))
  | 0x1E => ok w 0x800000 (.smulImm (fld w 16 7) (fld w 0 16))
  | 0x1F => ok w 0x800000 (.sandImm (fld w 16 7) (fld w 0 16))
  | 0x20 => ok w 0x800000 (.sorImm (fld w 16 7) (fld w 0 16))
  | 0x21 => ok w 0x800000 (.sxorImm (fld w 16 7) (fld w 0 16))
  | 0x22 => ok w 0x80FFE0 (.sshlImm (fld w 16 7) (fld w 0 5))
  | 0x23 => ok w 0x80FFE0 (.sshrImm (fld w 16 7) (fld w 0 5))
  | 0x24 => ok w 0x80FFE0 (.ssraImm (fld w 16 7) (fld w 0 5))
  | 0x25 => ok w 0x0 (.bra (fld w 0 24))
  | 0x26 => ok w 0x0 (.brx (fld w 0 24))
  | 0x27 => ok w 0x0 (.call (fld w 0 24))
  | 0x28 => match sub3 w with
      | 0 => ok w 0x1FC07F (.callx (fld w 7 7))
      | _ => .error .badSub
  | 0x29 => match sub3 w with
      | 0 => ok w 0x1FFFFF (.ret)
      | _ => .error .badSub
  | 0x2A => match sub3 w with
      | 0 => ok w 0x1FFFFF (.exit)
      | _ => .error .badSub
  | 0x2B => match sub3 w with
      | 0 => ok w 0x1FFFFF (.yield)
      | _ => .error .badSub
  | 0x2C => match sub3 w with
      | 0 => ok w 0x1FFFFF (.nop)
      | _ => .error .badSub
  | 0x2D => match sub3 w with
      | 0 => ok w 0x7F (.elect (fld w 14 7) (fld w 7 7))
      | _ => .error .badSub
  | _ => .error .badPrimary

/-- The words of primaries 0x30 to 0x3F (R128), under steps 5 to 7 of R138. -/
def decodeSystem (w : Word) : Except DecErr Instr :=
  match prim w with
  | 0x30 => ok w 0x7 (.mode (fld w 17 7) (bit w 16) (fld w 12 4) (fld w 9 3) (bit w 8) (bit w 7) (bit w 6) (bit w 5) (bit w 4) (bit w 3))
  | 0x31 => match sub3 w with
      | 0 => ok w 0x1FC07F (.modes (fld w 7 7))
      | 1 => ok w 0x7F (.modesSwap (fld w 14 7) (fld w 7 7))
      | _ => .error .badSub
  | 0x32 => ok w 0xFFF000 (.waitf (fld w 0 12))
  | 0x33 => ok w 0x0 (.sigchk (fld w 0 24))
  | 0x34 => ok w 0xFF0000 (.trap (fld w 0 16))
  | 0x35 => match sub3 w with
      | 0 => ok w 0x1FFFFF (.rteRetry)
      | 1 => ok w 0x1FFFFF (.rteCont)
      | _ => .error .badSub
  | 0x36 => ok w 0x800000 (.sysr (fld w 16 7) (fld w 0 16))
  | 0x37 => ok w 0x800000 (.sysw (fld w 16 7) (fld w 0 16))
  | 0x38 => match sub3 w with
      | 0 => ok w 0x1FC000 (.qsub (fld w 7 7) (fld w 0 7))
      | _ => .error .badSub
  | 0x39 => ok w 0xFF0000 (.rcommit (fld w 0 16))
  | 0x3A => ok w 0xFF0000 (.sleep (fld w 0 16))
  | _ => .error .badPrimary

/-- The words of primaries 0x40 to 0x7F (R129), under steps 5 to 7 of R138. -/
def decodeVectorInt (w : Word) : Except DecErr Instr :=
  match prim w with
  | 0x40 => ok w 0x0 (.vadd (fld w 16 8) (fld w 8 8) (fld w 0 8))
  | 0x41 => ok w 0x0 (.vsub (fld w 16 8) (fld w 8 8) (fld w 0 8))
  | 0x42 => ok w 0x0 (.vmul (fld w 16 8) (fld w 8 8) (fld w 0 8))
  | 0x43 => ok w 0x0 (.vmulh (fld w 16 8) (fld w 8 8) (fld w 0 8))
  | 0x44 => ok w 0x0 (.vmad (fld w 16 8) (fld w 8 8) (fld w 0 8))
  | 0x45 => ok w 0x0 (.vmadh (fld w 16 8) (fld w 8 8) (fld w 0 8))
  | 0x46 => ok w 0x0 (.vdiv (fld w 16 8) (fld w 8 8) (fld w 0 8))
  | 0x47 => ok w 0x0 (.vrem (fld w 16 8) (fld w 8 8) (fld w 0 8))
  | 0x48 => ok w 0x0 (.vdivm (fld w 16 8) (fld w 8 8) (fld w 0 8))
  | 0x49 => ok w 0x0 (.vand (fld w 16 8) (fld w 8 8) (fld w 0 8))
  | 0x4A => ok w 0x0 (.vor (fld w 16 8) (fld w 8 8) (fld w 0 8))
  | 0x4B => ok w 0x0 (.vxor (fld w 16 8) (fld w 8 8) (fld w 0 8))
  | 0x4C => ok w 0x0 (.vshl (fld w 16 8) (fld w 8 8) (fld w 0 8))
  | 0x4D => ok w 0x0 (.vshr (fld w 16 8) (fld w 8 8) (fld w 0 8))
  | 0x4E => ok w 0x0 (.vsra (fld w 16 8) (fld w 8 8) (fld w 0 8))
  | 0x4F => ok w 0x0 (.vrot (fld w 16 8) (fld w 8 8) (fld w 0 8))
  | 0x50 => ok w 0x0 (.vmin (fld w 16 8) (fld w 8 8) (fld w 0 8))
  | 0x51 => ok w 0x0 (.vmax (fld w 16 8) (fld w 8 8) (fld w 0 8))
  | 0x52 => ok w 0x0 (.vbfe (fld w 16 8) (fld w 8 8) (fld w 0 8))
  | 0x53 => ok w 0x0 (.vbfi (fld w 16 8) (fld w 8 8) (fld w 0 8))
  | 0x54 => ok w 0x0 (.vsel (fld w 16 8) (fld w 8 8) (fld w 0 8))
  | 0x55 => ok w 0x0 (.vaddc (fld w 16 8) (fld w 8 8) (fld w 0 8))
  | 0x56 => ok w 0x0 (.vsad (fld w 16 8) (fld w 8 8) (fld w 0 8))
  | 0x57 => ok w 0x0 (.vdp4 (fld w 16 8) (fld w 8 8) (fld w 0 8))
  | 0x58 => ok w 0x0 (.vlut3 (fld w 16 8) (fld w 8 8) (fld w 0 8))
  | 0x59 => ok w 0x0 (.vmovi (fld w 16 8) (fld w 0 16))
  | 0x5A => match sub8 w with
      | 0 => ok w 0x0 (.vmov (fld w 16 8) (fld w 8 8))
      | 1 => ok w 0x0 (.vnot (fld w 16 8) (fld w 8 8))
      | 2 => ok w 0x0 (.vabs (fld w 16 8) (fld w 8 8))
      | 3 => ok w 0x0 (.vneg (fld w 16 8) (fld w 8 8))
      | 4 => ok w 0x0 (.vclz (fld w 16 8) (fld w 8 8))
      | 5 => ok w 0x0 (.vpopc (fld w 16 8) (fld w 8 8))
      | 6 => ok w 0x0 (.vbrev (fld w 16 8) (fld w 8 8))
      | 7 => ok w 0xFF00 (.vlane (fld w 16 8))
      | _ => .error .badSub
  | 0x5B => ok w 0x80FF (.vbcast (fld w 16 8) (fld w 8 7))
  | 0x60 => ok w 0x800000 (.vcmpEq (fld w 16 7) (fld w 8 8) (fld w 0 8))
  | 0x61 => ok w 0x800000 (.vcmpNe (fld w 16 7) (fld w 8 8) (fld w 0 8))
  | 0x62 => ok w 0x800000 (.vcmpLt (fld w 16 7) (fld w 8 8) (fld w 0 8))
  | 0x63 => ok w 0x800000 (.vcmpLe (fld w 16 7) (fld w 8 8) (fld w 0 8))
  | 0x64 => ok w 0x800000 (.vcmpGt (fld w 16 7) (fld w 8 8) (fld w 0 8))
  | 0x65 => ok w 0x800000 (.vcmpGe (fld w 16 7) (fld w 8 8) (fld w 0 8))
  | 0x68 => ok w 0x0 (.pand (fld w 17 7) (fld w 10 7) (fld w 3 7) (fld w 0 3))
  | 0x69 => ok w 0x0 (.por (fld w 17 7) (fld w 10 7) (fld w 3 7) (fld w 0 3))
  | 0x6A => ok w 0x0 (.pxor (fld w 17 7) (fld w 10 7) (fld w 3 7) (fld w 0 3))
  | 0x6B => ok w 0x3FF (.pnot (fld w 17 7) (fld w 10 7))
  | 0x6C => ok w 0x3FF (.pmov (fld w 17 7) (fld w 10 7))
  | 0x6D => ok w 0x1FFFE (.pset (fld w 17 7) (bit w 0))
  | 0x6E => match sub3 w with
      | 0 => ok w 0x7F (.pcnt (fld w 14 7) (fld w 7 7))
      | _ => .error .badSub
  | 0x6F => match sub3 w with
      | 0 => ok w 0x7F (.pfroms (fld w 14 7) (fld w 7 7))
      | _ => .error .badSub
  | 0x70 => match sub3 w with
      | 0 => ok w 0x7F (.ptos (fld w 14 7) (fld w 7 7))
      | _ => .error .badSub
  | _ => .error .badPrimary

/-- The words of primaries 0x80 to 0x9F (R130), under steps 5 to 7 of R138. -/
def decodeVectorFloat (w : Word) : Except DecErr Instr :=
  match prim w with
  | 0x80 => ok w 0x0 (.vfadd (fld w 16 8) (fld w 8 8) (fld w 0 8))
  | 0x81 => ok w 0x0 (.vfsub (fld w 16 8) (fld w 8 8) (fld w 0 8))
  | 0x82 => ok w 0x0 (.vfmul (fld w 16 8) (fld w 8 8) (fld w 0 8))
  | 0x83 => ok w 0x0 (.vfma (fld w 16 8) (fld w 8 8) (fld w 0 8))
  | 0x84 => ok w 0x0 (.vfmin (fld w 16 8) (fld w 8 8) (fld w 0 8))
  | 0x85 => ok w 0x0 (.vfmax (fld w 16 8) (fld w 8 8) (fld w 0 8))
  | 0x86 => ok w 0x0 (.vfdiv (fld w 16 8) (fld w 8 8) (fld w 0 8))
  | 0x87 => ok w 0x0 (.vfldexp (fld w 16 8) (fld w 8 8) (fld w 0 8))
  | 0x88 => ok w 0x0 (.vdot2 (fld w 16 8) (fld w 8 8) (fld w 0 8))
  | 0x89 => ok w 0x800000 (.vfcmpEq (fld w 16 7) (fld w 8 8) (fld w 0 8))
  | 0x8A => ok w 0x800000 (.vfcmpNe (fld w 16 7) (fld w 8 8) (fld w 0 8))
  | 0x8B => ok w 0x800000 (.vfcmpLt (fld w 16 7) (fld w 8 8) (fld w 0 8))
  | 0x8C => ok w 0x800000 (.vfcmpLe (fld w 16 7) (fld w 8 8) (fld w 0 8))
  | 0x8D => ok w 0x800000 (.vfcmpGt (fld w 16 7) (fld w 8 8) (fld w 0 8))
  | 0x8E => ok w 0x800000 (.vfcmpGe (fld w 16 7) (fld w 8 8) (fld w 0 8))
  | 0x8F => ok w 0x800000 (.vfcmpUn (fld w 16 7) (fld w 8 8) (fld w 0 8))
  | 0x90 => ok w 0x800000 (.vfcmpOrd (fld w 16 7) (fld w 8 8) (fld w 0 8))
  | 0x91 => match sub8 w with
      | 0 => ok w 0x0 (.vfabs (fld w 16 8) (fld w 8 8))
      | 1 => ok w 0x0 (.vfneg (fld w 16 8) (fld w 8 8))
      | 2 => ok w 0x0 (.vrcp (fld w 16 8) (fld w 8 8))
      | 3 => ok w 0x0 (.vrsq (fld w 16 8) (fld w 8 8))
      | 4 => ok w 0x0 (.vsqrt (fld w 16 8) (fld w 8 8))
      | 5 => ok w 0x0 (.vexp2 (fld w 16 8) (fld w 8 8))
      | 6 => ok w 0x0 (.vlog2 (fld w 16 8) (fld w 8 8))
      | 7 => ok w 0x0 (.vsin (fld w 16 8) (fld w 8 8))
      | 8 => ok w 0x0 (.vcos (fld w 16 8) (fld w 8 8))
      | 9 => ok w 0x0 (.vtanh (fld w 16 8) (fld w 8 8))
      | 10 => ok w 0x0 (.vfrc (fld w 16 8) (fld w 8 8))
      | 11 => ok w 0x0 (.vfrnd (fld w 16 8) (fld w 8 8))
      | 12 => ok w 0x0 (.vfgexp (fld w 16 8) (fld w 8 8))
      | 13 => ok w 0x0 (.vfclass (fld w 16 8) (fld w 8 8))
      | _ => .error .badSub
  | 0x92 => ok w 0xFC (.vact (fld w 16 8) (fld w 8 8) (fld w 0 2))
  | 0x93 => match sub3 w with
      | 0 => ok w 0x1FC078 (.actld (fld w 7 7) (fld w 0 3))
      | _ => .error .badSub
  | 0x98 => match sub8 w with
      | 0 => ok w 0x0 (.vcvt (fld w 16 8) (fld w 8 8) .s8x4)
      | 1 => ok w 0x0 (.vcvt (fld w 16 8) (fld w 8 8) .n8x4)
      | 2 => ok w 0x0 (.vcvt (fld w 16 8) (fld w 8 8) .s16x2)
      | 3 => ok w 0x0 (.vcvt (fld w 16 8) (fld w 8 8) .n16x2)
      | 4 => ok w 0x0 (.vcvt (fld w 16 8) (fld w 8 8) .s32)
      | 5 => ok w 0x0 (.vcvt (fld w 16 8) (fld w 8 8) .n32)
      | 6 => ok w 0x0 (.vcvt (fld w 16 8) (fld w 8 8) .f16x2)
      | 7 => ok w 0x0 (.vcvt (fld w 16 8) (fld w 8 8) .bf16x2)
      | 8 => ok w 0x0 (.vcvt (fld w 16 8) (fld w 8 8) .f32)
      | 9 => ok w 0x0 (.vcvt (fld w 16 8) (fld w 8 8) .f64)
      | 10 => ok w 0x0 (.vcvt (fld w 16 8) (fld w 8 8) .s64)
      | 11 => ok w 0x0 (.vcvt (fld w 16 8) (fld w 8 8) .n64)
      | 12 => ok w 0x0 (.vcvt (fld w 16 8) (fld w 8 8) .e4m3x4)
      | 13 => ok w 0x0 (.vcvt (fld w 16 8) (fld w 8 8) .e5m2x4)
      | _ => .error .badSub
  | 0x99 => match sub8 w with
      | 8 => ok w 0x0 (.vquant (fld w 16 8) (fld w 8 8) .mxe4m3)
      | 9 => ok w 0x0 (.vquant (fld w 16 8) (fld w 8 8) .mxe5m2)
      | 10 => ok w 0x0 (.vquant (fld w 16 8) (fld w 8 8) .mxe2m1)
      | 11 => ok w 0x0 (.vquant (fld w 16 8) (fld w 8 8) .mxint8)
      | _ => .error .badSub
  | 0x9A => match sub8 w with
      | 8 => ok w 0x0 (.vdeq (fld w 16 8) (fld w 8 8) .mxe4m3)
      | 9 => ok w 0x0 (.vdeq (fld w 16 8) (fld w 8 8) .mxe5m2)
      | 10 => ok w 0x0 (.vdeq (fld w 16 8) (fld w 8 8) .mxe2m1)
      | 11 => ok w 0x0 (.vdeq (fld w 16 8) (fld w 8 8) .mxint8)
      | _ => .error .badSub
  | 0x9B => ok w 0x0 (.vpack (fld w 16 8) (fld w 8 8) (fld w 0 8))
  | 0x9C => match sub8 w with
      | 0 => ok w 0x0 (.vunpack (fld w 16 8) (fld w 8 8) false)
      | 1 => ok w 0x0 (.vunpack (fld w 16 8) (fld w 8 8) true)
      | _ => .error .badSub
  | 0x9D => match sub8 w with
      | 0 => ok w 0x0 (.vexpand (fld w 16 8) (fld w 8 8) .e2m3)
      | 1 => ok w 0x0 (.vexpand (fld w 16 8) (fld w 8 8) .e3m2)
      | 2 => ok w 0x0 (.vexpand (fld w 16 8) (fld w 8 8) .e2m1)
      | 3 => ok w 0x0 (.vexpand (fld w 16 8) (fld w 8 8) .s4)
      | 4 => ok w 0x0 (.vexpand (fld w 16 8) (fld w 8 8) .n4)
      | _ => .error .badSub
  | _ => .error .badPrimary

/-- The words of primaries 0xA0 to 0xAF (R131), under steps 5 to 7 of R138. -/
def decodeCrossLane (w : Word) : Except DecErr Instr :=
  match prim w with
  | 0xA0 => match sub8 w with
      | 0 => ok w 0x0 (.qswapx (fld w 16 8) (fld w 8 8))
      | _ => .error .badSub
  | 0xA1 => match sub8 w with
      | 0 => ok w 0x0 (.qswapy (fld w 16 8) (fld w 8 8))
      | _ => .error .badSub
  | 0xA2 => ok w 0xFC (.qbcast (fld w 16 8) (fld w 8 8) (fld w 0 2))
  | 0xA3 => match sub8 w with
      | 0 => ok w 0x0 (.qdiff (fld w 16 8) (fld w 8 8) false)
      | 1 => ok w 0x0 (.qdiff (fld w 16 8) (fld w 8 8) true)
      | _ => .error .badSub
  | 0xA4 => ok w 0x0 (.vshfl (fld w 16 8) (fld w 8 8) (fld w 0 8))
  | 0xA5 => ok w 0x0 (.vshflup (fld w 16 8) (fld w 8 8) (fld w 0 8))
  | 0xA6 => ok w 0x0 (.vshfldn (fld w 16 8) (fld w 8 8) (fld w 0 8))
  | 0xA7 => ok w 0x0 (.vshflx (fld w 16 8) (fld w 8 8) (fld w 0 8))
  | 0xA8 => match sub3 w with
      | 0 => ok w 0x7F (.vvote .all (fld w 14 7) (fld w 7 7))
      | 1 => ok w 0x7F (.vvote .any (fld w 14 7) (fld w 7 7))
      | 2 => ok w 0x7F (.vvote .uni (fld w 14 7) (fld w 7 7))
      | _ => .error .badSub
  | 0xA9 => match sub3 w with
      | 0 => ok w 0x7F (.vballot (fld w 14 7) (fld w 7 7))
      | _ => .error .badSub
  | 0xAA => match sub8 w with
      | 0 => ok w 0x0 (.vmatch (fld w 16 8) (fld w 8 8) false)
      | 1 => ok w 0x0 (.vmatch (fld w 16 8) (fld w 8 8) true)
      | _ => .error .badSub
  | 0xAB => match sub8 w with
      | 0 => ok w 0x0 (.vredi (fld w 16 8) (fld w 8 8) .add)
      | 1 => ok w 0x0 (.vredi (fld w 16 8) (fld w 8 8) .min)
      | 2 => ok w 0x0 (.vredi (fld w 16 8) (fld w 8 8) .max)
      | 3 => ok w 0x0 (.vredi (fld w 16 8) (fld w 8 8) .and)
      | 4 => ok w 0x0 (.vredi (fld w 16 8) (fld w 8 8) .or)
      | 5 => ok w 0x0 (.vredi (fld w 16 8) (fld w 8 8) .xor)
      | _ => .error .badSub
  | 0xAC => match sub8 w with
      | 0 => ok w 0x0 (.vsumf (fld w 16 8) (fld w 8 8))
      | _ => .error .badSub
  | 0xAD => match sub8 w with
      | 0 => ok w 0x0 (.vscan (fld w 16 8) (fld w 8 8) .add false)
      | 1 => ok w 0x0 (.vscan (fld w 16 8) (fld w 8 8) .add true)
      | 2 => ok w 0x0 (.vscan (fld w 16 8) (fld w 8 8) .min false)
      | 3 => ok w 0x0 (.vscan (fld w 16 8) (fld w 8 8) .min true)
      | 4 => ok w 0x0 (.vscan (fld w 16 8) (fld w 8 8) .max false)
      | 5 => ok w 0x0 (.vscan (fld w 16 8) (fld w 8 8) .max true)
      | _ => .error .badSub
  | _ => .error .badPrimary

/-- The words of primaries 0xB0 to 0xBF (R132), under steps 5 to 7 of R138. -/
def decodeLaneMemory (w : Word) : Except DecErr Instr :=
  match prim w with
  | 0xB0 => ok w 0x0 (.ldG32 (fld w 16 8) (fld w 8 8) (fld w 2 6) (fld w 0 2))
  | 0xB1 => ok w 0x0 (.ldG64 (fld w 16 8) (fld w 8 8) (fld w 2 6) (fld w 0 2))
  | 0xB2 => ok w 0x0 (.ldG128 (fld w 16 8) (fld w 8 8) (fld w 2 6) (fld w 0 2))
  | 0xB3 => ok w 0x0 (.stG32 (fld w 16 8) (fld w 8 8) (fld w 2 6) (fld w 0 2))
  | 0xB4 => ok w 0x0 (.stG64 (fld w 16 8) (fld w 8 8) (fld w 2 6) (fld w 0 2))
  | 0xB5 => ok w 0x0 (.stG128 (fld w 16 8) (fld w 8 8) (fld w 2 6) (fld w 0 2))
  | 0xB6 => match sub2 w with
      | 0 => ok w 0x0 (.lds (fld w 16 8) (fld w 8 8) (fld w 2 6) .b32)
      | 1 => ok w 0x0 (.lds (fld w 16 8) (fld w 8 8) (fld w 2 6) .b64)
      | 2 => ok w 0x0 (.lds (fld w 16 8) (fld w 8 8) (fld w 2 6) .b128)
      | _ => .error .badSub
  | 0xB7 => match sub2 w with
      | 0 => ok w 0x0 (.sts (fld w 16 8) (fld w 8 8) (fld w 2 6) .b32)
      | 1 => ok w 0x0 (.sts (fld w 16 8) (fld w 8 8) (fld w 2 6) .b64)
      | 2 => ok w 0x0 (.sts (fld w 16 8) (fld w 8 8) (fld w 2 6) .b128)
      | _ => .error .badSub
  | 0xB8 => match sub2 w with
      | 0 => ok w 0x0 (.ldc (fld w 16 8) (fld w 8 8) (fld w 2 6) .b32)
      | 1 => ok w 0x0 (.ldc (fld w 16 8) (fld w 8 8) (fld w 2 6) .b64)
      | 2 => ok w 0x0 (.ldc (fld w 16 8) (fld w 8 8) (fld w 2 6) .b128)
      | _ => .error .badSub
  | 0xB9 => ok w 0x0 (.ldAcq (fld w 16 8) (fld w 8 8) (fld w 2 6) (Scope.ofBits (fld w 0 2)))
  | 0xBA => ok w 0x0 (.stRel (fld w 16 8) (fld w 8 8) (fld w 2 6) (Scope.ofBits (fld w 0 2)))
  | 0xBB => match sub4 w with
      | 0 => ok w 0x0 (.atom (fld w 16 8) (fld w 8 8) .add (bit w 3) (bit w 2) (Scope.ofBits (fld w 0 2)))
      | 1 => ok w 0x0 (.atom (fld w 16 8) (fld w 8 8) .minS (bit w 3) (bit w 2) (Scope.ofBits (fld w 0 2)))
      | 2 => ok w 0x0 (.atom (fld w 16 8) (fld w 8 8) .minN (bit w 3) (bit w 2) (Scope.ofBits (fld w 0 2)))
      | 3 => ok w 0x0 (.atom (fld w 16 8) (fld w 8 8) .maxS (bit w 3) (bit w 2) (Scope.ofBits (fld w 0 2)))
      | 4 => ok w 0x0 (.atom (fld w 16 8) (fld w 8 8) .maxN (bit w 3) (bit w 2) (Scope.ofBits (fld w 0 2)))
      | 5 => ok w 0x0 (.atom (fld w 16 8) (fld w 8 8) .and (bit w 3) (bit w 2) (Scope.ofBits (fld w 0 2)))
      | 6 => ok w 0x0 (.atom (fld w 16 8) (fld w 8 8) .or (bit w 3) (bit w 2) (Scope.ofBits (fld w 0 2)))
      | 7 => ok w 0x0 (.atom (fld w 16 8) (fld w 8 8) .xor (bit w 3) (bit w 2) (Scope.ofBits (fld w 0 2)))
      | 8 => ok w 0x0 (.atom (fld w 16 8) (fld w 8 8) .exch (bit w 3) (bit w 2) (Scope.ofBits (fld w 0 2)))
      | 9 => ok w 0x0 (.atom (fld w 16 8) (fld w 8 8) .cas (bit w 3) (bit w 2) (Scope.ofBits (fld w 0 2)))
      | 10 => ok w 0x0 (.atom (fld w 16 8) (fld w 8 8) .fadd (bit w 3) (bit w 2) (Scope.ofBits (fld w 0 2)))
      | _ => .error .badSub
  | 0xBC => match sub4 w with
      | 0 => ok w 0x0 (.red (fld w 16 8) (fld w 8 8) .add (bit w 3) (bit w 2) (Scope.ofBits (fld w 0 2)))
      | 1 => ok w 0x0 (.red (fld w 16 8) (fld w 8 8) .minS (bit w 3) (bit w 2) (Scope.ofBits (fld w 0 2)))
      | 2 => ok w 0x0 (.red (fld w 16 8) (fld w 8 8) .minN (bit w 3) (bit w 2) (Scope.ofBits (fld w 0 2)))
      | 3 => ok w 0x0 (.red (fld w 16 8) (fld w 8 8) .maxS (bit w 3) (bit w 2) (Scope.ofBits (fld w 0 2)))
      | 4 => ok w 0x0 (.red (fld w 16 8) (fld w 8 8) .maxN (bit w 3) (bit w 2) (Scope.ofBits (fld w 0 2)))
      | 5 => ok w 0x0 (.red (fld w 16 8) (fld w 8 8) .and (bit w 3) (bit w 2) (Scope.ofBits (fld w 0 2)))
      | 6 => ok w 0x0 (.red (fld w 16 8) (fld w 8 8) .or (bit w 3) (bit w 2) (Scope.ofBits (fld w 0 2)))
      | 7 => ok w 0x0 (.red (fld w 16 8) (fld w 8 8) .xor (bit w 3) (bit w 2) (Scope.ofBits (fld w 0 2)))
      | 10 => ok w 0x0 (.red (fld w 16 8) (fld w 8 8) .fadd (bit w 3) (bit w 2) (Scope.ofBits (fld w 0 2)))
      | _ => .error .badSub
  | 0xBD => match sub4 w with
      | 0 => ok w 0x0 (.scatadd (fld w 16 8) (fld w 8 8) .add (bit w 3) (bit w 2) (Scope.ofBits (fld w 0 2)))
      | 10 => ok w 0x0 (.scatadd (fld w 16 8) (fld w 8 8) .fadd (bit w 3) (bit w 2) (Scope.ofBits (fld w 0 2)))
      | _ => .error .badSub
  | 0xBE => ok w 0xFF0000 (.pref (fld w 8 8) (fld w 2 6) (fld w 0 2))
  | _ => .error .badPrimary

/-- The words of primaries 0xC0 to 0xCF (R133 and R134), under steps 5 to 7 of R138. -/
def decodeSyncEngine (w : Word) : Except DecErr Instr :=
  match prim w with
  | 0xC0 => ok w 0xFFFFF8 (.fence (fld w 0 3))
  | 0xC1 => match sub3 w with
      | 0 => ok w 0x1E007E (.acq (fld w 14 3) (fld w 7 7) (bit w 0))
      | 1 => ok w 0x1E007E (.rel (fld w 14 3) (fld w 7 7) (bit w 0))
      | _ => .error .badSub
  | 0xC2 => match sub3 w with
      | 0 => ok w 0x0 (.bind (fld w 14 7) (fld w 7 7) (fld w 0 7))
      | 1 => ok w 0x1FC07F (.unbind (fld w 7 7))
      | _ => .error .badSub
  | 0xC3 => match sub3 w with
      | 0 => ok w 0x1FC000 (.bari .word (fld w 7 7) (fld w 0 7))
      | 1 => ok w 0x1FC000 (.bari .scr (fld w 7 7) (fld w 0 7))
      | 2 => ok w 0x1FF800 (.bari .num (fld w 7 7) (fld w 0 7))
      | _ => .error .badSub
  | 0xC4 => match sub3 w with
      | 0 => ok w 0x0 (.bara .word (fld w 14 7) (fld w 7 7) (fld w 0 7))
      | 1 => ok w 0x0 (.bara .scr (fld w 14 7) (fld w 7 7) (fld w 0 7))
      | 2 => ok w 0x3800 (.bara .num (fld w 14 7) (fld w 7 7) (fld w 0 7))
      | _ => .error .badSub
  | 0xC5 => match sub3 w with
      | 0 => ok w 0x0 (.bart .word (fld w 14 7) (fld w 7 7) (fld w 0 7))
      | 1 => ok w 0x0 (.bart .scr (fld w 14 7) (fld w 7 7) (fld w 0 7))
      | 2 => ok w 0x3800 (.bart .num (fld w 14 7) (fld w 7 7) (fld w 0 7))
      | _ => .error .badSub
  | 0xC6 => match sub3 w with
      | 0 => ok w 0x1FC000 (.barw .word (fld w 7 7) (fld w 0 7))
      | 1 => ok w 0x1FC000 (.barw .scr (fld w 7 7) (fld w 0 7))
      | 2 => ok w 0x1FF800 (.barw .num (fld w 7 7) (fld w 0 7))
      | _ => .error .badSub
  | 0xC7 => match sub3 w with
      | 0 => ok w 0x7F (.barq .word (fld w 14 7) (fld w 7 7))
      | 1 => ok w 0x7F (.barq .scr (fld w 14 7) (fld w 7 7))
      | 2 => ok w 0x387F (.barq .num (fld w 14 7) (fld w 7 7))
      | _ => .error .badSub
  | 0xC8 => match sub3 w with
      | 0 => ok w 0x1E007F (.patld (fld w 14 3) (fld w 7 7))
      | _ => .error .badSub
  | 0xC9 => match sub3 w with
      | 0 => ok w 0x180000 (.scp (fld w 17 2) (fld w 14 3) (fld w 7 7) (fld w 0 7))
      | 1 => ok w 0x180000 (.scpo (fld w 17 2) (fld w 14 3) (fld w 7 7) (fld w 0 7))
      | _ => .error .badSub
  | 0xCA => match sub3 w with
      | 0 => ok w 0x180000 (.sgath (fld w 17 2) (fld w 14 3) (fld w 7 7) (fld w 0 7))
      | 1 => ok w 0x180000 (.sscat (fld w 17 2) (fld w 14 3) (fld w 7 7) (fld w 0 7))
      | _ => .error .badSub
  | 0xCB => match sub3 w with
      | 0 => ok w 0x180000 (.sdeq (fld w 17 2) (fld w 14 3) (fld w 7 7) (fld w 0 7))
      | 1 => ok w 0x0 (.sfill (fld w 14 7) (fld w 7 7) (fld w 0 7))
      | 2 => ok w 0x180000 (.sxpos (fld w 17 2) (fld w 14 3) (fld w 7 7) (fld w 0 7))
      | _ => .error .badSub
  | 0xCC => match sub3 w with
      | 0 => ok w 0x3FFF (.sclose (fld w 14 7))
      | _ => .error .badSub
  | 0xCD => match sub3 w with
      | 0 => ok w 0x1FC07F (.swait (fld w 7 7))
      | _ => .error .badSub
  | 0xCE => match sub3 w with
      | 0 => ok w 0x1FFFF0 (.sqfence (fld w 0 4))
      | _ => .error .badSub
  | 0xCF => match sub3 w with
      | 0 => ok w 0x1FFFF0 (.scancel (fld w 0 4))
      | _ => .error .badSub
  | _ => .error .badPrimary

/-- The words of primaries 0xD0 to 0xDF (R135), under steps 5 to 7 of R138. -/
def decodeMatrix (w : Word) : Except DecErr Instr :=
  match prim w with
  | 0xD0 => if sub3 w ≠ 0 then .error .badSub else if bit w 20 = false then ok w 0xF800 (.ldtTile (fld w 16 4) (bit w 10) (fld w 6 4) (fld w 0 6))
      else if bit w 19 = false then ok w 0x40000 (.ldtDescriptors (fld w 16 2) (fld w 0 16)) else ok w 0x70000 (.ldtCounters (fld w 0 16))
  | 0xD1 => match sub3 w with
      | 0 => ok w 0x188000 (.mma (fld w 16 3) (fld w 11 4) (bit w 10) (fld w 6 4) (fld w 0 6))
      | 1 => ok w 0x1887FF (.mmaR (fld w 16 3) (fld w 11 4))
      | _ => .error .badSub
  | 0xD2 => match sub3 w with
      | 0 => ok w 0x18FFFF (.accz (fld w 16 3))
      | _ => .error .badSub
  | 0xD3 => match sub3 w with
      | 0 => ok w 0x180000 (.accpin (fld w 16 3) (fld w 0 16))
      | 1 => ok w 0x18FFFF (.accunpin (fld w 16 3))
      | _ => .error .badSub
  | 0xD4 => match sub3 w with
      | 0 => ok w 0x18FFFF (.accren (fld w 16 3))
      | _ => .error .badSub
  | 0xD5 => match sub3 w with
      | 0 => ok w 0x18F800 (.accrd (fld w 16 3) (bit w 10) (fld w 6 4) (fld w 0 6))
      | _ => .error .badSub
  | 0xD6 => match sub3 w with
      | 0 => ok w 0x18F800 (.accrdw (fld w 16 3) (bit w 10) (fld w 6 4) (fld w 0 6))
      | _ => .error .badSub
  | 0xD7 => if sub3 w ≠ 0 then .error .badSub else if bit w 15 = false then ok w 0x1847FF (.accaddAcc (fld w 16 3) (fld w 11 3)) else ok w 0x187800 (.accaddScratch (fld w 16 3) (bit w 10) (fld w 6 4) (fld w 0 6))
  | 0xD8 => match sub3 w with
      | 0 => ok w 0x80000 (.accstat (bit w 20) (fld w 16 3) (fld w 0 16))
      | _ => .error .badSub
  | 0xD9 => match sub3 w with
      | 0 => ok w 0x10FFFF (.msbar (fld w 16 4))
      | _ => .error .badSub
  | 0xDA => match sub3 w with
      | 0 => ok w 0x10FFFF (.mswait (fld w 16 4))
      | _ => .error .badSub
  | 0xDB => ok w 0x0 (.msloop (fld w 21 3) (fld w 0 21))
  | 0xDC => ok w 0x0 (.msjmp (fld w 0 24))
  | 0xDD => match sub3 w with
      | 0 => ok w 0x1F0000 (.msrestart (fld w 0 16))
      | _ => .error .badSub
  | 0xDE => match sub3 w with
      | 0 => ok w 0x1FFFE0 (.mscfgGuard (fld w 0 5))
      | 1 => ok w 0x10FC3F (.mscfgRound (fld w 16 4) (bit w 9) (fld w 6 3))
      | 2 => ok w 0x1F0000 (.mscfgScale (fld w 0 16))
      | 3 => ok w 0x1CFFBF (.mscfgWide (fld w 16 2) (bit w 6))
      | _ => .error .badSub
  | 0xDF => match sub3 w with
      | 0 => ok w 0x1FFFFF (.msend)
      | _ => .error .badSub
  | _ => .error .badPrimary

/-- The words of primaries 0xE0 to 0xEF (R136), under steps 5 to 7 of R138. -/
def decodeLoftPantry (w : Word) : Except DecErr Instr :=
  match prim w with
  | 0xE0 => match sub3 w with
      | 0 => ok w 0x7F (.lbay (fld w 14 7) (fld w 7 7))
      | 1 => ok w 0x1FC07F (.lfree (fld w 7 7))
      | _ => .error .badSub
  | 0xE1 => match sub3 w with
      | 0 => ok w 0x60 (.lxin (fld w 14 7) (fld w 7 7) (fld w 3 2) (fld w 0 3))
      | 1 => ok w 0x60 (.lxout (fld w 14 7) (fld w 7 7) (fld w 3 2) (fld w 0 3))
      | _ => .error .badSub
  | 0xE2 => match sub3 w with
      | 0 => ok w 0x0 (.lop .add (fld w 14 7) (fld w 7 7) (fld w 0 7))
      | 1 => ok w 0x0 (.lop .sub (fld w 14 7) (fld w 7 7) (fld w 0 7))
      | 2 => ok w 0x0 (.lop .mul (fld w 14 7) (fld w 7 7) (fld w 0 7))
      | 3 => ok w 0x0 (.lop .and (fld w 14 7) (fld w 7 7) (fld w 0 7))
      | 4 => ok w 0x0 (.lop .or (fld w 14 7) (fld w 7 7) (fld w 0 7))
      | 5 => ok w 0x0 (.lop .xor (fld w 14 7) (fld w 7 7) (fld w 0 7))
      | 6 => ok w 0x0 (.lop .andn (fld w 14 7) (fld w 7 7) (fld w 0 7))
      | 7 => ok w 0x7F (.lop .not (fld w 14 7) (fld w 7 7) (fld w 0 7))
      | _ => .error .badSub
  | 0xE3 => match sub3 w with
      | 0 => ok w 0x0 (.lops .add (fld w 14 7) (fld w 7 7) (fld w 0 7))
      | 1 => ok w 0x0 (.lops .sub (fld w 14 7) (fld w 7 7) (fld w 0 7))
      | 2 => ok w 0x0 (.lops .mul (fld w 14 7) (fld w 7 7) (fld w 0 7))
      | 3 => ok w 0x0 (.lops .and (fld w 14 7) (fld w 7 7) (fld w 0 7))
      | 4 => ok w 0x0 (.lops .or (fld w 14 7) (fld w 7 7) (fld w 0 7))
      | 5 => ok w 0x0 (.lops .xor (fld w 14 7) (fld w 7 7) (fld w 0 7))
      | 6 => ok w 0x0 (.lops .andn (fld w 14 7) (fld w 7 7) (fld w 0 7))
      | 7 => ok w 0x7F (.lops .not (fld w 14 7) (fld w 7 7) (fld w 0 7))
      | _ => .error .badSub
  | 0xE4 => match sub3 w with
      | 0 => ok w 0x0 (.lcmp .eq (fld w 14 7) (fld w 7 7) (fld w 0 7))
      | 1 => ok w 0x0 (.lcmp .lt (fld w 14 7) (fld w 7 7) (fld w 0 7))
      | 2 => ok w 0x0 (.lcmp .le (fld w 14 7) (fld w 7 7) (fld w 0 7))
      | _ => .error .badSub
  | 0xE5 => match sub3 w with
      | 0 => ok w 0x0 (.lcmps .eq (fld w 14 7) (fld w 7 7) (fld w 0 7))
      | 1 => ok w 0x0 (.lcmps .lt (fld w 14 7) (fld w 7 7) (fld w 0 7))
      | 2 => ok w 0x0 (.lcmps .le (fld w 14 7) (fld w 7 7) (fld w 0 7))
      | 3 => ok w 0x0 (.lcmps .gt (fld w 14 7) (fld w 7 7) (fld w 0 7))
      | 4 => ok w 0x0 (.lcmps .ge (fld w 14 7) (fld w 7 7) (fld w 0 7))
      | _ => .error .badSub
  | 0xE6 => match sub3 w with
      | 0 => ok w 0x7F (.lpop (fld w 14 7) (fld w 7 7))
      | 1 => ok w 0x0 (.lsel (fld w 14 7) (fld w 7 7) (fld w 0 7))
      | 2 => ok w 0x0 (.lsrch (fld w 14 7) (fld w 7 7) (fld w 0 7))
      | 3 => ok w 0x0 (.lshift (fld w 14 7) (fld w 7 7) (fld w 0 7))
      | _ => .error .badSub
  | 0xE7 => match sub3 w with
      | 0 => ok w 0x1FFFFF (.lwait)
      | _ => .error .badSub
  | 0xE8 => match sub8 w with
      | 0 => ok w 0x0 (.kvxRd (fld w 16 8) (fld w 8 8))
      | 1 => ok w 0x0 (.kvxWr (fld w 16 8) (fld w 8 8))
      | _ => .error .badSub
  | 0xE9 => match sub8 w with
      | 0 => ok w 0x0 (.kvpin (fld w 16 8) (fld w 8 8))
      | 1 => ok w 0x0 (.kvrel (fld w 16 8) (fld w 8 8))
      | _ => .error .badSub
  | _ => .error .badPrimary

/-- A clause header (R116): bits 31:28 are 0xF and bit 0 is reserved. -/
def decodeHeader (w : Word) : Except DecErr Instr :=
  ok w 0x000001 (.clauseHeader (fld w 16 12) (fld w 12 4) (fld w 8 4) (fld w 4 4) (bit w 3) (bit w 2) (bit w 1))

/-- The decoder: total on every word, refusing by name. It makes steps 5 to 7 of R138 and reads a header word as a
header; the limits of steps 3 and 8 are WellFormed.lean's, which the step checks after it. -/
def decode (w : Word) : Except DecErr Instr :=
  if prim w ≥ 0xF0 then decodeHeader w
  else if prim w < 0x30 then decodeScalar w
  else if prim w < 0x40 then decodeSystem w
  else if prim w < 0x80 then decodeVectorInt w
  else if prim w < 0xA0 then decodeVectorFloat w
  else if prim w < 0xB0 then decodeCrossLane w
  else if prim w < 0xC0 then decodeLaneMemory w
  else if prim w < 0xD0 then decodeSyncEngine w
  else if prim w < 0xE0 then decodeMatrix w
  else decodeLoftPantry w

/-- The instruction the decoder reads from a word whose bits are w, numbered as the opcode table numbers them: the
table's words are one 32-bit word each. -/
def decodeTableWord (nbits w : Nat) : Option Instr :=
  if nbits ≤ 32 ∧ w < 2 ^ 32 then (decode (BitVec.ofNat 32 w)).toOption else none

/-- A word put together: the fixed bits and the fields, each value at its lowest bit. -/
def enc (base : Nat) (fs : List (Nat × Nat)) : Word :=
  BitVec.ofNat 32 (fs.foldl (fun n f => n + f.1 * 2 ^ f.2) base)

/-- The word of an instruction, by the formats of R114 and the maps of R127 to R137; an operation of the device that is no
word has none. -/
def encode? : Instr → Option Word
  | .smov d a => some (enc 0x00000000 [(d.toNat, 14), (a.toNat, 7)])
  | .smovi d i => some (enc 0x01000000 [(d.toNat, 16), (i.toNat, 0)])
  | .smovh d i => some (enc 0x02000000 [(d.toNat, 16), (i.toNat, 0)])
  | .sadd d a b => some (enc 0x03000000 [(d.toNat, 14), (a.toNat, 7), (b.toNat, 0)])
  | .ssub d a b => some (enc 0x04000000 [(d.toNat, 14), (a.toNat, 7), (b.toNat, 0)])
  | .smul d a b => some (enc 0x05000000 [(d.toNat, 14), (a.toNat, 7), (b.toNat, 0)])
  | .smulh s d a b => some (enc 0x06000000 [(s.toNat, 21), (d.toNat, 14), (a.toNat, 7), (b.toNat, 0)])
  | .sand d a b => some (enc 0x07000000 [(d.toNat, 14), (a.toNat, 7), (b.toNat, 0)])
  | .sor d a b => some (enc 0x08000000 [(d.toNat, 14), (a.toNat, 7), (b.toNat, 0)])
  | .sxor d a b => some (enc 0x09000000 [(d.toNat, 14), (a.toNat, 7), (b.toNat, 0)])
  | .snot d a => some (enc 0x0A000000 [(d.toNat, 14), (a.toNat, 7)])
  | .sshl d a b => some (enc 0x0B000000 [(d.toNat, 14), (a.toNat, 7), (b.toNat, 0)])
  | .sshr d a b => some (enc 0x0C000000 [(d.toNat, 14), (a.toNat, 7), (b.toNat, 0)])
  | .ssra d a b => some (enc 0x0D000000 [(d.toNat, 14), (a.toNat, 7), (b.toNat, 0)])
  | .smin s d a b => some (enc 0x0E000000 [(s.toNat, 21), (d.toNat, 14), (a.toNat, 7), (b.toNat, 0)])
  | .smax s d a b => some (enc 0x0F000000 [(s.toNat, 21), (d.toNat, 14), (a.toNat, 7), (b.toNat, 0)])
  | .scmp c d a b => some (enc 0x10000000 [(c.code, 21), (d.toNat, 14), (a.toNat, 7), (b.toNat, 0)])
  | .ssel d a b => some (enc 0x11000000 [(d.toNat, 14), (a.toNat, 7), (b.toNat, 0)])
  | .spopc d a => some (enc 0x12000000 [(d.toNat, 14), (a.toNat, 7)])
  | .sclz d a => some (enc 0x13000000 [(d.toNat, 14), (a.toNat, 7)])
  | .sbrev d a => some (enc 0x14000000 [(d.toNat, 14), (a.toNat, 7)])
  | .sbfe s d a b => some (enc 0x15000000 [(s.toNat, 21), (d.toNat, 14), (a.toNat, 7), (b.toNat, 0)])
  | .sld z d a b => some (enc 0x16000000 [(z.code, 21), (d.toNat, 14), (a.toNat, 7), (b.toNat, 0)])
  | .sst z d a b => some (enc 0x17000000 [(z.code, 21), (d.toNat, 14), (a.toNat, 7), (b.toNat, 0)])
  | .slda d i => some (enc 0x18000000 [(d.toNat, 16), (i.toNat, 0)])
  | .sadd64 d a b => some (enc 0x19000000 [(d.toNat, 14), (a.toNat, 7), (b.toNat, 0)])
  | .ssub64 d a b => some (enc 0x1A000000 [(d.toNat, 14), (a.toNat, 7), (b.toNat, 0)])
  | .scmp64 c d a b => some (enc 0x1B000000 [(c.code, 21), (d.toNat, 14), (a.toNat, 7), (b.toNat, 0)])
  | .saddImm d i => some (enc 0x1C000000 [(d.toNat, 16), (i.toNat, 0)])
  | .ssubImm d i => some (enc 0x1D000000 [(d.toNat, 16), (i.toNat, 0)])
  | .smulImm d i => some (enc 0x1E000000 [(d.toNat, 16), (i.toNat, 0)])
  | .sandImm d i => some (enc 0x1F000000 [(d.toNat, 16), (i.toNat, 0)])
  | .sorImm d i => some (enc 0x20000000 [(d.toNat, 16), (i.toNat, 0)])
  | .sxorImm d i => some (enc 0x21000000 [(d.toNat, 16), (i.toNat, 0)])
  | .sshlImm d i => some (enc 0x22000000 [(d.toNat, 16), (i.toNat, 0)])
  | .sshrImm d i => some (enc 0x23000000 [(d.toNat, 16), (i.toNat, 0)])
  | .ssraImm d i => some (enc 0x24000000 [(d.toNat, 16), (i.toNat, 0)])
  | .bra o => some (enc 0x25000000 [(o.toNat, 0)])
  | .brx o => some (enc 0x26000000 [(o.toNat, 0)])
  | .call o => some (enc 0x27000000 [(o.toNat, 0)])
  | .callx a => some (enc 0x28000000 [(a.toNat, 7)])
  | .elect d a => some (enc 0x2D000000 [(d.toNat, 14), (a.toNat, 7)])
  | .clauseHeader w a b l m y s => some (enc 0xF0000000 [(w.toNat, 16), (a.toNat, 12), (b.toNat, 8), (l.toNat, 4), (m.toNat, 3), (y.toNat, 2), (s.toNat, 1)])
  | .mode g v t r s f b x y z => some (enc 0x30000000 [(g.toNat, 17), (v.toNat, 16), (t.toNat, 12), (r.toNat, 9), (s.toNat, 8), (f.toNat, 7), (b.toNat, 6), (x.toNat, 5), (y.toNat, 4), (z.toNat, 3)])
  | .modes a => some (enc 0x31000000 [(a.toNat, 7)])
  | .modesSwap d a => some (enc 0x31200000 [(d.toNat, 14), (a.toNat, 7)])
  | .waitf m => some (enc 0x32000000 [(m.toNat, 0)])
  | .sigchk i => some (enc 0x33000000 [(i.toNat, 0)])
  | .trap i => some (enc 0x34000000 [(i.toNat, 0)])
  | .sysr d n => some (enc 0x36000000 [(d.toNat, 16), (n.toNat, 0)])
  | .sysw d n => some (enc 0x37000000 [(d.toNat, 16), (n.toNat, 0)])
  | .qsub a b => some (enc 0x38000000 [(a.toNat, 7), (b.toNat, 0)])
  | .rcommit i => some (enc 0x39000000 [(i.toNat, 0)])
  | .sleep i => some (enc 0x3A000000 [(i.toNat, 0)])
  | .vadd d a b => some (enc 0x40000000 [(d.toNat, 16), (a.toNat, 8), (b.toNat, 0)])
  | .vsub d a b => some (enc 0x41000000 [(d.toNat, 16), (a.toNat, 8), (b.toNat, 0)])
  | .vmul d a b => some (enc 0x42000000 [(d.toNat, 16), (a.toNat, 8), (b.toNat, 0)])
  | .vmulh d a b => some (enc 0x43000000 [(d.toNat, 16), (a.toNat, 8), (b.toNat, 0)])
  | .vmad d a b => some (enc 0x44000000 [(d.toNat, 16), (a.toNat, 8), (b.toNat, 0)])
  | .vmadh d a b => some (enc 0x45000000 [(d.toNat, 16), (a.toNat, 8), (b.toNat, 0)])
  | .vdiv d a b => some (enc 0x46000000 [(d.toNat, 16), (a.toNat, 8), (b.toNat, 0)])
  | .vrem d a b => some (enc 0x47000000 [(d.toNat, 16), (a.toNat, 8), (b.toNat, 0)])
  | .vdivm d a b => some (enc 0x48000000 [(d.toNat, 16), (a.toNat, 8), (b.toNat, 0)])
  | .vand d a b => some (enc 0x49000000 [(d.toNat, 16), (a.toNat, 8), (b.toNat, 0)])
  | .vor d a b => some (enc 0x4A000000 [(d.toNat, 16), (a.toNat, 8), (b.toNat, 0)])
  | .vxor d a b => some (enc 0x4B000000 [(d.toNat, 16), (a.toNat, 8), (b.toNat, 0)])
  | .vshl d a b => some (enc 0x4C000000 [(d.toNat, 16), (a.toNat, 8), (b.toNat, 0)])
  | .vshr d a b => some (enc 0x4D000000 [(d.toNat, 16), (a.toNat, 8), (b.toNat, 0)])
  | .vsra d a b => some (enc 0x4E000000 [(d.toNat, 16), (a.toNat, 8), (b.toNat, 0)])
  | .vrot d a b => some (enc 0x4F000000 [(d.toNat, 16), (a.toNat, 8), (b.toNat, 0)])
  | .vmin d a b => some (enc 0x50000000 [(d.toNat, 16), (a.toNat, 8), (b.toNat, 0)])
  | .vmax d a b => some (enc 0x51000000 [(d.toNat, 16), (a.toNat, 8), (b.toNat, 0)])
  | .vbfe d a b => some (enc 0x52000000 [(d.toNat, 16), (a.toNat, 8), (b.toNat, 0)])
  | .vbfi d a b => some (enc 0x53000000 [(d.toNat, 16), (a.toNat, 8), (b.toNat, 0)])
  | .vsel d a b => some (enc 0x54000000 [(d.toNat, 16), (a.toNat, 8), (b.toNat, 0)])
  | .vaddc d a b => some (enc 0x55000000 [(d.toNat, 16), (a.toNat, 8), (b.toNat, 0)])
  | .vsad d a b => some (enc 0x56000000 [(d.toNat, 16), (a.toNat, 8), (b.toNat, 0)])
  | .vdp4 d a b => some (enc 0x57000000 [(d.toNat, 16), (a.toNat, 8), (b.toNat, 0)])
  | .vlut3 d a i => some (enc 0x58000000 [(d.toNat, 16), (a.toNat, 8), (i.toNat, 0)])
  | .vmovi d i => some (enc 0x59000000 [(d.toNat, 16), (i.toNat, 0)])
  | .vmov d a => some (enc 0x5A000000 [(d.toNat, 16), (a.toNat, 8)])
  | .vnot d a => some (enc 0x5A000001 [(d.toNat, 16), (a.toNat, 8)])
  | .vabs d a => some (enc 0x5A000002 [(d.toNat, 16), (a.toNat, 8)])
  | .vneg d a => some (enc 0x5A000003 [(d.toNat, 16), (a.toNat, 8)])
  | .vclz d a => some (enc 0x5A000004 [(d.toNat, 16), (a.toNat, 8)])
  | .vpopc d a => some (enc 0x5A000005 [(d.toNat, 16), (a.toNat, 8)])
  | .vbrev d a => some (enc 0x5A000006 [(d.toNat, 16), (a.toNat, 8)])
  | .vlane d => some (enc 0x5A000007 [(d.toNat, 16)])
  | .vbcast d a => some (enc 0x5B000000 [(d.toNat, 16), (a.toNat, 8)])
  | .vcmpEq d a b => some (enc 0x60000000 [(d.toNat, 16), (a.toNat, 8), (b.toNat, 0)])
  | .vcmpNe d a b => some (enc 0x61000000 [(d.toNat, 16), (a.toNat, 8), (b.toNat, 0)])
  | .vcmpLt d a b => some (enc 0x62000000 [(d.toNat, 16), (a.toNat, 8), (b.toNat, 0)])
  | .vcmpLe d a b => some (enc 0x63000000 [(d.toNat, 16), (a.toNat, 8), (b.toNat, 0)])
  | .vcmpGt d a b => some (enc 0x64000000 [(d.toNat, 16), (a.toNat, 8), (b.toNat, 0)])
  | .vcmpGe d a b => some (enc 0x65000000 [(d.toNat, 16), (a.toNat, 8), (b.toNat, 0)])
  | .pand d a b i => some (enc 0x68000000 [(d.toNat, 17), (a.toNat, 10), (b.toNat, 3), (i.toNat, 0)])
  | .por d a b i => some (enc 0x69000000 [(d.toNat, 17), (a.toNat, 10), (b.toNat, 3), (i.toNat, 0)])
  | .pxor d a b i => some (enc 0x6A000000 [(d.toNat, 17), (a.toNat, 10), (b.toNat, 3), (i.toNat, 0)])
  | .pnot d a => some (enc 0x6B000000 [(d.toNat, 17), (a.toNat, 10)])
  | .pmov d a => some (enc 0x6C000000 [(d.toNat, 17), (a.toNat, 10)])
  | .pset d i => some (enc 0x6D000000 [(d.toNat, 17), (i.toNat, 0)])
  | .pcnt d a => some (enc 0x6E000000 [(d.toNat, 14), (a.toNat, 7)])
  | .pfroms d a => some (enc 0x6F000000 [(d.toNat, 14), (a.toNat, 7)])
  | .ptos d a => some (enc 0x70000000 [(d.toNat, 14), (a.toNat, 7)])
  | .vfadd d a b => some (enc 0x80000000 [(d.toNat, 16), (a.toNat, 8), (b.toNat, 0)])
  | .vfsub d a b => some (enc 0x81000000 [(d.toNat, 16), (a.toNat, 8), (b.toNat, 0)])
  | .vfmul d a b => some (enc 0x82000000 [(d.toNat, 16), (a.toNat, 8), (b.toNat, 0)])
  | .vfma d a b => some (enc 0x83000000 [(d.toNat, 16), (a.toNat, 8), (b.toNat, 0)])
  | .vfmin d a b => some (enc 0x84000000 [(d.toNat, 16), (a.toNat, 8), (b.toNat, 0)])
  | .vfmax d a b => some (enc 0x85000000 [(d.toNat, 16), (a.toNat, 8), (b.toNat, 0)])
  | .vfdiv d a b => some (enc 0x86000000 [(d.toNat, 16), (a.toNat, 8), (b.toNat, 0)])
  | .vfldexp d a b => some (enc 0x87000000 [(d.toNat, 16), (a.toNat, 8), (b.toNat, 0)])
  | .vdot2 d a b => some (enc 0x88000000 [(d.toNat, 16), (a.toNat, 8), (b.toNat, 0)])
  | .vfcmpEq d a b => some (enc 0x89000000 [(d.toNat, 16), (a.toNat, 8), (b.toNat, 0)])
  | .vfcmpNe d a b => some (enc 0x8A000000 [(d.toNat, 16), (a.toNat, 8), (b.toNat, 0)])
  | .vfcmpLt d a b => some (enc 0x8B000000 [(d.toNat, 16), (a.toNat, 8), (b.toNat, 0)])
  | .vfcmpLe d a b => some (enc 0x8C000000 [(d.toNat, 16), (a.toNat, 8), (b.toNat, 0)])
  | .vfcmpGt d a b => some (enc 0x8D000000 [(d.toNat, 16), (a.toNat, 8), (b.toNat, 0)])
  | .vfcmpGe d a b => some (enc 0x8E000000 [(d.toNat, 16), (a.toNat, 8), (b.toNat, 0)])
  | .vfcmpUn d a b => some (enc 0x8F000000 [(d.toNat, 16), (a.toNat, 8), (b.toNat, 0)])
  | .vfcmpOrd d a b => some (enc 0x90000000 [(d.toNat, 16), (a.toNat, 8), (b.toNat, 0)])
  | .vfabs d a => some (enc 0x91000000 [(d.toNat, 16), (a.toNat, 8)])
  | .vfneg d a => some (enc 0x91000001 [(d.toNat, 16), (a.toNat, 8)])
  | .vrcp d a => some (enc 0x91000002 [(d.toNat, 16), (a.toNat, 8)])
  | .vrsq d a => some (enc 0x91000003 [(d.toNat, 16), (a.toNat, 8)])
  | .vsqrt d a => some (enc 0x91000004 [(d.toNat, 16), (a.toNat, 8)])
  | .vexp2 d a => some (enc 0x91000005 [(d.toNat, 16), (a.toNat, 8)])
  | .vlog2 d a => some (enc 0x91000006 [(d.toNat, 16), (a.toNat, 8)])
  | .vsin d a => some (enc 0x91000007 [(d.toNat, 16), (a.toNat, 8)])
  | .vcos d a => some (enc 0x91000008 [(d.toNat, 16), (a.toNat, 8)])
  | .vtanh d a => some (enc 0x91000009 [(d.toNat, 16), (a.toNat, 8)])
  | .vfrc d a => some (enc 0x9100000A [(d.toNat, 16), (a.toNat, 8)])
  | .vfrnd d a => some (enc 0x9100000B [(d.toNat, 16), (a.toNat, 8)])
  | .vfgexp d a => some (enc 0x9100000C [(d.toNat, 16), (a.toNat, 8)])
  | .vfclass d a => some (enc 0x9100000D [(d.toNat, 16), (a.toNat, 8)])
  | .vact d a n => some (enc 0x92000000 [(d.toNat, 16), (a.toNat, 8), (n.toNat, 0)])
  | .actld a n => some (enc 0x93000000 [(a.toNat, 7), (n.toNat, 0)])
  | .vcvt d a s => some (enc 0x98000000 [(d.toNat, 16), (a.toNat, 8), (s.code, 0)])
  | .vquant d a f => some (enc 0x99000008 [(d.toNat, 16), (a.toNat, 8), (f.code - 8, 0)])
  | .vdeq d a f => some (enc 0x9A000008 [(d.toNat, 16), (a.toNat, 8), (f.code - 8, 0)])
  | .vpack d a b => some (enc 0x9B000000 [(d.toNat, 16), (a.toNat, 8), (b.toNat, 0)])
  | .vunpack d a h => some (enc 0x9C000000 [(d.toNat, 16), (a.toNat, 8), (h.toNat, 0)])
  | .vexpand d a f => some (enc 0x9D000000 [(d.toNat, 16), (a.toNat, 8), (f.code, 0)])
  | .qswapx d a => some (enc 0xA0000000 [(d.toNat, 16), (a.toNat, 8)])
  | .qswapy d a => some (enc 0xA1000000 [(d.toNat, 16), (a.toNat, 8)])
  | .qbcast d a p => some (enc 0xA2000000 [(d.toNat, 16), (a.toNat, 8), (p.toNat, 0)])
  | .qdiff d a y => some (enc 0xA3000000 [(d.toNat, 16), (a.toNat, 8), (y.toNat, 0)])
  | .vshfl d a b => some (enc 0xA4000000 [(d.toNat, 16), (a.toNat, 8), (b.toNat, 0)])
  | .vshflup d a i => some (enc 0xA5000000 [(d.toNat, 16), (a.toNat, 8), (i.toNat, 0)])
  | .vshfldn d a i => some (enc 0xA6000000 [(d.toNat, 16), (a.toNat, 8), (i.toNat, 0)])
  | .vshflx d a i => some (enc 0xA7000000 [(d.toNat, 16), (a.toNat, 8), (i.toNat, 0)])
  | .vvote m d a => some (enc 0xA8000000 [(m.code, 21), (d.toNat, 14), (a.toNat, 7)])
  | .vballot d a => some (enc 0xA9000000 [(d.toNat, 14), (a.toNat, 7)])
  | .vmatch d a m => some (enc 0xAA000000 [(d.toNat, 16), (a.toNat, 8), (m.toNat, 0)])
  | .vredi d a o => some (enc 0xAB000000 [(d.toNat, 16), (a.toNat, 8), (o.code, 0)])
  | .vsumf d a => some (enc 0xAC000000 [(d.toNat, 16), (a.toNat, 8)])
  | .vscan d a o e => some (enc 0xAD000000 [(d.toNat, 16), (a.toNat, 8), (o.code, 1), (e.toNat, 0)])
  | .ldG32 d v j h => some (enc 0xB0000000 [(d.toNat, 16), (v.toNat, 8), (j.toNat, 2), (h.toNat, 0)])
  | .ldG64 d v j h => some (enc 0xB1000000 [(d.toNat, 16), (v.toNat, 8), (j.toNat, 2), (h.toNat, 0)])
  | .ldG128 d v j h => some (enc 0xB2000000 [(d.toNat, 16), (v.toNat, 8), (j.toNat, 2), (h.toNat, 0)])
  | .stG32 d v j h => some (enc 0xB3000000 [(d.toNat, 16), (v.toNat, 8), (j.toNat, 2), (h.toNat, 0)])
  | .stG64 d v j h => some (enc 0xB4000000 [(d.toNat, 16), (v.toNat, 8), (j.toNat, 2), (h.toNat, 0)])
  | .stG128 d v j h => some (enc 0xB5000000 [(d.toNat, 16), (v.toNat, 8), (j.toNat, 2), (h.toNat, 0)])
  | .lds d v b z => some (enc 0xB6000000 [(d.toNat, 16), (v.toNat, 8), (b.toNat, 2), (z.code, 0)])
  | .sts d v b z => some (enc 0xB7000000 [(d.toNat, 16), (v.toNat, 8), (b.toNat, 2), (z.code, 0)])
  | .ldc d v b z => some (enc 0xB8000000 [(d.toNat, 16), (v.toNat, 8), (b.toNat, 2), (z.code, 0)])
  | .ldAcq d v j s => some (enc 0xB9000000 [(d.toNat, 16), (v.toNat, 8), (j.toNat, 2), (s.code, 0)])
  | .stRel d v j s => some (enc 0xBA000000 [(d.toNat, 16), (v.toNat, 8), (j.toNat, 2), (s.code, 0)])
  | .atom d a o p w s => some (enc 0xBB000000 [(d.toNat, 16), (a.toNat, 8), (o.code, 4), (p.toNat, 3), (w.toNat, 2), (s.code, 0)])
  | .red d a o p w s => some (enc 0xBC000000 [(d.toNat, 16), (a.toNat, 8), (o.code, 4), (p.toNat, 3), (w.toNat, 2), (s.code, 0)])
  | .scatadd d a o p w s => some (enc 0xBD000000 [(d.toNat, 16), (a.toNat, 8), (o.code, 4), (p.toNat, 3), (w.toNat, 2), (s.code, 0)])
  | .pref v j h => some (enc 0xBE000000 [(v.toNat, 8), (j.toNat, 2), (h.toNat, 0)])
  | .fence s => some (enc 0xC0000000 [(s.toNat, 0)])
  | .acq s a p => some (enc 0xC1000000 [(s.toNat, 14), (a.toNat, 7), (p.toNat, 0)])
  | .rel s a p => some (enc 0xC1200000 [(s.toNat, 14), (a.toNat, 7), (p.toNat, 0)])
  | .bind d a b => some (enc 0xC2000000 [(d.toNat, 14), (a.toNat, 7), (b.toNat, 0)])
  | .unbind a => some (enc 0xC2200000 [(a.toNat, 7)])
  | .bari s a b => some (enc 0xC3000000 [(s.code, 21), (a.toNat, 7), (b.toNat, 0)])
  | .bara s d a b => some (enc 0xC4000000 [(s.code, 21), (d.toNat, 14), (a.toNat, 7), (b.toNat, 0)])
  | .bart s d a b => some (enc 0xC5000000 [(s.code, 21), (d.toNat, 14), (a.toNat, 7), (b.toNat, 0)])
  | .barw s a b => some (enc 0xC6000000 [(s.code, 21), (a.toNat, 7), (b.toNat, 0)])
  | .barq s d a => some (enc 0xC7000000 [(s.code, 21), (d.toNat, 14), (a.toNat, 7)])
  | .patld p a => some (enc 0xC8000000 [(p.toNat, 14), (a.toNat, 7)])
  | .scp q p a b => some (enc 0xC9000000 [(q.toNat, 17), (p.toNat, 14), (a.toNat, 7), (b.toNat, 0)])
  | .scpo q p a b => some (enc 0xC9200000 [(q.toNat, 17), (p.toNat, 14), (a.toNat, 7), (b.toNat, 0)])
  | .sgath q p a b => some (enc 0xCA000000 [(q.toNat, 17), (p.toNat, 14), (a.toNat, 7), (b.toNat, 0)])
  | .sscat q p a b => some (enc 0xCA200000 [(q.toNat, 17), (p.toNat, 14), (a.toNat, 7), (b.toNat, 0)])
  | .sdeq q p a b => some (enc 0xCB000000 [(q.toNat, 17), (p.toNat, 14), (a.toNat, 7), (b.toNat, 0)])
  | .sfill d a b => some (enc 0xCB200000 [(d.toNat, 14), (a.toNat, 7), (b.toNat, 0)])
  | .sxpos q p a b => some (enc 0xCB400000 [(q.toNat, 17), (p.toNat, 14), (a.toNat, 7), (b.toNat, 0)])
  | .sclose d => some (enc 0xCC000000 [(d.toNat, 14)])
  | .swait a => some (enc 0xCD000000 [(a.toNat, 7)])
  | .sqfence m => some (enc 0xCE000000 [(m.toNat, 0)])
  | .scancel m => some (enc 0xCF000000 [(m.toNat, 0)])
  | .ldtTile n x d z => some (enc 0xD0000000 [(n.toNat, 16), (x.toNat, 10), (d.toNat, 6), (z.toNat, 0)])
  | .ldtDescriptors n i => some (enc 0xD0100000 [(n.toNat, 16), (i.toNat, 0)])
  | .ldtCounters i => some (enc 0xD0180000 [(i.toNat, 0)])
  | .mma n m x d z => some (enc 0xD1000000 [(n.toNat, 16), (m.toNat, 11), (x.toNat, 10), (d.toNat, 6), (z.toNat, 0)])
  | .mmaR n m => some (enc 0xD1200000 [(n.toNat, 16), (m.toNat, 11)])
  | .accz n => some (enc 0xD2000000 [(n.toNat, 16)])
  | .accpin n e => some (enc 0xD3000000 [(n.toNat, 16), (e.toNat, 0)])
  | .accunpin n => some (enc 0xD3200000 [(n.toNat, 16)])
  | .accren n => some (enc 0xD4000000 [(n.toNat, 16)])
  | .accrd n x d z => some (enc 0xD5000000 [(n.toNat, 16), (x.toNat, 10), (d.toNat, 6), (z.toNat, 0)])
  | .accrdw n x d z => some (enc 0xD6000000 [(n.toNat, 16), (x.toNat, 10), (d.toNat, 6), (z.toNat, 0)])
  | .accaddAcc n m => some (enc 0xD7000000 [(n.toNat, 16), (m.toNat, 11)])
  | .accaddScratch n x d z => some (enc 0xD7008000 [(n.toNat, 16), (x.toNat, 10), (d.toNat, 6), (z.toNat, 0)])
  | .accstat c n i => some (enc 0xD8000000 [(c.toNat, 20), (n.toNat, 16), (i.toNat, 0)])
  | .msbar n => some (enc 0xD9000000 [(n.toNat, 16)])
  | .mswait n => some (enc 0xDA000000 [(n.toNat, 16)])
  | .msloop k o => some (enc 0xDB000000 [(k.toNat, 21), (o.toNat, 0)])
  | .msjmp o => some (enc 0xDC000000 [(o.toNat, 0)])
  | .msrestart i => some (enc 0xDD000000 [(i.toNat, 0)])
  | .mscfgGuard g => some (enc 0xDE000000 [(g.toNat, 0)])
  | .mscfgRound f s r => some (enc 0xDE200000 [(f.toNat, 16), (s.toNat, 9), (r.toNat, 6)])
  | .mscfgScale i => some (enc 0xDE400000 [(i.toNat, 0)])
  | .mscfgWide n w => some (enc 0xDE600000 [(n.toNat, 16), (w.toNat, 6)])
  | .lbay d a => some (enc 0xE0000000 [(d.toNat, 14), (a.toNat, 7)])
  | .lfree a => some (enc 0xE0200000 [(a.toNat, 7)])
  | .lxin d a q p => some (enc 0xE1000000 [(d.toNat, 14), (a.toNat, 7), (q.toNat, 3), (p.toNat, 0)])
  | .lxout d a q p => some (enc 0xE1200000 [(d.toNat, 14), (a.toNat, 7), (q.toNat, 3), (p.toNat, 0)])
  | .lop o d a b => some (enc 0xE2000000 [(o.code, 21), (d.toNat, 14), (a.toNat, 7), (b.toNat, 0)])
  | .lops o d a b => some (enc 0xE3000000 [(o.code, 21), (d.toNat, 14), (a.toNat, 7), (b.toNat, 0)])
  | .lcmp c d a b => some (enc 0xE4000000 [(c.code, 21), (d.toNat, 14), (a.toNat, 7), (b.toNat, 0)])
  | .lcmps c d a b => some (enc 0xE5000000 [(c.code, 21), (d.toNat, 14), (a.toNat, 7), (b.toNat, 0)])
  | .lpop d a => some (enc 0xE6000000 [(d.toNat, 14), (a.toNat, 7)])
  | .lsel d a b => some (enc 0xE6200000 [(d.toNat, 14), (a.toNat, 7), (b.toNat, 0)])
  | .lsrch d a b => some (enc 0xE6400000 [(d.toNat, 14), (a.toNat, 7), (b.toNat, 0)])
  | .lshift d a b => some (enc 0xE6600000 [(d.toNat, 14), (a.toNat, 7), (b.toNat, 0)])
  | .kvxRd d a => some (enc 0xE8000000 [(d.toNat, 16), (a.toNat, 8)])
  | .kvxWr d a => some (enc 0xE8000001 [(d.toNat, 16), (a.toNat, 8)])
  | .kvpin d a => some (enc 0xE9000000 [(d.toNat, 16), (a.toNat, 8)])
  | .kvrel d a => some (enc 0xE9000001 [(d.toNat, 16), (a.toNat, 8)])
  | .ret => some (enc 0x29000000 [])
  | .exit => some (enc 0x2A000000 [])
  | .yield => some (enc 0x2B000000 [])
  | .nop => some (enc 0x2C000000 [])
  | .rteRetry => some (enc 0x35000000 [])
  | .rteCont => some (enc 0x35200000 [])
  | .msend => some (enc 0xDF000000 [])
  | .lwait => some (enc 0xE7000000 [])
  | .loftOperationEnd .. | .atomicComplete .. | .dividerComplete .. | .pantryWalkComplete .. | .loadComplete .. | .storeAck ..
  | .engineSectorWrite .. | .actldLoadEnd .. | .sleepExpire .. | .blockRetire .. | .gridRetire .. | .mergeWaitTimeout ..
  | .doorbell .. | .queueEnable .. | .evqcfgWrite .. | .evreadWrite .. | .evlostWrite .. | .queueControlPoll .. | .laneBind ..
  | .laneRelease .. | .lookaheadRead .. | .nopPacket .. | .dispatchPacket .. | .gangPacket .. | .signalPacket ..
  | .waitsigPacket .. | .waitsigPoll .. | .waitsigTimeout .. | .joinPacket .. | .callPacket .. | .returnPacket ..
  | .copyPacket .. | .copyComplete .. | .cellarPacket .. | .taskPacket .. | .sqfencePacket .. | .phasePacket ..
  | .placementStep .. | .blockRelease .. | .spanStarving .. | .gangresWrite .. | .gangHoldStart .. | .coreHeld ..
  | .gangHeld .. | .gangUnheld .. | .gangCommit .. | .gangAbort .. | .gangTimeout .. | .groupOverdue ..
  | .governorWindowStart .. | .governorWindowEnd .. | .governorPeriod .. | .govctlWrite .. | .trapDeliveryH ..
  | .pageWalkComplete .. | .parkReplay .. | .parkDeliver .. | .invalidateRange .. | .invalidateContext .. | .harvestDirty ..
  | .translationCommandDone .. | .memcfgWrite .. | .windowBaysReady .. | .sectorPoison .. | .engineCommandComplete ..
  | .lbayComplete .. | .lfreeComplete .. | .loftReclaim .. | .cellframeWrite .. | .computeIntervalStart .. | .cellarPartEnd ..
  | .cellarPartPoison .. | .cellarComplete .. | .pantryreclWrite .. | .linkFlitReceive .. | .linkNak .. | .linkctlRetrain ..
  | .linkctlDisable .. | .linkTrainingEnd .. | .remoteMessage .. | .remoteResponse .. | .remoteRetry .. | .remoteResend ..
  | .remoteTimeout .. | .hostInboundWrite .. | .hostInboundRead .. | .peerApertureAccess .. | .portcfgWrite ..
  | .hdmcfgWrite .. | .extentRevoke .. | .expanderViral .. | .expanderLost .. | .upstreamViral | .taskReceive ..
  | .taskReturn .. | .preemptRequest .. | .contextSave .. | .contextResume .. | .contextStop .. | .contextStart ..
  | .contextCommandDone .. | .ctxstatClear .. | .laneDeath .. | .blockError .. | .restartRecordWrite .. | .evacuate ..
  | .evacuationComplete .. | .migctlQuiesce .. | .moduleReset | .report .. | .openTaskSession .. | .closeTaskSession ..
  | .readCertificate .. | .powerSample .. | .pwrctlWrite .. | .managementMessage .. | .registerWrite ..
  | .ordinaryIntervalStart .. | .contextTeardown .. | .backInvalidationSnoopResponse .. | .backInvalidationFromExpander .. => none

/-- The encoder: the words of a well-formed instruction (R113); 0 for an operation that is no word, which no step encodes. -/
def encode (i : Instr) : Word := (encode? i).getD 0

end Sys2Proof
end

