-- ==== Sys2Proof/Machine/Flags.lean ====
section
/-! DEFINITION. Completion flags f0 to f11 (R119, R121) and outstanding operations: a split holds, for each flag, the
operations bound to it; the flag reads busy while it holds one. -/

namespace Sys2Proof.Machine

/-- The hidden count of a flag (R119). -/
def Split.count (x : Split) (f : Nat) : Nat := (x.holds.filter fun h => h.1 == f).length

/-- Does the flag read busy? -/
def Split.busy (x : Split) (f : Nat) : Bool := x.holds.any fun h => h.1 == f

/-- Do all the flags named in a mask read clear (R118, R169)? -/
def Split.clear (x : Split) (m : BitVec 12) : Bool := (List.range 12).all fun f => !(m.getLsbD f && x.busy f)

/-- The flag that the clause's next long-latency word binds: FlagA for the first, FlagB for each later one (R119). -/
def Split.nextFlag (x : Split) : Nat := if x.ll = 0 then x.flagA else x.flagB

/-- Two sets of holdings joined, each operation counted once (R121). -/
def joinHolds (a b : List (Nat × Nat)) : List (Nat × Nat) := a ++ b.filter fun h => !a.contains h

/-- Bind an operation to a flag; 0xF binds none (R119). -/
def Split.bind (x : Split) (f op : Nat) : Split := if f < 12 then { x with holds := x.holds ++ [(f, op)] } else x

/-- Does the split hold the operation on some flag? -/
def Split.holdsOp (x : Split) (op : Nat) : Bool := x.holds.any fun h => h.2 == op

/-- Take an operation out of every flag of a split, its deferral records included. -/
def Split.release (x : Split) (op : Nat) : Split :=
  { x with holds := x.holds.filter fun h => h.2 != op,
           defs := x.defs.map fun d => { d with holds := d.holds.filter fun h => h.2 != op } }

/-- The results of an operation enter the registers of its group, and it leaves every flag. A scalar result goes to the
issuing split and to every split that holds the operation (DEDUCED, log 10). -/
def Group.takeResults (g : Group) (id : Nat) (o : Op) : Group :=
  { g with
    v := o.vres.foldl (fun (m : Cells 32) (r : Nat × Nat × Word) => m.set (vKey r.1 r.2.1) r.2.2) g.v
    splits := g.splits.map fun (e : Nat × Split) =>
      (e.1, ((if e.1 == o.ent || e.2.holdsOp id then
        o.sres.foldl (fun (x : Split) (r : Nat × Word) => x.setS r.1 r.2) e.2 else e.2).release id)) }

namespace State

/-- The outstanding operation. -/
def opOf (s : State) (id : Nat) : Op := s.ops.get {} id

/-- Start an operation of the issuing split: it is recorded as outstanding and bound to the flag of the clause. -/
def startOp (s : State) (o : Op) : State :=
  let f := s.spl.nextFlag
  let id := s.nextId
  let o := { o with blk := s.focus.blk, grp := s.focus.grp, ent := s.focus.ent, flag := f }
  ({ s with nextId := id + 1, ops := s.ops.set id o }).modS fun x => x.bind f id

/-- The identifier that startOp gave last. -/
def lastOp (s : State) : Nat := s.nextId - 1

/-- Is a split ready (R148): in the ready state, or held by flags or a SLEEP that have come to their ends? -/
def isReady (s : State) (x : Split) : Bool :=
  match x.status with
  | .ready => true
  | .waiting (.header m) | .waiting (.mask m) => x.clear m
  | .waiting (.sleep t) => decide (s.clock ≥ t)
  | _ => false

/-- Queue a failure for delivery H (R412). -/
def addFail (s : State) (b g : Nat) (f : Failure) : State := s.modGrp b g fun x => { x with fails := x.fails ++ [f] }

/-- The split of an entry is gone, or has moved to another one: an operation that it issued writes its scalar results there, and
nowhere where it has gone (4) (R120, R155, R157). -/
def moveOps (s : State) (b g old new : Nat) : State :=
  { s with ops := s.ops.map fun (o : Nat × Op) =>
      (o.1, if o.2.blk = b ∧ o.2.grp = g ∧ o.2.ent = old then { o.2 with ent := new } else o.2) }

/-- Do operations of a group remain outstanding among the kinds given? -/
def groupBusy (s : State) (b g : Nat) (ks : List OpKind) : Bool :=
  s.ops.any fun e => e.2.blk == b && e.2.grp == g && ks.contains e.2.kind

end State

end Sys2Proof.Machine
end

