-- ==== Sys2Proof/Machine/Operands.lean ====
section
/-! DEFINITION. Operand forms: the element types of R41, elements and pairs of vector registers, the addresses of formats FM,
FSM and FA (R235, R245), branch targets (R161), and the limits R42 and R103 on vector registers. -/

namespace Sys2Proof.Machine

/-- An element type: width, elements per register, signed, float (R41). -/
structure Ty where
  w : Nat
  n : Nat
  signed : Bool
  float : Bool
  deriving DecidableEq, Repr

/-- The element type of a code (R41). -/
def tyOf : Nat → Ty
  | 0 => ⟨8, 4, true, false⟩
  | 1 => ⟨8, 4, false, false⟩
  | 2 => ⟨16, 2, true, false⟩
  | 3 => ⟨16, 2, false, false⟩
  | 4 => ⟨32, 1, true, false⟩
  | 5 => ⟨32, 1, false, false⟩
  | 6 => ⟨16, 2, true, true⟩
  | 7 => ⟨16, 2, true, true⟩
  | 8 => ⟨32, 1, true, true⟩
  | 9 => ⟨64, 1, true, true⟩
  | 10 => ⟨64, 1, true, false⟩
  | 11 => ⟨64, 1, false, false⟩
  | _ => ⟨8, 4, true, true⟩

/-- Is the type a pair type (R42)? -/
def isPair (t : Nat) : Bool := t == 9 || t == 10 || t == 11

/-- Sets of type codes that entries allow (R183, R189). -/
def intTypes : List Nat := [0, 1, 2, 3, 4, 5, 10, 11]
def anyTypes : List Nat := [0, 1, 2, 3, 4, 5, 6, 7, 8, 9, 10, 11, 12, 13]
def floatTypes : List Nat := [6, 7, 8, 9]

/-- The register of a lane, or the pair under a pair type, as one number. -/
def Group.getVal (g : Group) (t r l : Nat) : Nat := if isPair t then (g.getVP r l).toNat else (g.getV r l).toNat

/-- Element i of a register value under a type. -/
def elem (t v i : Nat) : Nat := v / 2 ^ ((tyOf t).w * i) % 2 ^ (tyOf t).w

/-- The exact value of an integer element (R184). -/
def ival (t x : Nat) : Int := if (tyOf t).signed then Machine.signed (tyOf t).w x else (x % 2 ^ (tyOf t).w : Nat)

/-- A register value built element by element. -/
def pack (t : Nat) (f : Nat → Nat) : Nat :=
  (List.range (tyOf t).n).foldl (fun a i => a + f i % 2 ^ (tyOf t).w * 2 ^ ((tyOf t).w * i)) 0

/-- Max and Min of an integer type (R43). -/
def maxT (t : Nat) : Int := if (tyOf t).signed then (2 ^ ((tyOf t).w - 1) : Nat) - 1 else (2 ^ (tyOf t).w : Nat) - 1
def minT (t : Nat) : Int := if (tyOf t).signed then -((2 ^ ((tyOf t).w - 1) : Nat) : Int) else 0

/-- Sat of R43. -/
def sat (t : Nat) (x : Int) : Int := if x > maxT t then maxT t else if x < minT t then minT t else x

/-- Wrap of R184: modulo 2^w, or saturated when MODE.Sat is 1. -/
def wrapT (t : Nat) (st : Bool) (x : Int) : Nat := wrap (tyOf t).w (if st then sat t x else x)

/-- Write a value to a register, or to a pair under a pair type, in each of the lanes. -/
def Group.setVals (g : Group) (t r : Nat) (ls : List Nat) (f : Nat → Nat) : Group :=
  if isPair t then
    (g.setVs r ls fun l => BitVec.ofNat 32 (f l)).setVs (r + 1) ls fun l => BitVec.ofNat 32 (f l / 2 ^ 32)
  else g.setVs r ls fun l => BitVec.ofNat 32 (f l)

/-- A(L) of format FM (R235). -/
def State.addrFM (s : State) (v j l : Nat) : Nat :=
  (s.getP (2 * j) + (s.getV v l).signExtend 64).toNat

/-- O(L) of format FSM (R235). -/
def State.offFSM (s : State) (v b l : Nat) : Nat := (s.getS b + s.getV v l).toNat

/-- The address of an atomic (R245): a pair, or a scratch offset. -/
def State.addrFA (s : State) (a l : Nat) (scr : Bool) : Nat :=
  if scr then (s.getV a l).toNat else (s.grp.getVP a l).toNat

/-- The target of a branch: the header of its own clause plus 4 × offset, modulo 2^32 (R161). -/
def target (hdr : Nat) {n : Nat} (o : BitVec n) : Nat := wrap 32 (hdr + 4 * o.toInt)

/-- Bytes of an access size (R244). -/
def accBytes : AccSize → Nat
  | .b32 => 4
  | .b64 => 8
  | .b128 => 16

/-- Do registers r to r + n − 1 exist within the allotment (R103, R115)? 0 vregs means 256 (R18). -/
def State.within (s : State) (r n : Nat) : Bool := decide (r + n ≤ if s.grp.vregs = 0 then 256 else s.grp.vregs)

/-- Does the word keep R42 and R103 for one vector operand under the type? -/
def State.vOk (s : State) (t r : Nat) : Bool :=
  if isPair t then decide (r % 2 = 0) && s.within r 2 else s.within r 1

end Sys2Proof.Machine
end

