-- ==== Sys2Proof/Machine/Float.lean ====
section
/-! DEFINITION. Number formats and exact arithmetic (spec/02_number_formats.md R38 to R53, R62). A number is NaN, an
infinity, or a signed dyadic rational m × 2^e held exactly; every result is rounded once by roundTo (R45). -/

namespace Sys2Proof.Machine

/-- An exact number: a zero keeps its sign (R45). -/
inductive Num where
  | nan
  | inf (neg : Bool)
  | fin (neg : Bool) (m : Nat) (e : Int)
  deriving DecidableEq, Repr

/-- A float format: exponent and mantissa bits, bias; special 0 is IEEE, 1 is E4M3, 2 is E2M1 (R38). -/
structure Fmt where
  eb : Nat
  mb : Nat
  bias : Nat
  special : Nat
  deriving DecidableEq, Repr

def fp64 : Fmt := ⟨11, 52, 1023, 0⟩
def fp32 : Fmt := ⟨8, 23, 127, 0⟩
def fp19 : Fmt := ⟨8, 10, 127, 0⟩
def fp16 : Fmt := ⟨5, 10, 15, 0⟩
def bf16 : Fmt := ⟨8, 7, 127, 0⟩
def e4m3 : Fmt := ⟨4, 3, 7, 1⟩
def e5m2 : Fmt := ⟨5, 2, 15, 0⟩
def e2m1 : Fmt := ⟨2, 1, 1, 2⟩
def e2m3 : Fmt := ⟨2, 3, 1, 2⟩
def e3m2 : Fmt := ⟨3, 2, 3, 2⟩

/-- The float format of an element type code (R41). -/
def tyFmt : Nat → Fmt
  | 6 => fp16
  | 7 => bf16
  | 8 => fp32
  | 9 => fp64
  | 12 => e4m3
  | _ => e5m2

/-- Is the format one that MODE.FTZ flushes (R47)? -/
def Fmt.flushes (f : Fmt) : Bool := f == fp64 || f == fp32 || f == fp16 || f == bf16

/-- The exponent of the smallest normal. -/
def Fmt.emin (f : Fmt) : Int := 1 - f.bias

/-- The exact value of a bit pattern (R38). -/
def decodeF (f : Fmt) (x : Nat) : Num :=
  let neg := bitOf x (f.eb + f.mb)
  let ex := x / 2 ^ f.mb % 2 ^ f.eb
  let m := x % 2 ^ f.mb
  if f.special = 0 ∧ ex = 2 ^ f.eb - 1 then (if m = 0 then .inf neg else .nan)
  else if f.special = 1 ∧ ex = 2 ^ f.eb - 1 ∧ m = 2 ^ f.mb - 1 then .nan
  else if ex = 0 then .fin neg m (f.emin - f.mb)
  else .fin neg (2 ^ f.mb + m) ((ex : Int) - f.bias - f.mb)

/-- The canonical NaN (R48). -/
def canonNaN (f : Fmt) : Nat :=
  if f.special = 1 then 2 ^ (f.eb + f.mb) - 1
  else if f = e5m2 then 0x7E
  else (2 ^ f.eb - 1) * 2 ^ f.mb + 2 ^ (f.mb - 1)

/-- The largest finite magnitude, as a bit pattern. -/
def maxBits (f : Fmt) : Nat :=
  if f.special = 0 then (2 ^ f.eb - 1) * 2 ^ f.mb - 1
  else if f.special = 1 then 2 ^ (f.eb + f.mb) - 2
  else 2 ^ (f.eb + f.mb) - 1

/-- m × 2^-k rounded to an integer by a rounding code of R44. neg is the sign of the number. RTO forces the last bit to 1
when inexact. -/
def roundNat (rm : Nat) (neg : Bool) (m k : Nat) : Nat :=
  let q := m / 2 ^ k
  let r := m % 2 ^ k
  if r = 0 then q
  else
    let half := 2 ^ k / 2
    match rm with
    | 0 => if r > half ∨ (2 * r = 2 ^ k ∧ q % 2 = 1) then q + 1 else q
    | 1 => q
    | 2 => if neg then q else q + 1
    | 3 => if neg then q + 1 else q
    | 4 => if 2 * r ≥ 2 ^ k then q + 1 else q
    | _ => if q % 2 = 0 then q + 1 else q

/-- m × 2^e rounded to an integer. -/
def roundAt (rm : Nat) (neg : Bool) (m : Nat) (e : Int) : Nat :=
  if e ≥ 0 then m * 2 ^ e.toNat else roundNat rm neg m (-e).toNat

/-- Rounding of a signed dyadic to an integer under rm (R51, R52: RTO gives the odd neighbour of the signed value). -/
def roundInt (rm : Nat) (neg : Bool) (m : Nat) (e : Int) : Int :=
  let q := roundAt rm neg m e
  if neg then -(q : Int) else q

/-- The sign bit of a format. -/
def signBit (f : Fmt) (neg : Bool) : Nat := if neg then 2 ^ (f.eb + f.mb) else 0

/-- Overflow (R46). -/
def overflow (f : Fmt) (rm : Nat) (st neg : Bool) : Nat :=
  if st || f.special == 2 then signBit f neg + maxBits f
  else
    let toMax := rm == 1 || rm == 5 || (rm == 2 && neg) || (rm == 3 && !neg)
    if toMax then signBit f neg + maxBits f
    else if f.special = 1 then canonNaN f
    else signBit f neg + (2 ^ f.eb - 1) * 2 ^ f.mb

/-- RoundTo of R45, as a bit pattern. -/
def roundTo (f : Fmt) (rm : Nat) (st : Bool) : Num → Nat
  | .nan => canonNaN f
  | .inf neg =>
    if f.special = 0 then signBit f neg + (2 ^ f.eb - 1) * 2 ^ f.mb
    else if st || f.special == 2 then signBit f neg + maxBits f
    else canonNaN f
  | .fin neg m e =>
    if m = 0 then signBit f neg
    else
      let top := (Nat.log2 m : Int) + e
      let ulp := max (top - f.mb) (f.emin - f.mb)
      let q := roundAt rm neg m (e - ulp)
      let code := (ulp + f.mb + f.bias).toNat * 2 ^ f.mb + q - 2 ^ f.mb
      if code > maxBits f then overflow f rm st neg else signBit f neg + code

/-- Flush a subnormal input to a zero of its sign (R47). -/
def flushIn (f : Fmt) (ftz : Bool) (n : Num) : Num :=
  match n with
  | .fin neg m e => if ftz && f.flushes && decide ((Nat.log2 m : Int) + e < f.emin) then .fin neg 0 0 else .fin neg m e
  | _ => n

/-- Flush a rounded result below the smallest normal to a zero of its sign (R47). -/
def flushOut (f : Fmt) (ftz : Bool) (x : Nat) : Nat :=
  if ftz && f.flushes && decide (x / 2 ^ f.mb % 2 ^ f.eb = 0) then signBit f (bitOf x (f.eb + f.mb)) else x

/-- An operand read under MODE.FTZ. -/
def readF (f : Fmt) (ftz : Bool) (x : Nat) : Num := flushIn f ftz (decodeF f x)

namespace Num

def isNaN : Num → Bool
  | .nan => true
  | _ => false
def isInf : Num → Bool
  | .inf _ => true
  | _ => false
def isZero : Num → Bool
  | .fin _ m _ => m == 0
  | _ => false
def neg? : Num → Bool
  | .nan => false
  | .inf n => n
  | .fin n _ _ => n
def neg : Num → Num
  | .nan => .nan
  | .inf n => .inf !n
  | .fin n m e => .fin (!n) m e
def abs : Num → Num
  | .nan => .nan
  | .inf _ => .inf false
  | .fin _ m e => .fin false m e

/-- The signed mantissa at exponent e, which is at most the number's own. -/
def at_ (e : Int) : Num → Int
  | .fin n m x => if n then -((m * 2 ^ (x - e).toNat : Nat) : Int) else ((m * 2 ^ (x - e).toNat : Nat) : Int)
  | _ => 0

/-- The exponent of a finite number; a zero does not lower a common exponent. -/
def exp? : Num → Option Int
  | .fin _ m e => if m = 0 then none else some e
  | _ => none

/-- A finite number from a signed mantissa; zero takes the sign given. -/
def ofInt (zneg : Bool) (m : Int) (e : Int) : Num := if m = 0 then .fin zneg 0 0 else .fin (decide (m < 0)) m.natAbs e

end Num

/-- The sum of finite numbers, exactly, as a signed mantissa and an exponent. -/
def sumFin (l : List Num) : Int × Int :=
  let e := (l.filterMap Num.exp?).foldl min 0
  let e := match (l.filterMap Num.exp?) with | [] => 0 | x :: t => t.foldl min (min x e)
  ((l.map (Num.at_ e)).foldl (· + ·) 0, e)

/-- The sign of a sum that is exactly zero (R50): among zeros, −0 only when all are −0, or under RDN when one is; among
operands not all zero, −0 only under RDN. -/
def zeroSign (rm : Nat) (l : List Num) : Bool :=
  if l.all Num.isZero then (l.all Num.neg?) || (rm == 3 && l.any Num.neg?) else rm == 3

/-- The exact sum of a list (R50, R62): NaN if one is NaN or infinities of both signs meet. -/
def sumN (rm : Nat) (l : List Num) : Num :=
  if l.any Num.isNaN then .nan
  else
    let p := l.any fun x => x.isInf && !x.neg?
    let n := l.any fun x => x.isInf && x.neg?
    if p && n then .nan
    else if p then .inf false
    else if n then .inf true
    else
      let (m, e) := sumFin l
      Num.ofInt (zeroSign rm l) m e

/-- The exact product: 0 × ∞ is NaN. -/
def mulN (a b : Num) : Num :=
  match a, b with
  | .nan, _ => .nan
  | _, .nan => .nan
  | .inf n, y => if y.isZero then .nan else .inf (n != y.neg?)
  | x, .inf n => if x.isZero then .nan else .inf (x.neg? != n)
  | .fin n m e, .fin n' m' e' => .fin (n != n') (m * m') (e + e')

/-- The quotient, exact enough to round once to any format: its low bit is sticky. x / 0 is an infinity (R186). -/
def divN (a b : Num) : Num :=
  match a, b with
  | .nan, _ => .nan
  | _, .nan => .nan
  | .inf _, .inf _ => .nan
  | .inf n, y => .inf (n != y.neg?)
  | x, .inf n => .fin (x.neg? != n) 0 0
  | .fin n m e, .fin n' m' e' =>
    if m' = 0 then (if m = 0 then .nan else .inf (n != n'))
    else if m = 0 then .fin (n != n') 0 0
    else
      let k := Nat.log2 m' + 130
      let q := m * 2 ^ k / m'
      let r := m * 2 ^ k % m'
      .fin (n != n') (2 * q + if r = 0 then 0 else 1) (e - e' - k - 1)

/-- The integer square root, bit by bit from bit n − 1. -/
def isqrt (x : Nat) : Nat → Nat → Nat
  | 0, r => r
  | n + 1, r => if (r + 2 ^ n) * (r + 2 ^ n) ≤ x then isqrt x n (r + 2 ^ n) else isqrt x n r

/-- The square root, exact enough to round once: its low bit is sticky. √−0 is −0; of a negative number, NaN (R186). -/
def sqrtN : Num → Num
  | .nan => .nan
  | .inf n => if n then .nan else .inf false
  | .fin n m e =>
    if m = 0 then .fin n 0 0
    else if n then .nan
    else
      let k : Nat := if e % 2 = 0 then 140 else 141
      let x := m * 2 ^ k
      let r := isqrt x (Nat.log2 x / 2 + 1) 0
      .fin false (2 * r + if r * r = x then 0 else 1) ((e - k) / 2 - 1)

/-- Compare two numbers that are not NaN: a < b. −0 equals +0. -/
def ltN (a b : Num) : Bool :=
  match a, b with
  | .nan, _ => false
  | _, .nan => false
  | .inf n, .inf n' => n && !n'
  | .inf n, .fin _ _ _ => n
  | .fin _ _ _, .inf n => !n
  | x, y =>
    let (m, _) := sumFin [x, y.neg]
    decide (m < 0)

def eqN (a b : Num) : Bool := !a.isNaN && !b.isNaN && !ltN a b && !ltN b a

/-- VFMIN and VFMAX (R50): −0 lies below +0, and a lone NaN gives the other operand. -/
def minN (a b : Num) : Num :=
  if a.isNaN then b else if b.isNaN then a
  else if ltN a b || (eqN a b && a.neg?) then a else b
def maxN (a b : Num) : Num :=
  if a.isNaN then b else if b.isNaN then a
  else if ltN b a || (eqN a b && !a.neg?) then a else b

/-- floor of a finite number. -/
def floorN : Num → Int
  | .fin n m e => roundInt 3 n m e
  | _ => 0

/-- floor(log2 |x|) of a finite nonzero number. -/
def ilog2 : Num → Int
  | .fin _ m e => (Nat.log2 m : Int) + e
  | _ => 0

/-- A number times a power of two. -/
def scaleN (k : Int) : Num → Num
  | .fin n m e => .fin n m (e + k)
  | x => x

/-- An integer as a number. -/
def intN (x : Int) : Num := Num.ofInt false x 0

/-- Is the result NaN although no operand was, or an overflow to NaN: an invalid operation (R49)? -/
def invalid (ops : List Num) (f : Fmt) (bits_ : Nat) : Bool := !(ops.any Num.isNaN) && (decodeF f bits_).isNaN

/-- The new value of an atomic update (R246): x the old value, v the operand, c the second register of CAS, w the width. -/
def atomNew (o : AtomOp) (w x v n : Nat) : Nat :=
  match o with
  | .add => (x + v) % 2 ^ w
  | .minS => if signed w x ≤ signed w v then x else v
  | .minN => min x v
  | .maxS => if signed w x ≥ signed w v then x else v
  | .maxN => max x v
  | .and => x &&& v
  | .or => x ||| v
  | .xor => x ^^^ v
  | .exch => v
  | .cas => if x = v then n else x
  | .fadd =>
    let f := if w = 64 then fp64 else fp32
    roundTo f 0 false (sumN 0 [decodeF f x, decodeF f v])

end Sys2Proof.Machine
end

