-- ==== Sys2Proof/Machine/Ops.lean ====
section
/-! DEFINITION. The named operations that the meanings share: issuing a word (R118, R119, R160), taking a trap (R415) and
returning from one (R173), failing a block and its context (R417), rolling a block back (R431), parking (R227, R228), the
store buffer (R239). -/

namespace Sys2Proof.Machine

/-- What the body of an instruction word ends with, once the word has been folded and the PC stands at the next word. -/
inductive Eff where
  | ok (s : State)                              -- performed
  | trap (code : Nat) (info : DWord) (s : State)  -- a trap of delivery I, with what was performed first (R412)
  | bad (code : Nat)                            -- a trap with the word and its offset as TRAPINFO (R138)
  | hold (w : Wait)                             -- the split waits at the word (R148)
  | stall (s : State) (w : Wait)                -- the same, with what was done in the meantime
  | later (s : State)                           -- the word does not issue yet, and the split stays ready (R104, R148)
  | park (s : State) (id : Nat)                 -- the split parks; the lanes that succeeded are performed (R227)

/-- TRAPINFO of the traps of R138: the word and its byte offset. -/
def wordInfo (w : Word) (pc : Nat) : DWord := pair w (BitVec.ofNat 32 pc)

/-- TRAPINFO of R236 for a global address, and for a scratch or constant offset. -/
def globalInfo (va lane : Nat) : DWord := BitVec.ofNat 64 (va % 2 ^ 56 + lane * 2 ^ 56)
def scratchInfo (off lane : Nat) : DWord := BitVec.ofNat 64 (off % 2 ^ 32 + lane * 2 ^ 32 + 2 ^ 63)

namespace State

/-- Does a split wait on memory, an engine, the Loft, the Pantry or a queue by its flags, on a parking, or on a barrier with
pending bytes (R112)? -/
def memWait (s : State) (b : Nat) (x : Split) : Bool :=
  match x.status with
  | .parked _ => true
  | .waiting (.header m) | .waiting (.mask m) => x.holds.any fun h => m.getLsbD h.1 && (s.opOf h.2).kind != .divide
  | .waiting (.barWord scr a) => bits (if scr then s.scrNum b a 16 else s.rdNum a 16) 79 32 != 0
  | _ => false

/-- Class a cycle of a resident block's core (R112): by is the block that issued in it. -/
def account (s : State) (by_ : Option Nat) (e : Nat × Block) : Nat × Block :=
  if by_ = some e.1 then (e.1, { e.2 with busy := e.2.busy + 1 })
  else if e.2.life == .running && e.2.groups.any (fun g => !g.2.ended) &&
      e.2.groups.all fun g => g.2.splits.all fun x => x.2.status == .empty || s.memWait e.1 x.2 then
    (e.1, { e.2 with stalled := e.2.stalled + 1 })
  else if e.2.life == .running || e.2.life == .carved then (e.1, { e.2 with idle := e.2.idle + 1 })
  else e

/-- Add a cycle to the issuing core and to the module's clock (R5), and to the counts of the blocks of that core (R112). -/
def tickCore (s : State) (b : Nat) : State :=
  let x := s.blkOf b
  let s' := s.modCore x.die x.core fun c => { c with cycles := c.cycles + 1 }
  { s' with clock := s.clock + 1,
            blocks := s.blocks.map fun e => if e.2.die == x.die && e.2.core == x.core then s.account (some b) e else e }

/-! ### The store buffer (R239) -/

/-- May a write to a physical address be performed at its home now: no cellar command holds its page (R344), the host holds no copy of
its line (R379), and its channel serves ordinary accesses (R340)? -/
def canWrite (s : State) (pa : Nat) : Bool := !s.heldPage pa && !s.hostShared.contains (pa / 128) && !s.chanBusy pa

/-- Is an acquiring load or atomic of the group still to be answered (R397)? Nothing later accesses memory before it. -/
def acqBusy (s : State) : Bool :=
  s.ops.any fun e => e.2.blk == s.focus.blk && e.2.grp == s.focus.grp && e.2.acq != 0

/-- A value after the updates of an atomic request, operand by operand (R246, R248, R249). -/
def rmwAll (o : AtomOp) (w x : Nat) (vs : List Nat) : Nat := vs.foldl (fun x v => atomNew o w x v v) x

/-- Perform a request at its place: the bytes it answers with (R374). For CAS the operand is the new value. -/
def serve (s : State) (fn pa : Nat) : RemoteOp → State × List Byte
  | .read n => (s, s.rd pa n)
  | .write bs => (s.wr fn pa bs, [])
  | .runs l => (l.foldl (fun s x => s.wr fn (pa + x.1) x.2) s, [])
  | .atomic o n v c =>
    let x := s.rdNum pa n
    (s.wr fn pa (toBytes n (atomNew o (8 * n) x (if o = .cas then c else v) v)), toBytes n x)
  | .addList f n vs =>
    let x := s.rdNum pa n
    (s.wr fn pa (toBytes n (rmwAll (if f then .fadd else .add) (8 * n) x vs)), [])

/-- Perform one buffered write at its place. -/
def performWrite (s : State) (b fn : Nat) (x : SbWrite) : State :=
  if x.scr then
    match x.rmw with
    | none => s.writeScr b x.at_ x.bytes
    | some (o, w, vs) => s.writeScr b x.at_ (toBytes (w / 8) (rmwAll o w (s.scrNum b x.at_ (w / 8)) vs))
  else
    match x.rmw with
    | none => s.wr fn x.at_ x.bytes
    | some (o, w, vs) => s.wr fn x.at_ (toBytes (w / 8) (rmwAll o w (s.rdNum x.at_ (w / 8)) vs))

/-- What a buffered write asks of its home where it has to wait there. -/
def SbWrite.request (x : SbWrite) : RemoteOp :=
  match x.rmw with
  | none => .write x.bytes
  | some (o, w, [v]) => .atomic o (w / 8) v v
  | some (o, w, vs) => .addList (o == .fadd) (w / 8) vs

/-- May a write go to its home now? One to a held page goes, and waits there (R344). -/
def SbWrite.may (s : State) (w : SbWrite) : Bool :=
  w.scr || w.tok.isSome || s.heldPage w.at_ || (!s.hostShared.contains (w.at_ / 128) && !s.chanBusy w.at_)
def entryReady (s : State) (x : SbEntry) : Bool := x.writes.all fun w => SbWrite.may s w

/-- The word of the focused split has found a page held by a cellar command: it is one of the requests that wait on the hold (R345). -/
def noteWord (s : State) (pa : Nat) : State :=
  let w := (s.focus.blk, s.focus.grp, s.focus.ent, s.spl.pc - 4)
  match s.cells.find? fun e => e.2.outPages.contains (pa / 2 ^ 21) with
  | some e => if e.2.words.contains w then s else { s with cells := s.cells.set e.1 { e.2 with words := e.2.words ++ [w] } }
  | none => s

/-- A group has written an MMIO window: a release at sys scope will read it (R380). -/
def markMmio (s : State) (b g pa : Nat) : State :=
  match if s.rangeOf pa == .host then s.mmioWindow pa else none with
  | some n => s.modGrp b g fun x => if x.mmioDirty.contains n then x else { x with mmioDirty := x.mmioDirty ++ [n] }
  | none => s

/-- Perform one write of an entry at its home, or leave it there: what of it remains in the buffer. -/
def sendWrite (s : State) (b g fn : Nat) (w : SbWrite) : State × List SbWrite :=
  if w.tok.isSome then (s, [w])
  else if !w.scr && s.heldPage w.at_ then
    let (id, s) := s.newId
    (s.holdReq { pa := w.at_, op := SbWrite.request w, who := .store b g id, fn := fn }, [{ w with tok := some id }])
  else ((s.performWrite b fn w).markMmio b g w.at_, [])

/-- Perform every write of an entry, in ascending lane order (R237). -/
def performEntry (s : State) (b g : Nat) (x : SbEntry) : State × List SbWrite :=
  let fn := (s.gridOf (s.blkOf b).grid).fn
  x.writes.foldl (fun a w =>
    match a.1.sendWrite b g fn w with
    | (s, l) => (s, a.2 ++ l)) (s, [])

/-- The failure that a store-class instruction leaves once all its writes are done with (R376, R377): the instruction's own is queued. -/
def sbFails (g : Group) : List Failure :=
  (g.sb.filter fun e => e.writes.isEmpty).filterMap fun e => e.fail.map fun f => { code := f.2.1, info := f.2.2, stream := false }

/-- Does a lane's access of n bytes meet bytes that an entry of its group holds for that lane (R239)? Lane 96 stands for every
lane of the split: SLD and SST (R182), and an addition that SCATADD combines (R249). -/
def sbHit (s : State) (b g lane : Nat) (scr : Bool) (a n : Nat) : Bool :=
  (s.grpOf b g).sb.any fun e => e.writes.any fun w =>
    (w.lane == lane || w.lane == 96 || lane == 96) && w.scr == scr && decide (w.at_ < a + n) &&
      decide (a < w.at_ + (match w.rmw with | some (_, k, _) => k / 8 | none => w.bytes.length))

/-- Take a store buffer entry for the issuing group (R239). -/
def pushSb (s : State) (ws : List SbWrite) (fail : Option (Nat × Nat × DWord)) : State :=
  let (id, s) := s.newId
  s.modG fun g => { g with sb := g.sb ++ [{ id := id, writes := ws, fail := fail }] }

/-- A write of an entry has been sent by a message of that number: it is counted as not acknowledged (R239). -/
def sentBy (s : State) (b g e tok : Nat) (w : SbWrite) : State :=
  s.modGrp b g fun x => { x with unacked := x.unacked + 1,
                                 sb := x.sb.map fun y => if y.id = e then { y with writes := y.writes ++ [{ w with tok := some tok }] } else y }

/-- Is the buffer full (R239)? -/
def sbFull (s : State) : Bool := decide (s.grp.sb.length ≥ 32)

/-! ### Queues, profile and teardown -/

/-- The shadow entry of a queue: its table lies at a physical address that the PF sets (R69; log 13). -/
def shadowAt (s : State) (q : Nat) : Nat := (s.dieOf (q / 1024)).shadowBase + 64 * (q % 1024)
def shadow (s : State) (q off n : Nat) : Nat := s.rdNum (s.shadowAt q + off) n

/-- Set or clear a bit of ShadowStatus (R69). -/
def shadowBit (s : State) (q i : Nat) (v : Bool) : State :=
  let x := s.shadow q 0x18 4
  let y := if bitOf x i = v then x else if v then x + 2 ^ i else x - 2 ^ i
  (s.homeWrite noFn (s.shadowAt q + 0x18) (toBytes 4 y) .nobody).1

/-- Write bytes of a queue's control block in the queue's context: whether the write could be made (R68, R469). -/
def cbWrite (s : State) (q off : Nat) (bs : List Byte) : State × Bool :=
  let x := s.queueOf q
  s.devWrite (q / 1024) x.fn x.ctx (x.cb + off) bs

def cbRead (s : State) (q off n : Nat) : State × Option Nat :=
  let x := s.queueOf q
  s.devNum (q / 1024) x.fn x.ctx (x.cb + off) n

/-- The Status word of a control block as the firmware holds it (R68). -/
def statusWord (s : State) (q : Nat) : Nat :=
  let x := s.queueOf q
  (if x.err then 1 else 0) + (if x.stopped then 2 else 0) +
    (if (s.dieOf (q / 1024)).lanes.any (fun l => l.2.queue == some (q % 1024)) then 4 else 0)

/-- The ring slot that ErrorSlot names: the packet's, or that of the outermost open CALL (R68). -/
def errorSlot (x : Queue) : Nat :=
  match x.again with
  | some (n, slot) => if x.calls.length = n then slot else if x.calls.isEmpty then x.readIdx else x.readIdx - 1
  | none => if x.calls.isEmpty then x.readIdx else x.readIdx - 1

/-- The position of the next packet in the innermost open CALL buffer. -/
def innerSlot (x : Queue) : Nat := match x.calls with | c :: _ => c.2.2 | [] => 0

/-- A queue error (R82) of a packet at a slot, at a CALL depth: the queue stops, and its VF is told. Writes that cannot be made are
dropped (R469). The detail of a refused TASK stands in ErrorInfo alone (R65, R389). A queue that an earlier error has stopped reports
again (log 53). -/
def queueErrAt (s : State) (q code detail slot depth inner : Nat) : State :=
  let x := s.queueOf q
  let s := s.modQueue q fun x => { x with err := true, stopped := true, errCopy := false }
  let s := (s.cbWrite q 0x14 (toBytes 4 (code + detail * 2 ^ 8 + depth * 2 ^ 16))).1
  let s := (s.cbWrite q 0x18 (toBytes 8 slot)).1
  let s := (s.cbWrite q 0x28 (toBytes 8 inner)).1
  let s := ((s.cbWrite q 0x10 (toBytes 4 (s.statusWord q))).1).shadowBit q 2 true
  (s.event x.fn (q / 1024) 0x01 (q % 1024) code (if code = 0x0F then 0 else detail) x.fn slot 0).raise x.fn x.vector

/-- A queue error of the packet at the head. -/
def queueErr (s : State) (q code detail : Nat) : State :=
  let x := s.queueOf q
  s.queueErrAt q code detail (errorSlot x) x.calls.length (innerSlot x)

/-- The control block could not be read or written (R469). -/
def cbFault (s : State) (q : Nat) : State := s.queueErr q 0x09 1

/-- A write of the firmware to the control block, and whether it could be made (R469). -/
def cbTry (s : State) (q off n v : Nat) : State × Bool :=
  match s.cbWrite q off (toBytes n v) with
  | (s, true) => (s, true)
  | (s, false) => (s.cbFault q, false)
def cbPut (s : State) (q off n v : Nat) : State := (s.cbTry q off n v).1

/-- Write Status from the firmware's state. -/
def putStatus (s : State) (q : Nat) : State := s.cbPut q 0x10 4 (s.statusWord q)

/-- Stop a queue under R73. -/
def stopQueue (s : State) (q : Nat) : State := (s.modQueue q fun x => { x with stopped := true }).putStatus q

/-- Add a block's counts to its entry of the placement profile table (R111, R112); a page of the table that a cellar command holds is waited for
(R344, R443). -/
def profileAdd (s : State) (b : Nat) : State :=
  let x := s.blkOf b
  let gr := s.gridOf x.grid
  let base := (s.fnOf gr.fn).profile.get 0 x.die
  let s' := s.modBlk b fun y => { y with busy := 0, idle := 0, stalled := 0 }
  if base = 0 then s'
  else
    let a := base + 32 * (gr.phase.toNat * 96 + x.core)
    let put := fun (s : State) (off : Nat) (v : BitVec 48) =>
      match s.devNum x.die gr.fn 0 (a + off) 8 with
      | (s, some o) => (s.devWrite x.die gr.fn 0 (a + off) (toBytes 8 ((o + v.toNat) % 2 ^ 48))).1
      | (s, none) => s
    match s'.translate x.die none gr.fn 0 a .write with
    | (s, .error r) => s.event gr.fn x.die 0x04 x.core 0 r gr.fn a gr.phase.toNat
    | (s, .ok pa) => if s.heldPage (s.localPa pa) then s.ask .wait else put (put (put s 0 x.busy) 8 x.idle) 16 x.stalled

/-- Stop a block's Loft operations without reissue; LBAY and LFREE run to their end (R313, R417). -/
def dropLoft (s : State) (b : Nat) : State :=
  { s with dies := s.dies.map fun (e : Nat × Die) => (e.1, { e.2 with loft := e.2.loft.filter fun j =>
      j.blk != b || (match j.form with | .lbay _ _ => true | .lfree _ => true | _ => false) }) }

/-- The messages that a block has sent are performed all the same, with nobody of it to take the answers; those that met poison are over (R417, R431). A
lane of it whose atomic waits at its home counts as a store of it. -/
def leaveSent (s : State) (b : Nat) : State :=
  let settled := fun (e : Nat × Remote) => e.2.blk == b && !e.2.far && (e.2.poisoned || s.parks.any fun p => p.2.who == .access e.1)
  let alone := fun (h : HeldReq) => match h.who with
    | .lane o _ _ => if (s.opOf o).blk = b then { h with who := .store b (s.opOf o).grp 0 } else h
    | _ => h
  let s := s.dropRemotes settled
  { s with
    remotes := s.remotes.map fun (e : Nat × Remote) => (e.1, if e.2.blk = b ∧ !e.2.far then
      { e.2 with op := none, sb := none, engine := none, regs := [], poisoned := false } else e.2)
    snoopHeld := s.snoopHeld.map alone
    cells := s.cells.map fun (e : Nat × CellCmd) => (e.1, { e.2 with held := e.2.held.map alone, waits := e.2.waits.map alone }) }

/-- Discard a block's registers, scratch, outstanding operations and parkings, and free its resources (R417, R431, R440); the MMIO windows that it has
written are left to its grid to be read (R442). -/
def discard (s : State) (b : Nat) (l : Life) : State :=
  let s := (s.dropLoft b).leaveSent b
  let s := s.modGrid (s.blkOf b).grid fun g =>
    { g with mmio := dedup (g.mmio ++ (s.blkOf b).groups.flatMap fun x => x.2.mmioDirty) }
  let s := { s with
    ops := s.ops.filter fun (e : Nat × Op) => e.2.blk != b
    parks := s.parks.filter fun (e : Nat × Park) => match e.2.who with
      | .split x _ _ => x != b | .queue x _ _ => x != b | .stream x => x != b | .access i => !(s.remotes.any fun r => r.1 == i && r.2.blk == b)
    far := s.far.filter fun e => match e.who with | .split x _ _ | .fetch x _ _ | .stream x | .word x _ _ | .words x => x != b | _ => true }
  s.modBlk b fun x => { x with life := l, groups := [], scratch := [], act := [], bars := [], ms := {}, msHeld := 0, preempt := none }

/-- A block counts as retired for its grid (R417, R441). -/
def countRetired (s : State) (b : Nat) : State :=
  s.modGrid (s.blkOf b).grid fun g => { g with blocksLeft := g.blocksLeft - 1 }

/-- Tear a block down (R417): its cycle counts are added to the profile table, and it counts as retired. -/
def tearDown (s : State) (b : Nat) : State :=
  let x := s.blkOf b
  if x.life == .retired || x.life == .failed then s
  else ((s.profileAdd b).discard b .failed).countRetired b

/-- The context number of a failure: record it in CTXSTAT if it is the first (R418). -/
def ctxFailed (s : State) (fn ctx grid code die core : Nat) : State :=
  s.modCtx fn ctx fun c =>
    if c.stat.getLsbD 0 then c
    else { c with stat := (c.stat &&& 0xE) |||
      BitVec.ofNat 64 (grid % 2 ^ 32 * 2 ^ 32 + code % 256 * 2 ^ 24 + die % 4 * 2 ^ 22 + core % 128 * 2 ^ 15 + 1) }

/-- The queues of a context. -/
def ctxQueues (s : State) (fn ctx : Nat) : List Nat :=
  (s.queues.filter fun (e : Nat × Queue) => e.2.enabled && e.2.fn == fn && e.2.ctx == ctx).map (·.1)

/-- The unretired grids of a context. -/
def ctxGrids (s : State) (fn ctx : Nat) : List Nat :=
  (s.grids.filter fun (e : Nat × Grid) => !e.2.retired && e.2.fn == fn && e.2.ctx == ctx).map (·.1)

/-- The blocks of a grid that have been placed, whatever became of them since. -/
def gridBlocks (s : State) (g : Nat) : List Nat := (s.blocks.filter fun (e : Nat × Block) => e.2.grid == g).map (·.1)

/-- Is the block saved or rolled back, so that it is torn down only when it comes to be resumed (R417)? -/
def isSaved (s : State) (b : Nat) : Bool := (s.blkOf b).life == .saved || (s.blkOf b).life == .rolledBack

/-- The blocks of a grid (R15). -/
def gridSize (g : Grid) : Nat := g.dimX * g.dimY * g.dimZ

/-- Tear a grid down block by block: what is unplaced is placed no more. -/
def tearGrid (s : State) (g : Nat) : State :=
  let s := (s.gridBlocks g).foldl (fun s b => if s.isSaved b then s else s.tearDown b) s
  s.modGrid g fun x =>
    { x with failed := true, placed := gridSize x, starving := [], blocksLeft := x.blocksLeft - (gridSize x - x.placed) }

/-- Discard the accepted cellar commands of a context of which no part has started: their packets complete, and the requests that waited on
their holds are performed before the step ends. Of the others the parts not started are discarded (R346). -/
def tearCells (s : State) (fn ctx : Nat) : State :=
  let mine := fun (e : Nat × CellCmd) => e.2.fn == fn && e.2.ctx == ctx
  let gone := fun (e : Nat × CellCmd) => mine e && e.2.parts.all fun p => p.2.1 == 0
  { s with
    pkts := s.pkts.filter fun p => !s.cells.any fun e => gone e && e.2.pkt == p.1
    snoopHeld := s.snoopHeld ++ (s.cells.filter gone).flatMap fun e => e.2.held
    cells := (s.cells.filter fun e => !gone e).map fun (e : Nat × CellCmd) =>
      (e.1, if mine e then { e.2 with parts := e.2.parts.map fun p => if p.2.1 = 0 then (p.1, 3, 0) else p } else e.2) }

/-- A context fails (R417): CTXSTAT, the record of kind 0x0C, its queues stop, its grids are torn down, its cellar commands
that have not started are discarded. -/
def failContext (s : State) (fn ctx grid code die core structure_ : Nat) (info : DWord) : State :=
  let s := s.ctxFailed fn ctx grid code die core
  let s := s.event fn die 0x0C core code structure_ fn info.toNat (ctx + grid % 2 ^ 32 * 2 ^ 16)
  let s := (s.ctxQueues fn ctx).foldl (fun s q => s.stopQueue q) s
  let s := s.tearCells fn ctx
  (s.ctxGrids fn ctx).foldl (fun s g => s.tearGrid g) s

/-- FailBlock (R417): the block is torn down and its context fails. -/
def failBlock (s : State) (b code : Nat) (info : DWord) (structure_ : Nat) : State :=
  let x := s.blkOf b
  let gr := s.gridOf x.grid
  (s.tearDown b).failContext gr.fn gr.ctx x.grid code x.die x.core structure_ info

/-! ### Traps -/

/-- TakeTrap (R415): a double trap, or a grid without a handler, fails the block; otherwise the frame, the codes, MODE, SIG and
PC are written and the split runs its handler. -/
def takeTrap (s : State) (b g e code : Nat) (info : DWord) (f : Frame) : State :=
  let x := s.splOf b g e
  match x.frame, (s.gridOf (s.blkOf b).grid).trapEntry with
  | none, some entry =>
    s.modSplOf b g e fun x => { x with
      frame := some f
      trapCode := BitVec.ofNat 32 code
      trapInfo := info
      mode := x.mode &&& ~~~0x38
      sig := 0xFFFFFFFF
      pc := entry
      left := 0
      ll := 0
      status := .ready
      replay := none
      kvFail := none
      merged := false }
  | _, _ => s.failBlock b code info 0

/-- The frame of a split whose next word is the trapping word (R172). -/
def frameOf (x : Split) : Frame :=
  { pc := x.pc, hdr := x.hdr, ll := x.ll, left := x.left, flagA := x.flagA, flagB := x.flagB, yieldBit := x.yieldBit,
    ofStream := false, atH := false, word := 0, mode := x.mode, sig := x.sig }

/-- The frame of a trap of delivery H: the header that is about to issue is the trapping word (R412). -/
def frameH (x : Split) (ofStream : Bool) : Frame :=
  { frameOf x with hdr := x.pc, ll := 0, left := 0, ofStream := ofStream, atH := true }

/-- Deliver the group's oldest waiting failure to a split that is about to issue a header and holds no frame (R412). -/
def deliverH (s : State) (b g e : Nat) : State :=
  let x := s.splOf b g e
  match (s.grpOf b g).fails with
  | f :: rest =>
    if x.frame.isNone then
      let s := s.modGrp b g fun y => { y with fails := rest }
      s.takeTrap b g e f.code f.info (frameH x f.stream)
    else s
  | [] => s

/-- Queue a failure for delivery H; where the group has ended, it is a trap without a handler (R412, R260, R376). -/
def failH (s : State) (b g code : Nat) (info : DWord) : State :=
  if (s.grpOf b g).ended then s.failBlock b code info 0
  else s.addFail b g { code := code, info := info, stream := false }

/-- An operation completes: its results are written, it leaves every flag that holds it, and what it failed with waits for
delivery H (R119, R121, R180, R376). -/
def finishOp (s : State) (id : Nat) : State :=
  if s.ops.has id then
    let o := s.opOf id
    let s := { s with ops := s.ops.del id }
    let s := s.modGrp o.blk o.grp fun g => g.takeResults id o
    match o.fail with
    | some f => s.failH o.blk o.grp f.1 f.2
    | none => s
  else s

/-- Free the entries of a group whose writes are performed and acknowledged; what failed in them then waits for delivery H (R239, R376, R377). -/
def sweepSb (s : State) (b g : Nat) : State :=
  let fs := sbFails (s.grpOf b g)
  let s := s.modGrp b g fun x => { x with sb := x.sb.filter fun e => !e.writes.isEmpty }
  fs.foldl (fun s f => s.failH b g f.code f.info) s

/-- Does an entry hold a write that has not been sent? -/
def SbEntry.waits (e : SbEntry) : Bool := e.writes.any fun w => w.tok.isNone

/-- An entry has been performed: l is what of it remains in the buffer, sent and not acknowledged. -/
def keepEntry (s : State) (b g : Nat) (e : SbEntry) (l : List SbWrite) : State :=
  let sent := (l.length - (e.writes.filter fun w => w.tok.isSome).length)
  (s.modGrp b g fun x => { x with unacked := x.unacked + sent,
                                  sb := x.sb.map fun y => if y.id = e.id then { y with writes := l } else y }).sweepSb b g

/-- Does an atomic of a group still wait for its home, here or in another module? -/
def atomsOut (s : State) (b g : Nat) : Bool :=
  s.ops.any fun o => o.2.blk == b && o.2.grp == g && o.2.kind == .atomic && o.2.remote != 0

/-- A write that follows a FENCE or a REL of its group is a release, which covers the group's earlier writes (R395): they have been performed and
acknowledged before it is (R397). May an entry of the buffer be performed? -/
def mayFollow (s : State) (b g : Nat) (e : SbEntry) : Bool :=
  let x := s.grpOf b g
  x.fenced == 0 || (!s.atomsOut b g && (x.sb.find? fun y => !y.writes.isEmpty).map (·.id) == some e.id)

/-- A release at sys scope: a zero-length read of each MMIO window that the group has written (R380, R397). -/
def flushMmio (s : State) (b g : Nat) : State :=
  ((s.grpOf b g).mmioDirty.foldl (fun s n => s.emit (.hostRead (s.fab (0xC0 + 16 * n) 8) 0 [] 0)) s).modGrp b g fun x => { x with mmioDirty := [] }

/-- A write that follows a FENCE or a REL at sys scope is a release at that scope (R395, R397). -/
def beforeWrite (s : State) (b g : Nat) : State := if (s.grpOf b g).fenced = 5 then s.flushMmio b g else s

/-- Perform the first n entries of a group's buffer that can be performed, in order. -/
def drainN (s : State) (b g : Nat) : Nat → State
  | 0 => s
  | n + 1 =>
    match (s.grpOf b g).sb.find? SbEntry.waits with
    | none => s
    | some e =>
      if !s.mayFollow b g e then s
      else if s.entryReady e then
        match (s.beforeWrite b g).performEntry b g e with
        | (s, l) => (s.keepEntry b g e l).drainN b g n
      else e.writes.foldl (fun s w => if w.scr then s else s.snoop w.at_) s

/-- Perform every entry that can be performed. -/
def drain (s : State) (b g : Nat) : State := s.drainN b g 33

/-- Perform every entry of a group's buffer; one to a held page goes to its home and waits there. The host's copies of the lines are called back
first, and a channel that computes is waited for (R340, R379). -/
def flushSb (s : State) (b g : Nat) : State :=
  ((s.grpOf b g).sb.filter SbEntry.waits).foldl (fun s e =>
    let s := e.writes.foldl (fun s w => if w.scr || w.tok.isSome || s.heldPage w.at_ then s else s.claim w.at_ 1) s
    match s.performEntry b g e with
    | (s, l) => s.keepEntry b g e l) s

/-- A write of a store buffer entry is done with: acknowledged, or failed with the code and TRAPINFO of its lane. The entry is freed with
its last write, and what failed in its lowest lane then waits for delivery H (R239, R376, R377). -/
def endWrite (s : State) (b g tok : Nat) (fail : Option (Nat × Nat × DWord)) : State :=
  let mine := fun (y : SbEntry) => y.writes.any fun w => w.tok == some tok
  let worse := fun (a b : Option (Nat × Nat × DWord)) => match a, b with
    | some x, some y => if y.1 < x.1 then some y else some x
    | some x, none => some x
    | none, y => y
  let s := s.modGrp b g fun x => { x with
    unacked := if x.sb.any mine then x.unacked - 1 else x.unacked
    sb := x.sb.map fun y => if mine y then { y with writes := y.writes.filter fun w => w.tok != some tok, fail := worse y.fail fail } else y }
  s.sweepSb b g

/-- A trap of the matrix stream (R273): the stream halts, and the lowest group with a non-empty split takes it at a header. -/
def streamTrap (s : State) (b code : Nat) (info : DWord) : State :=
  let x := s.blkOf b
  match (s.gridOf x.grid).trapEntry, x.groups.find? (fun (e : Nat × Group) => !e.2.ended) with
  | some _, some (g, _) =>
    let s := s.modBlk b fun y => { y with ms := { y.ms with halted := true } }
    s.addFail b g { code := code, info := info, stream := true }
  | _, _ => s.failBlock b code info 0

/-- The word at a PC of a block; free where it cannot be read. What another module holds is asked for (R371). -/
def wordFor (s : State) (b pc : Nat) : Word × State :=
  match (s.gridOf (s.blkOf b).grid).codeCopy with
  | some c => (BitVec.ofNat 32 (getNum c pc 4), s)
  | none =>
    match s.reach (s.blkOf b) ((s.gridOf (s.blkOf b).grid).code + pc) 4 .fetch with
    | (t, .ok pa) => (BitVec.ofNat 32 (t.rdNum pa 4), t)
    | (t, .remote pa) =>
      match t.farDo (t.gridOf (t.blkOf b).grid).fn pa (.read 4) with
      | (t, some (0, bs)) => (BitVec.ofNat 32 (ofBytes bs), t)
      | (t, _) => t.fresh 32
    | (t, .wait) => (t.ask .wait).fresh 32
    | _ => s.fresh 32

/-! ### Parking (R227, R228) -/

/-- Park a split, a queue or a stream: one event record for each distinct 4 KiB page, with the access type acc gives its address,
in context ctx. fs lists, in lane order, each faulting address with its reason and whether it met a poisoned sector; the first
names the parking. -/
def parkIn (s : State) (who : Parker) (b ctx : Nat) (acc : Nat → Nat) (fs : List (Nat × Nat × Bool)) (lanes : LaneMask) :
    Nat × State :=
  let x := s.blkOf b
  let gr := s.gridOf x.grid
  let (id, s) := s.newId
  let f := fs.headD (0, 0, false)
  let pk : Park := { fn := gr.fn, die := x.die, who := who, poison := f.2.2, va := f.1, lanes := lanes }
  let s := { s with parks := s.parks.set id pk }
  let pages := fs.foldl (fun (l : List (Nat × Nat × Bool)) v =>
    if l.any fun u => u.1 / 4096 = v.1 / 4096 then l else l ++ [v]) []
  (id, pages.foldl (fun s v => s.event gr.fn x.die (if v.2.2 then 0x06 else 0x05) x.core (if v.2.2 then 0 else v.2.1) (acc v.1)
    gr.fn v.1 (ctx + id % 2 ^ 32 * 2 ^ 16)) s)

/-- The same in the context of the block's grid, with one access type. -/
def parkFor (s : State) (who : Parker) (b acc : Nat) (fs : List (Nat × Nat × Bool)) (lanes : LaneMask) : Nat × State :=
  s.parkIn who b (s.gridOf (s.blkOf b).grid).ctx (fun _ => acc) fs lanes

/-- Park the issuing split. -/
def parkSplit (s : State) (acc : AccType) (fs : List (Nat × Nat × Bool)) (lanes : LaneMask) : Nat × State :=
  s.parkFor (.split s.focus.blk s.focus.grp s.focus.ent) s.focus.blk acc.code fs lanes

end State

/-- Are the earlier loads, atomics and stores of the group complete and performed (R397, R399)? -/
def fenceReady (s : State) : Bool :=
  !s.groupBusy s.focus.blk s.focus.grp [.load, .atomic] && s.grp.sb.isEmpty

/-! ### Issuing a word -/

/-- The issue of a word, before its body: it is folded into SIG (R160), the PC stands at the next word. -/
def startWord (w : Word) (s : State) : State :=
  s.modS fun x => { x with sig := crc32c x.sig w, pc := x.pc + 4, left := x.left - 1, status := .ready, lastIssue := s.clock, held := none,
                           last := some { State.frameOf x with word := w } }

/-- The split y as it stands where its word did not issue; s is the state before the word. -/
def heldBack (s : State) (y : Split) : Split :=
  { y with pc := s.spl.pc, sig := s.spl.sig, left := s.spl.left, lastIssue := s.spl.lastIssue, held := some s.epoch, last := s.spl.last }

/-- Has the split come to the end of a clause whose Yield bit is set (R105)? -/
def Split.gaveWay (x : Split) : Bool := x.left == 0 && x.yieldBit

/-- The end of a word: a long-latency word counts in its clause (R119), a replay is over (R227), a clause that ends with its
Yield bit set gives way (R105), and the group has issued. -/
def endWord (long : Bool) (s : State) : State :=
  if (s.blkOf s.focus.blk).live then
    let s := s.modS fun x => { x with ll := if long then x.ll + 1 else x.ll, replay := none }
    (s.modG fun g => { g with lastIssue := s.clock, overdue := false, yielded := (g.splits.get {} s.focus.ent).gaveWay }).tickCore s.focus.blk
  else s.tickCore s.focus.blk

/-- The group of the focused split has issued at the clock of the state s, where the word has not completed (R105). -/
def tookIssue (s t : State) : State :=
  if (t.blkOf s.focus.blk).live then
    ((t.modSplOf s.focus.blk s.focus.grp s.focus.ent fun x => { x with lastIssue := s.clock }).modGrp s.focus.blk s.focus.grp fun g =>
      { g with lastIssue := s.clock, overdue := false, yielded := false }).tickCore s.focus.blk
  else t.tickCore s.focus.blk

/-- The state after an instruction word, from what its body did. s is the state before the word. -/
def endOf (w : Word) (long : Bool) (s : State) : Eff → State
  | .ok t => endWord long t
  | .trap c i t => tookIssue s (t.takeTrap s.focus.blk s.focus.grp s.focus.ent c i { State.frameOf s.spl with word := w })
  | .bad c =>
    tookIssue s ((startWord w s).takeTrap s.focus.blk s.focus.grp s.focus.ent c (wordInfo w s.spl.pc) { State.frameOf s.spl with word := w })
  | .hold x => s.modS fun y => { y with status := .waiting x }
  | .stall t x =>
    t.modS fun y => { y with pc := s.spl.pc, sig := s.spl.sig, left := s.spl.left, status := .waiting x, last := s.spl.last }
  | .later t => t.modS fun y => heldBack s y
  | .park t id =>
    tookIssue s (t.modS fun y => { y with pc := s.spl.pc, sig := s.spl.sig, left := s.spl.left, status := .parked id, replay := none })

/-- Issue an instruction word of the focused split: a long-latency word whose flag counts 63 waits (R119). -/
def issue (i : Instr) (long : Bool) (body : State → Eff) (s : State) : Host.Outcome State Fault Refusal :=
  .next (if long && decide (s.spl.count s.spl.nextFlag ≥ 63) then s.modS (heldBack s)
         else endOf (encode i) long s (body (startWord (encode i) s)))

/-- A short-latency word that always completes. -/
def simple (i : Instr) (f : State → State) (s : State) : Host.Outcome State Fault Refusal :=
  issue i false (fun s => .ok (f s)) s

end Sys2Proof.Machine
end

