-- ==== Sys2Proof/Machine/Queues.lean ====
section
/-! DEFINITION. Queues as the firmware keeps them (spec/03_launching.md R66 to R73, R82, R469): the shadow table, control blocks,
errors, doorbells, stopping and restarting. A firmware cycle is a cycle of the module's clock. -/

namespace Sys2Proof.Machine
namespace State

/-- Is a shadow entry one that the firmware accepts (R69)? -/
def shadowOk (s : State) (q : Nat) : Bool :=
  let c := s.shadow q 0x11 1
  let z := s.shadow q 0x10 1
  decide (4 ≤ z ∧ z ≤ 20) && c % 4 != 3 && !bitOf c 3 && decide (c / 16 ≤ if c % 4 = 0 then 7 else 3) &&
    decide (s.shadow q 0x12 1 ≤ 63) && decide (s.shadow q 0x13 1 ≤ 15) && decide (s.shadow q 0x14 2 ≤ 63) &&
    s.shadow q 0x18 4 / 8 == 0 && s.shadow q 0x1C 36 == 0

/-- Take the fields of the shadow entry (R69). -/
def loadShadow (s : State) (q : Nat) : State :=
  s.modQueue q fun x => { x with
    ring := s.shadow q 0x00 8, cb := s.shadow q 0x08 8, z := s.shadow q 0x10 1, cls := s.shadow q 0x11 1, fn := s.shadow q 0x12 1,
    gangClass := s.shadow q 0x13 1, ctx := s.shadow q 0x14 2, vector := s.shadow q 0x16 2 }

/-- An entry that the firmware rejects: error 0x03 in the PF's event queue, and the queue is left unbound (R69). -/
def rejectShadow (s : State) (q : Nat) : State :=
  s.event 0 (q / 1024) 0x01 (q % 1024) 0x03 0 (s.shadow q 0x12 1) 0 0

/-- Compare the mirrors with the shadow (R70): false where the control block could not be read. -/
def checkMirrors (s : State) (q : Nat) : State × Bool :=
  match s.cbRead q 0x40 12 with
  | (s, none) => (s.cbFault q, false)
  | (s, some m) =>
    let x := s.queueOf q
    if m = x.ring % 2 ^ 64 + x.z * 2 ^ 64 + x.cls * 2 ^ 72 + x.fn * 2 ^ 80 + x.gangClass * 2 ^ 88 then (s, true)
    else
      let s := s.shadowBit q 1 true
      if x.mismatch then (s, true)
      else ((s.modQueue q fun x => { x with mismatch := true }).event 0 (q / 1024) 0x02 (q % 1024) 0 0 x.fn 0 0, true)

/-- A COPY has stopped on a fault: its queue stops with ErrorSlot naming it, and a restart issues it again (R87). -/
def stopCopy (s : State) (j : CopyJob) : State :=
  ((s.modQueue j.queue fun x => { x with redo := x.redo ++ [j] }).queueErrAt j.queue 0x09 0 j.slot j.depth j.inner).modQueue j.queue fun x =>
    { x with errCopy := true }

/-- Move past the packet at the head: ReadIndex in the ring, the position in the innermost buffer otherwise (R68, R73). False where the
control block could not be written (R469). -/
def skipSlots (s : State) (q n : Nat) : State × Bool :=
  let x := s.queueOf q
  match x.calls with
  | [] => (s.modQueue q fun x => { x with readIdx := x.readIdx + n }).cbTry q 0x08 8 (x.readIdx + n)
  | c :: t => (s.modQueue q fun x => { x with calls := (c.1, c.2.1, c.2.2 + n) :: t }, true)

/-- Close the CALL buffers that have been read to their ends: each end has the effect of a RETURN, which closes an open gang
(R86, R87). -/
def closeEnds (x : Queue) : Nat → Queue
  | 0 => x
  | n + 1 =>
    match x.calls with
    | c :: t => if c.2.2 ≥ c.2.1 then closeEnds { x with calls := t, gang := none } n else x
    | [] => x

/-- The slots of the packet at the head, from its length field (R67): these a skip passes too, at least one, and one where the packet cannot be
read (DESIGN CHOICE, log 104). -/
def headSlots (s : State) (q : Nat) : Nat :=
  let x := s.queueOf q
  let va := match x.calls with | c :: _ => c.1 + 64 * c.2.2 | [] => x.ring + 64 * (x.readIdx % 2 ^ x.z)
  match (s.devNum (q / 1024) x.fn x.ctx va 4).2 with
  | some h => max 1 ((bits h 31 16 + 3) / 4)
  | none => 1

/-- Read WriteIndex, with acquire at system scope, and judge it (R71): false where the control block could not be read. -/
def readWriteIndex (s : State) (q : Nat) : State × Bool :=
  match s.cbRead q 0x00 8 with
  | (s, none) => (s.cbFault q, false)
  | (s, some w) =>
    let x := s.queueOf q
    let s := s.modQueue q fun x => { x with writeIdx := w }
    if w < x.readIdx ∨ w - x.readIdx > 2 ^ x.z then
      (if x.stopped then s else s.queueErr q 0x08 0, true)
    else (s, true)

/-- Has a queue something to issue? -/
def hasPackets (x : Queue) : Bool := !x.calls.isEmpty || decide (x.writeIdx > x.readIdx)

/-- Is a queue bound to a lane? -/
def bound (s : State) (q : Nat) : Bool := (s.dieOf (q / 1024)).lanes.any fun l => l.2.queue == some (q % 1024)

/-- A queue with packets, not stopped and not bound, waits for a lane from now on (R74). -/
def putWaiting (s : State) (q : Nat) : State :=
  let x := s.queueOf q
  if x.enabled && !x.stopped && hasPackets x && !s.bound q then
    s.modQueue q fun x => { x with waiting := some (x.waiting.getD s.clock) }
  else s.modQueue q fun x => { x with waiting := none }

/-- A queue is enabled with the submissions that its control block still holds: those of device-side QSUBs past its ReadIndex and up to its
WriteIndex, whichever die's shadow table the queue was in before (R70, R88, R435). -/
def keepSubmits (s : State) (q r w : Nat) : State :=
  let x := s.queueOf q
  let same := fun (y : Queue) => y.fn == x.fn && y.ctx == x.ctx && y.cb == x.cb
  let l := (s.queues.filter fun e => same e.2).flatMap fun e => e.2.submits
  s.modQueue q fun y => { y with submits := l.filter fun v => decide (r < v.1 ∧ v.1 ≤ w) }

end State

/-- EVQCFG_WRITE (R65): an enable with a bad size or base does not enable the ring. -/
def execEvqcfgWrite (fn die base z vec : Nat) (en : Bool) (s : State) : Host.Outcome State Fault Refusal :=
  let good := en && decide (6 ≤ z ∧ z ≤ 16 ∧ base % 4096 = 0)
  .next (s.modEvq fn die fun q => { base := base, z := z, vec := vec, enabled := good, lost := q.lost,
                                    write := if good then 0 else q.write, read := if good then 0 else q.read,
                                    unwritten := if good then [] else q.unwritten })

/-- EVREAD_WRITE (R65). -/
def execEvreadWrite (fn die v : Nat) (s : State) : Host.Outcome State Fault Refusal :=
  .next (s.modEvq fn die fun q => if v > State.shown q ∨ v < q.read then q else { q with read := v })

/-- EVLOST_WRITE (R65). -/
def execEvlostWrite (fn die _v : Nat) (s : State) : Host.Outcome State Fault Refusal :=
  .next (s.modEvq fn die fun q => { q with lost := 0 })

end Sys2Proof.Machine
end

