-- ==== Sys2Proof/Machine/Firmware.lean ====
section
/-! DEFINITION. The command firmware of a die (spec/03_launching.md R74 to R82, R86): lanes, the packet at the head of each, the
issue steps, and the packets that only order or signal. A lane's packet types are numbered as R81 numbers them. -/

namespace Sys2Proof.Machine

/-- n bytes of a packet from an offset, as a number. -/
def pk (b : List Byte) (off n : Nat) : Nat := ofBytes ((b.drop off).take n)
def pkType (b : List Byte) : Nat := pk b 0 1
def pkFlag (b : List Byte) (i : Nat) : Bool := bitOf (pk b 0 2) i
def pkLen (b : List Byte) : Nat := pk b 2 2
/-- The slots of a packet (R67). -/
def pkSlots (b : List Byte) : Nat := (pkLen b + 3) / 4

/-- Is the length field what R81 requires of the type? -/
def lenOk (t n : Nat) : Bool :=
  if t = 0 then decide (4 ≤ n ∧ n ≤ 1024 ∧ n % 4 = 0) else if t = 1 then n == 8 else if t = 0xA then n == 16 else n == 4

/-- Is a type accepted by a queue's type (R66)? A TASK is allowed only in the compute fitting (R87). -/
def typeOk (exp : Bool) (q t : Nat) : Bool :=
  if q = 0 then t != 9 && (t != 0xA || !exp)
  else [0, 3, 4, 5, 6, 7, 0xB, 0xC, if q = 1 then 8 else 9].contains t

/-- Are all bytes of a packet from offset 4 zero but those of the ranges given? -/
def zeroBut (b : List Byte) (rs : List (Nat × Nat)) : Bool :=
  (List.range b.length).all fun i => decide (i < 4) || rs.any (fun r => decide (r.1 ≤ i ∧ i < r.1 + r.2)) || pk b i 1 == 0

/-- What stands at the head of a lane's issue stage. -/
inductive Head where
  | empty                      -- no packet, or not all of its slots yet
  | fault                      -- the packet cannot be read (R77)
  | short (b : List Byte)      -- it runs past the end of its CALL buffer (R86); its first slot
  | pkt (b : List Byte)
  deriving DecidableEq, Repr

namespace State

def gangOf (s : State) (k : Nat) : Gang := s.gangs.get {} k
def laneOf (s : State) (d l : Nat) : FwLane := (s.dieOf d).lanes.get {} l
def modLane (s : State) (d l : Nat) (f : FwLane → FwLane) : State :=
  s.modDie d fun x => { x with lanes := x.lanes.set l (f (x.lanes.get {} l)) }

/-- Read n slots of a ring from an index, wrapping (R67). -/
def ringSlots (s : State) (q i : Nat) : Nat → State × Option (List Byte)
  | 0 => (s, some [])
  | n + 1 =>
    let x := s.queueOf q
    match s.devRead (q / 1024) x.fn x.ctx (x.ring + 64 * (i % 2 ^ x.z)) 64 with
    | (s, none) => (s, none)
    | (s, some a) =>
      match s.ringSlots q (i + 1) n with
      | (s, some b) => (s, some (a ++ b))
      | (s, none) => (s, none)

/-- The first n slots at the head of a queue, in its ring or in its innermost CALL buffer. -/
def headSlotsOf (s : State) (q n : Nat) : State × Option (List Byte) :=
  let x := s.queueOf q
  match x.calls with
  | c :: _ => s.devRead (q / 1024) x.fn x.ctx (c.1 + 64 * c.2.2) (64 * n)
  | [] => s.ringSlots q x.readIdx n

/-- Read the packet at the head of a queue (R71, R76, R86). A packet whose type or length is wrong is taken as its first slot. -/
def readHead (s : State) (q : Nat) : State × Head :=
  let x := s.queueOf q
  let have_ := match x.calls with | c :: _ => c.2.1 - c.2.2 | [] => x.writeIdx - x.readIdx
  if x.stopped ∨ !x.enabled ∨ have_ = 0 then (s, .empty)
  else
    match s.headSlotsOf q 1 with
    | (s, none) => (s, .fault)
    | (s, some b) =>
      if pkType b > 0xC ∨ !lenOk (pkType b) (pkLen b) then (s, .pkt b)
      else if pkSlots b > have_ then (s, if x.calls.isEmpty then .empty else .short b)
      else
        match s.headSlotsOf q (pkSlots b) with
        | (s, none) => (s, .fault)
        | (s, some p) => (s, .pkt (p.take (16 * pkLen b)))

/-- The packet at the head of a queue. What lies in another module's memory is not there before the look-ahead stage has it (R77). -/
def queueHead (s : State) (q : Nat) : Head :=
  match (s.asAgent (.head q)).readHead q with
  | (t, h) => if t.farAsk.isSome then .empty else h

/-- The look-ahead stage asks for what it waits for of the packet at the head of a queue (R77, R371). -/
def askHead (s : State) (q : Nat) : State :=
  let t := ((s.asAgent (.head q)).readHead q).1
  match t.farAsk with
  | some a => s.askFor (.head q) (q / 1024) t.farPos a
  | none => s

/-- The head of a lane, and its type; what cannot be read counts as a NOP, whose issue reports it. -/
def laneHead (s : State) (d l : Nat) : Head :=
  match (s.laneOf d l).queue with
  | some i => s.queueHead (1024 * d + i)
  | none => .empty
def headType (h : Head) : Nat := match h with | .pkt b | .short b => if pkType b ≤ 0xC then pkType b else 0 | _ => 0

/-- A queue reference of a packet: enabled, of the same VF and context, on this module (R86). -/
def refOk (s : State) (q r : Nat) : Bool :=
  let x := s.queueOf q
  let y := s.queueOf r
  decide (r < 4096) && y.enabled && y.fn == x.fn && y.ctx == x.ctx

/-- The error of a packet that its fields alone decide (R81, R82, R86, R87), DISPATCH and TASK apart. Of several the first in the order of the
tests is reported (DESIGN CHOICE, log 75), and a count or an index outside its range is error 0x03 (DESIGN CHOICE, log 76). -/
def packetError (s : State) (q : Nat) (b : List Byte) : Option (Nat × Nat) :=
  let t := pkType b
  let reserved := fun (rs : List (Nat × Nat)) => !zeroBut b rs
  let flags := pk b 1 1 / 2
  let scopeBad := fun (v : Nat) => v != 3 && v != 4
  let refs := (List.range (pk b 4 1 % 8)).map fun i => pk b (8 + 2 * i) 2
  if t > 0xC then some (0x01, 0)
  else if !lenOk t (pkLen b) then some (0x02, 0)
  else if !typeOk s.isExpander ((s.queueOf q).cls % 4) t then some (0x05, 0)
  else if (if t = 1 then flags / 8 ≠ 0 else if t = 3 ∨ t = 8 then flags / 2 ≠ 0 else flags ≠ 0) then some (0x03, 0)
  else
    match t with
    | 3 =>
      if reserved [(4, 1), (8, 16)] ∨ pk b 4 1 % 16 > 2 ∨ scopeBad (pk b 4 1 / 16) then some (0x03, 0)
      else if pk b 8 8 % 8 ≠ 0 then some (0x0A, 0) else none
    | 4 =>
      if reserved [(4, 4), (8, 24)] ∨ pk b 4 1 > 5 then some (0x03, 0)
      else if pk b 8 8 % 8 ≠ 0 then some (0x0A, 0) else none
    | 5 =>
      if reserved [(4, 2), (8, 4)] ∨ pk b 4 2 ≥ 4096 then some (0x03, 0)
      else if !s.refOk q (pk b 4 2) then some (0x0B, 0) else none
    | 6 =>
      if reserved [(4, 4), (8, 8)] ∨ pk b 4 4 = 0 ∨ pk b 4 4 > 2 ^ 20 then some (0x03, 0)
      else if pk b 8 8 % 64 ≠ 0 then some (0x0A, 0)
      else if (s.queueOf q).calls.length ≥ 8 then some (0x06, 0) else none
    | 7 => if reserved [] then some (0x03, 0) else if (s.queueOf q).calls.isEmpty then some (0x07, 0) else none
    | 0xB =>
      if reserved [(4, 1), (8, 2 * (pk b 4 1 % 8))] ∨ pk b 4 1 = 0 ∨ pk b 4 1 > 4 ∨ refs.any (fun r => decide (r ≥ 4096)) then some (0x03, 0)
      else if refs.any fun r => !s.refOk q r then some (0x0B, 0) else none
    | 0xC => if reserved [(4, 4)] then some (0x03, 0) else none
    | 0 => if reserved [] then some (0x03, 0) else none
    | 2 =>
      if reserved [(4, 16)] ∨ pk b 4 4 = 0 ∨ pk b 8 2 < 2 ∨ pk b 8 2 > 1024 ∨ pk b 10 2 ≥ pk b 8 2 ∨ pk b 12 2 = 0 ∨ pk b 12 2 > 96 ∨
          pk b 14 2 ≥ 16 then some (0x03, 0)
      else none
    | 8 =>
      if reserved [(8, 32)] ∨ pk b 0x18 4 = 0 ∨ pk b 0x18 4 > 2 ^ 31 ∨ (!pkFlag b 9 ∧ pk b 0x1C 4 ≠ 1) then some (0x03, 0) else none
    | 9 =>
      if reserved [(4, 1), (8, 24)] ∨ pk b 4 1 > 3 then some (0x03, 0)
      else if pk b 4 1 > (s.queueOf q).cls / 16 then some (0x10, 0)
      else if pk b 8 8 % 256 ≠ 0 ∨ pk b 0x18 8 % 32 ≠ 0 then some (0x0A, 0) else none
    | 0xA => if reserved [(4, 2), (8, 12), (0x20, 0xE0)] then some (0x03, 0) else none
    | _ => none

/-- Packets of a queue that have issued and not completed (R79). -/
def issuedOf (s : State) (q : Nat) : List Nat := (s.pkts.filter fun e => 1024 * e.2.die + e.2.queue == q).map (·.1)

/-- The condition of a WAITSIG on a word (R86). -/
def waitCond (c : Nat) (x y : DWord) : Bool :=
  match c with
  | 0 => x == y
  | 1 => x != y
  | 2 => y.ule x
  | 3 => x.ult y
  | 4 => y.sle x
  | _ => x.slt y

/-- Read a WAITSIG's word: does it meet the condition now? none where the word cannot be read. -/
def readWait (s : State) (q : Nat) (b : List Byte) : State × Option Bool :=
  let x := s.queueOf q
  let m := BitVec.ofNat 64 (pk b 0x18 8)
  match s.devNum (q / 1024) x.fn x.ctx (pk b 8 8) 8 with
  | (s, w) => (s, w.map fun w => waitCond (pk b 4 1) (BitVec.ofNat 64 w &&& m) (BitVec.ofNat 64 (pk b 0x10 8) &&& m))

/-- The same for a packet at the head: a word in another module's memory does not meet it before the firmware has read it. -/
def waitNow (s : State) (q : Nat) (b : List Byte) : Option Bool :=
  match { s with farNow := some (.queue q), farAsk := none }.readWait q b with
  | (t, v) => if t.farAsk.isSome then some false else v

/-- JOIN's condition (R78). -/
def joinMet (s : State) (b : List Byte) : Bool :=
  decide (((s.queueOf (pk b 4 2)).marker - BitVec.ofNat 32 (pk b 8 4)).toNat < 2 ^ 31)

/-- Grids that a die's distributor holds and has not fully placed (R93). -/
def spansOn (s : State) (g : Grid) (d : Nat) : Nat :=
  let n := if gridSize g = 0 then 0 else (gridSize g + g.spanSize - 1) / g.spanSize
  match g.pin with
  | some p => if p = d then n else 0
  | none =>
    if s.isExpander then (if d = 0 then n else 0)
    else
      let dies := match g.gang with
        | some k => (List.range 4).filter fun i => (s.gangOf k).mask.getLsbD i
        | none => [0, 1, 2, 3]
      match dies.findIdx? (· == d) with
      | some i => (n + dies.length - 1 - i) / dies.length
      | none => 0
/-- Is a context saved, or is a save of it in progress, so that nothing of it is placed (R427)? -/
def ctxHeld (s : State) (fn ctx : Nat) : Bool := (s.ctxOf fn ctx).stat.getLsbD 2 || (s.ctxOf fn ctx).stat.getLsbD 3
/-- The grids of which a die has not placed every span of its own. -/
def partlyOn (s : State) (d : Nat) : List (Nat × Grid) :=
  s.grids.filter fun e => !e.2.failed && !e.2.retired &&
    (decide (e.2.next.get 0 d < s.spansOn e.2 d) || !(e.2.extra.get [] d).isEmpty)
/-- Is nothing of a context placed (R427): it is held, and no resume of it is outstanding? -/
def ctxShut (s : State) (fn ctx : Nat) : Bool := s.ctxHeld fn ctx && !(s.fnOf fn).ctxCmds.any fun c => c.op == 2 && c.ctx == ctx
/-- The grids of which a distributor has spans that it may place. -/
def unplacedOn (s : State) (d : Nat) : List Nat :=
  ((s.partlyOn d).filter fun e => !s.ctxShut e.2.fn e.2.ctx).map (·.1)
/-- Does the distributor of a die hold 256 grids that it has not fully placed (R75, R93)? -/
def fullOn (s : State) (d : Nat) : Bool := decide ((s.partlyOn d).length ≥ 256)

/-- The dies whose distributors a DISPATCH will be handed to (R90): those that receive a span of it. -/
def diesOfDispatch (s : State) (q : Nat) (b : List Byte) : List Nat :=
  let g : Grid :=
    { pin := if bitOf (pk b 4 1) 4 then some (bits (pk b 4 1) 6 5) else none, gang := if pkFlag b 9 then (s.queueOf q).gang else none,
      spanSize := if pk b 6 2 = 0 then 1 else pk b 6 2, dimX := pk b 0x20 4, dimY := pk b 0x24 4, dimZ := pk b 0x28 4 }
  (List.range 4).filter fun d => decide (0 < s.spansOn g d)

/-- Has a cellar unit room for another command (R342)? -/
def cellRoom (s : State) (d u : Nat) : Bool :=
  decide ((s.cells.filter fun e => e.2.die == d && e.2.parts.any fun p => p.1 == u && decide (p.2.1 < 2)).length < 16)

/-- Is a lane's packet issue-ready (R75, R80, R342)? One that will be refused waits for nothing but its barrier. -/
def laneReady (s : State) (d l : Nat) : Bool :=
  let ln := s.laneOf d l
  match ln.queue with
  | none => false
  | some i =>
    let q := 1024 * d + i
    match s.queueHead q with
    | .empty => false
    | .fault => decide (ln.ahead > 0)
    | .short b => decide (ln.ahead > 0) && (!pkFlag b 8 || (s.issuedOf q).isEmpty)
    | .pkt b =>
      decide (ln.ahead > 0) && (!pkFlag b 8 || (s.issuedOf q).isEmpty) &&
        ((s.packetError q b).isSome ||
          (match pkType b with
          | 4 => ln.waitMet || (match s.waitNow q b with | some v => v | none => true)
          | 5 => s.joinMet b
          | 0xB => (match ln.fenceSet with | some ids => ids.all fun p => !s.pkts.has p | none => false)
          | 1 => (s.diesOfDispatch q b).all fun k => !s.fullOn k
          | 9 => (List.range 64).all fun u => !bitOf (pk b 0x10 8) u || s.cellRoom d u
          | 2 => (match (s.queueOf q).pendGang with | some g => (s.gangOf g).committed | none => false)
          | _ => true))

/-- An SQFENCE that has come to the head takes note of what the queues it names have issued (R86). Every issue of a packet is preceded by
this, so that nothing that issues later is noted. At a lane that binds the queue anew the note is taken anew (DESIGN CHOICE, log 105). -/
def noteFences (s : State) (d : Nat) : State :=
  (List.range 32).foldl (fun s l =>
    match s.laneHead d l, (s.laneOf d l).fenceSet with
    | .pkt b, none =>
      if pkType b = 0xB then
        s.modLane d l fun x => { x with fenceSet := some ((List.range (pk b 4 1 % 8)).flatMap fun i => s.issuedOf (pk b (8 + 2 * i) 2)) }
      else s
    | _, _ => s) s
def noteAll (s : State) : State := (s.dies.map (·.1)).foldl (fun s d => s.noteFences d) s

/-- The order of R75. -/
def typeOrder : List Nat := [3, 4, 5, 7, 6, 2, 1, 0xA, 8, 9, 0xB, 0xC, 0]

/-- The type that the next issue step serves (R75): that of the ready lane passed over most, from 12 on, else the first in
order that a ready lane holds. -/
def servedType (s : State) (d : Nat) : Option Nat :=
  let rs := (List.range 32).filter fun l => s.laneReady d l
  let late := rs.filter fun l => decide ((s.laneOf d l).passed ≥ 12)
  match late with
  | l :: t =>
    some (headType (s.laneHead d (t.foldl (fun m k => if (s.laneOf d k).passed > (s.laneOf d m).passed then k else m) l)))
  | [] => typeOrder.find? fun t => rs.any fun l => headType (s.laneHead d l) == t

/-- Begin an issue step: the lanes it serves, and the counts of those it passes over; a lane that is not issue-ready in the step counts from
0 again (R75). -/
def beginStep (s : State) (d : Nat) : State :=
  match s.servedType d with
  | none => s
  | some t =>
    let rs := (List.range 32).filter fun l => s.laneReady d l
    let mine := rs.filter fun l => headType (s.laneHead d l) == t
    let s := (List.range 32).foldl (fun s l =>
      s.modLane d l fun x => { x with passed := if rs.contains l && !mine.contains l then x.passed + 1 else 0 }) s
    s.modDie d fun x => { x with fwStep := mine }

/-- The turn of a lane in the current issue step, in ascending lane order: false where the firmware does not issue a packet of
this type from it now. -/
def fwTurn (s : State) (d l t : Nat) : State × Bool :=
  let s := s.noteAll
  let u := s.modDie d fun x => { x with fwStep := x.fwStep.filter fun k => s.laneReady d k }
  let u := if (u.dieOf d).fwStep.isEmpty then u.beginStep d else u
  match (u.dieOf d).fwStep with
  | k :: rest =>
    if k = l ∧ headType (u.laneHead d l) = t then (u.modDie d fun x => { x with fwStep := rest }, true) else (s, false)
  | [] => (s, false)

/-- Release the reservations whose queues have closed them and whose member DISPATCHes have all completed; their GANG packets then
complete (R79, R101). While its queue may still issue a member, a reservation is kept (DESIGN CHOICE, log 77). -/
def sweepGangs (s : State) : State :=
  let late := s.gangs.filter fun e => s.pkts.has e.1 && (s.queueOf e.2.queue).gang != some e.1 &&
    !s.grids.any fun g => g.2.gang == some e.1 && (!g.2.retired || s.pkts.has g.2.packet)
  late.foldl (fun s e => { s with gangs := s.gangs.del e.1, pkts := s.pkts.del e.1 }) s

/-- A packet has issued: the queue moves past it and the lane's next packet comes to the head (R68, R74). -/
def passPacket (s : State) (d l q n : Nat) : State :=
  let s := ((s.skipSlots q n).1).farDrop (.head q)
  let s := (s.modQueue q fun x => closeEnds x 8).sweepGangs
  s.modLane d l fun x => { x with issued := x.issued + 1, blockedSince := s.clock, fenceSet := none, waitMet := false, ahead := x.ahead - 1 }

/-- What the firmware does for a queue may reach other modules (R371). -/
def atFirmware (s : State) (q : Nat) (f : State → State) : State := s.farRun (.queue q) (q / 1024) f

/-- Issue a packet of a type from a lane: k performs it, given the queue and the packet. -/
def fwIssue (s : State) (d l t : Nat) (k : State → Nat → List Byte → State) : State :=
  match (s.laneOf d l).queue with
  | none => s
  | some i =>
    let q := 1024 * d + i
    s.atFirmware q fun s =>
      match s.fwTurn d l t with
      | (s, false) => s
      | (s, true) =>
        match s.queueHead q with
        | .empty => s
        | .fault => s.queueErr q 0x09 0
        | .short _ => s.queueErr q 0x02 0
        | .pkt b =>
          match s.packetError q b with
          | some e => s.queueErr q e.1 e.2
          | none => k s q b

/-- A read-modify-write of 8 bytes by a controller of a die, as one atomic (R86): none where it cannot be made; false where it waits at its
home, which then tells who (R344). -/
def devAtomic (s : State) (die fn ctx va : Nat) (o : AtomOp) (v : Nat) (who : Asker) : State × Option Bool :=
  match s.translate die none fn ctx va .write with
  | (s, .error _) => (s, none)
  | (s, .ok pa) =>
    let home := fun (pa : Nat) =>
      if s.heldPage pa then (s.holdReq { pa := pa, op := .atomic o 8 v v, who := who, fn := fn }, some false)
      else (((s.claim pa 8).serve fn pa (.atomic o 8 v v)).1, some true)
    match s.reachPa fn pa 8 true with
    | .ok pa => home pa
    | .wait => (s.ask .wait, none)
    | .remote pa =>
      match s.farDo fn pa (.atomic o 8 v v) with
      | (s, some (0, _)) => (s, some true)
      | (s, _) => (s, none)
    | _ => (s, none)

/-! ### Restarting a queue, doorbells and enables (R69 to R73, R469) -/

/-- The job of a COPY packet at an address (R87). -/
def copyJob (s : State) (q at_ : Nat) (b : List Byte) : CopyJob :=
  let x := s.queueOf q
  let dim2 := pkFlag b 9
  { at_ := at_, pkt := 0, queue := q, slot := errorSlot x, depth := x.calls.length, inner := innerSlot x, fn := x.fn, ctx := x.ctx,
    src := pk b 8 8, dst := pk b 0x10 8, bytes := pk b 0x18 4, rows := if dim2 then pk b 0x1C 4 else 1,
    spitch := signed 32 (pk b 0x20 4), dpitch := signed 32 (pk b 0x24 4) }
/-- The job of a packet that a restarted queue finds at the place of a COPY, where it is one. -/
def copyAgain (s : State) (q : Nat) (b : List Byte) : Option CopyJob :=
  if pkType b = 8 ∧ (s.packetError q b).isNone then some (s.copyJob q 0 b) else none

/-- A COPY that stopped on a fault is issued again from its start (R87): its packet is read again at its place (R73). Where that cannot be
read the queue stops again; another packet that stands there now is issued next, as one of a buffer that holds nothing else (DESIGN CHOICE, log
73). -/
def reissue (s : State) (q : Nat) (copyOf : List Byte → Option CopyJob) (j : CopyJob) : State :=
  let x := s.queueOf q
  match s.devRead (q / 1024) x.fn x.ctx j.at_ 64 with
  | (s, none) => s.stopCopy j
  | (s, some b) =>
    match copyOf b with
    | some k =>
      let (id, s) := s.newId
      let p : Pkt := { die := q / 1024, queue := q % 1024, slot := j.slot, kind := 8 }
      let k := { k with pkt := id, at_ := j.at_, queue := j.queue, slot := j.slot, depth := j.depth, inner := j.inner, fn := j.fn, ctx := j.ctx }
      { s with pkts := s.pkts.set id p }.modDie (q / 1024) fun d => { d with copies := d.copies.set id k }
    | none =>
      s.modQueue q fun x => { x with calls := (j.at_, if lenOk (pkType b) (pkLen b) then pkSlots b else 1, 0) :: x.calls,
                                     again := some (x.calls.length + 1, j.slot) }

/-- Restart a queue (R73): what stopped it is issued again, or passed with Control[2]: the packet that ErrorSlot names, the one at the head or the
COPY that stopped last. False where the control block could not be written. -/
def restart (s : State) (q : Nat) (skip : Bool) : State × Bool :=
  let x := s.queueOf q
  match if skip && x.err && !x.errCopy then s.skipSlots q (s.headSlots q) else (s, true) with
  | (s, false) => (s, false)
  | (s, true) =>
    let s := s.modQueue q fun x => closeEnds { x with err := false, stopped := false, cmdStopped := false, redo := [], errCopy := false } 8
    ((if skip && x.errCopy then x.redo.dropLast else x.redo).foldl (fun s j => s.reissue q (s.copyAgain q) j) s, true)

/-- Act on Control (R73): a stop request at any read of it; a resume only at a doorbell. With both set the stop stands (log 14).
The bits acted on are cleared, and at a resume Status[1:0] and ShadowStatus[2] (log 42). A failed or stopped context's queues do not resume
(R417, R427). False where the control block could not be read or written (R469). -/
def actControl (s : State) (q : Nat) (bell : Bool) : State × Bool :=
  match s.cbRead q 0x20 4 with
  | (s, none) => (s.cbFault q, false)
  | (s, some c) =>
    let x := s.queueOf q
    let clear := fun (s : State) (m : Nat) => s.cbTry q 0x20 4 (c - (BitVec.ofNat 32 c &&& BitVec.ofNat 32 m).toNat)
    if bitOf c 0 then
      match clear s (if bell then 7 else 1) with
      | (s, false) => (s, false)
      | (s, true) =>
        let s := s.modQueue q fun x => { x with stopped := true }
        s.cbTry q 0x10 4 (s.statusWord q)
    else if bell && bitOf c 1 && x.stopped && !(s.ctxOf x.fn x.ctx).stat.getLsbD 0 && !(s.ctxOf x.fn x.ctx).stat.getLsbD 1 then
      match clear s 6 with
      | (s, false) => (s, false)
      | (s, true) =>
        match s.restart q (bitOf c 2) with
        | (s, false) => (s, false)
        | (s, true) =>
          if (s.queueOf q).err then (s, true)
          else
            match s.cbTry q 0x10 4 (s.statusWord q) with
            | (s, false) => (s, false)
            | (s, true) => (s.shadowBit q 2 false, true)
    else (s, true)

/-- Read a control block: the mirrors, Control, WriteIndex; the first that cannot be read stops the queue (R70, R71, R73, R469). -/
def readControlBlock (s : State) (q : Nat) (bell : Bool) : State × Bool :=
  match s.checkMirrors q with
  | (s, false) => (s, false)
  | (s, true) =>
    match s.actControl q bell with
    | (s, false) => (s, false)
    | (s, true) => s.readWriteIndex q

/-- The firmware serves a doorbell of an enabled queue (R70, R71, R73). -/
def serveDoorbell (s : State) (q : Nat) : State := (s.readControlBlock q true).1.putWaiting q

/-- Has the firmware core of a die been released (R444, step 5)? -/
def booted (s : State) (d : Nat) : Bool := (s.dieOf d).bootstat.getLsbD 31

/-- The PF sets the enable bit of a queue's shadow entry (R69, R70, R78); before the die has booted no firmware serves it (R444). ShadowStatus[2] is cleared, and a queue with packets waits for a
lane without a doorbell (log 42, 74). -/
def enableQueue (s : State) (q : Nat) : State :=
  if !s.booted (q / 1024) then s.shadowBit q 0 true
  else
  let s := (s.shadowBit q 0 true).shadowBit q 2 false
  if !s.shadowOk q then s.rejectShadow q
  else
    let s := (s.modQueue q fun x => { ({} : Queue) with submits := x.submits }).loadShadow q
    let x := s.queueOf q
    let s := s.modQueue q fun x => { x with enabled := true, mismatch := bitOf (s.shadow q 0x18 4) 1 }
    let start := fun (s : State) =>
      match s.cbRead q 0x08 8 with
      | (s, some r) =>
        match (s.modQueue q fun x => { x with readIdx := r }).readWriteIndex q with
        | (s, _) => (s.keepSubmits q r (s.queueOf q).writeIdx).putWaiting q
      | (s, none) => s.cbFault q
    let mirrors := [(0x40, 8, x.ring), (0x48, 4, x.z + x.cls * 2 ^ 8 + x.fn * 2 ^ 16 + x.gangClass * 2 ^ 24), (0x24, 4, 0)]
    match mirrors.foldl (fun (a : State × Bool) m => if a.2 then a.1.cbTry q m.1 m.2.1 m.2.2 else a) (s, true) with
    | (s, true) => start s
    | (s, false) => s

/-! ### Lanes (R74) -/

/-- The type of queue that a lane prefers. -/
def preferred (l : Nat) : Nat := if l < 24 then 0 else if l < 28 then 1 else 2

/-- The waiting queue of a die that a free lane takes, among those that satisfy p. -/
def bestWaiting (s : State) (d : Nat) (p : Queue → Bool) : Option Nat :=
  let cand := s.queues.filter fun e => e.1 / 1024 == d && e.2.enabled && e.2.waiting.isSome && !s.bound e.1 && p e.2
  match cand with
  | [] => none
  | c :: t =>
    some (t.foldl (fun (m : Nat × Queue) e =>
      if e.2.cls / 16 > m.2.cls / 16 ∨ (e.2.cls / 16 = m.2.cls / 16 ∧ e.2.waiting.getD 0 < m.2.waiting.getD 0) then e else m) c).1

/-- A free lane binds a waiting queue (R69, R70, R73, R74); none before the die has booted (R444). -/
def bindLane (s : State) (d l : Nat) : State :=
  if (s.laneOf d l).queue.isSome || !s.booted d then s
  else
    let pick := match s.bestWaiting d fun x => x.cls % 4 == preferred l with
      | some q => some q
      | none => s.bestWaiting d fun _ => true
    match pick with
    | none => s
    | some q =>
      if !s.shadowOk q then (s.modQueue q fun x => { x with waiting := none }).rejectShadow q
      else
        let s := (s.loadShadow q).modQueue q fun x => { x with waiting := none }
        let s := s.modLane d l fun _ => { queue := some (q % 1024), blockedSince := s.clock }
        match s.readControlBlock q false with
        | (s, true) => s.putStatus q
        | (s, false) => s

/-- A lane gives its queue up: when the queue is empty, stopped or disabled, or when another queue that the lane prefers waits and
the lane has issued 32 packets or its head has been blocked for 4096 cycles. WriteIndex is read again first (R71, R74). -/
def releaseLane (s : State) (d l : Nat) : State :=
  match (s.laneOf d l).queue with
  | none => s
  | some i =>
    let q := 1024 * d + i
    let t := if (s.queueOf q).enabled then (s.readWriteIndex q).1 else s
    let x := t.queueOf q
    let ln := t.laneOf d l
    let idle := !x.enabled || x.stopped || !hasPackets x
    let turn := (t.bestWaiting d fun y => y.cls % 4 == preferred l).isSome && (decide (ln.issued ≥ 32) || decide (t.clock ≥ ln.blockedSince + 4096))
    if idle || turn then
      let t := t.modLane d l fun _ => {}
      (t.putStatus q).putWaiting q
    else t

end State

/-- DOORBELL (R71, R444). -/
def execDoorbell (fn die q : Nat) (s : State) : Host.Outcome State Fault Refusal :=
  let k := 1024 * (die % 4) + q % 1024
  .next (if s.booted (die % 4) && (s.queueOf k).enabled && (s.queueOf k).fn == fn then s.atFirmware k fun s => s.serveDoorbell k else s)

/-- QUEUE_ENABLE (R70). -/
def execQueueEnable (die q : Nat) (s : State) : Host.Outcome State Fault Refusal :=
  .next (s.atFirmware (1024 * (die % 4) + q % 1024) fun s => s.enableQueue (1024 * (die % 4) + q % 1024))

/-- QUEUE_CONTROL_POLL (R73): of a queue that is bound to a lane. -/
def execQueueControlPoll (die q : Nat) (s : State) : Host.Outcome State Fault Refusal :=
  let k := 1024 * (die % 4) + q % 1024
  .next (if s.bound k then s.atFirmware k fun s => (s.actControl k false).1 else s)

/-- LANE_BIND and LANE_RELEASE (R74). A lane that comes to bind or release a queue in another module's memory waits for its answers. -/
def execLaneBind (d l : Nat) (s : State) : Host.Outcome State Fault Refusal :=
  .next (s.atFirmware (1024 * (d % 4) + 1024 - 1) fun s => s.bindLane (d % 4) (l % 32))
def execLaneRelease (d l : Nat) (s : State) : Host.Outcome State Fault Refusal :=
  .next (s.atFirmware (1024 * (d % 4) + (((s.laneOf (d % 4) (l % 32)).queue).getD 0)) fun s => s.releaseLane (d % 4) (l % 32))

/-- LOOKAHEAD_READ (R77): at most 16 packets ahead. What it prefetches changes no data; a packet in another module's memory is asked for. -/
def execLookaheadRead (d l : Nat) (s : State) : Host.Outcome State Fault Refusal :=
  .next (match (s.laneOf d l).queue with
    | none => s
    | some i =>
      let s := s.askHead (1024 * d + i)
      if (s.laneOf d l).ahead < 16 then s.modLane d l fun x => { x with ahead := x.ahead + 1 } else s)

/-! ### Packets (R86) -/

/-- NOP. -/
def execNopPacket (d l : Nat) (s : State) : Host.Outcome State Fault Refusal :=
  .next (s.fwIssue d l 0 fun s q b => s.passPacket d l q (pkSlots b))

/-- SIGNAL: one atomic read-modify-write, then the vector. One that waits on a held page completes when it has been performed there. -/
def execSignalPacket (d l : Nat) (s : State) : Host.Outcome State Fault Refusal :=
  .next (s.fwIssue d l 3 fun s q b =>
    let x := s.queueOf q
    let o : AtomOp := match pk b 4 1 % 16 with
      | 0 => .exch
      | 1 => .add
      | _ => .or
    let vec := if pkFlag b 9 then some x.vector else none
    let id := s.nextId
    match s.devAtomic d x.fn x.ctx (pk b 8 8) o (pk b 0x10 8) (.signal id x.fn vec) with
    | (s, none) => s.queueErr q 0x09 0
    | (s, some true) => (match vec with | some v => s.raise x.fn v | none => s).passPacket d l q 1
    | (s, some false) =>
      let p : Pkt := { die := d, queue := q % 1024, slot := State.errorSlot x, kind := 3 }
      { s with nextId := id + 1, pkts := s.pkts.set id p }.passPacket d l q 1)

/-- WAITSIG: issues once its word has met its condition. -/
def execWaitsigPacket (d l : Nat) (s : State) : Host.Outcome State Fault Refusal :=
  .next (s.fwIssue d l 4 fun s q b =>
    if (s.laneOf d l).waitMet then s.passPacket d l q 1
    else
      match s.readWait q b with
      | (s, none) => s.queueErr q 0x09 0
      | (s, some _) => s.passPacket d l q 1)

/-- WAITSIG_POLL: the firmware reads the word of a held WAITSIG, once its barrier holds it no more (R80). -/
def execWaitsigPoll (d l : Nat) (s : State) : Host.Outcome State Fault Refusal :=
  .next (match s.laneHead d l, (s.laneOf d l).queue with
    | .pkt b, some i =>
      if pkType b = 4 ∧ (s.packetError (1024 * d + i) b).isNone ∧ (!pkFlag b 8 ∨ (s.issuedOf (1024 * d + i)).isEmpty) then
        s.atFirmware (1024 * d + i) fun s =>
          match s.readWait (1024 * d + i) b with
          | (s, some true) => s.modLane d l fun x => { x with waitMet := true }
          | (s, _) => s
      else s
    | _, _ => s)

/-- WAITSIG_TIMEOUT: error 0x0D, and a wait-timeout record. The time counts from when the packet came to the head, or from when its queue was
bound to the lane if that was later, also while a barrier holds it (DESIGN CHOICE, log 78). -/
def execWaitsigTimeout (d l : Nat) (s : State) : Host.Outcome State Fault Refusal :=
  .next (match s.laneHead d l, (s.laneOf d l).queue with
    | .pkt b, some i =>
      let q := 1024 * d + i
      let t := pk b 5 3
      if pkType b = 4 ∧ (s.packetError q b).isNone ∧ t ≠ 0 ∧ !s.laneReady d l ∧ s.clock ≥ (s.laneOf d l).blockedSince + 1024 * t then
        let x := s.queueOf q
        (s.queueErr q 0x0D 0).event x.fn d 0x03 i 0x0D 0 x.fn (State.errorSlot x) 0
      else s
    | _, _ => s)

/-- JOIN: issues once its condition holds. -/
def execJoinPacket (d l : Nat) (s : State) : Host.Outcome State Fault Refusal :=
  .next (s.fwIssue d l 5 fun s q _ => s.passPacket d l q 1)

/-- CALL: the queue's packets continue from the buffer. -/
def execCallPacket (d l : Nat) (s : State) : Host.Outcome State Fault Refusal :=
  .next (s.fwIssue d l 6 fun s q b =>
    let s := ((s.skipSlots q 1).1).farDrop (.head q)
    let s := s.modQueue q fun x => { x with calls := (pk b 8 8, pk b 4 4, 0) :: x.calls }
    s.modLane d l fun x => { x with issued := x.issued + 1, blockedSince := s.clock, fenceSet := none, waitMet := false, ahead := x.ahead - 1 })

/-- RETURN: closes the innermost open CALL, and an open gang (R87). -/
def execReturnPacket (d l : Nat) (s : State) : Host.Outcome State Fault Refusal :=
  .next (s.fwIssue d l 7 fun s q _ =>
    let s := s.modQueue q fun x => { x with calls := x.calls.drop 1, gang := none }
    s.passPacket d l q 0)

/-- SQFENCE: issues once the packets noted have completed. -/
def execSqfencePacket (d l : Nat) (s : State) : Host.Outcome State Fault Refusal :=
  .next (s.fwIssue d l 0xB fun s q _ => s.passPacket d l q 1)

/-- PHASE: writes the marker register and its mirror. -/
def execPhasePacket (d l : Nat) (s : State) : Host.Outcome State Fault Refusal :=
  .next (s.fwIssue d l 0xC fun s q b =>
    let s := (s.modQueue q fun x => { x with marker := BitVec.ofNat 32 (pk b 4 4) }).cbPut q 0x24 4 (pk b 4 4)
    s.passPacket d l q 1)

end Sys2Proof.Machine
end

