-- ==== Sys2Proof/Machine/Restart.lean ====
section
/-! DEFINITION. Restart records (spec/16_interruption.md R428 to R432): when a record is complete, writing it, rolling a block
back. -/

namespace Sys2Proof.Machine

/-- The restart-live scalar registers of a role slot (R23). -/
def liveRegs (mask : Word) : List Nat := (List.range 32).filter fun i => mask.getLsbD i

/-- half of R37, and H: one copy padded to 64 bytes. -/
def Grid.half (g : Grid) : Nat :=
  let roles := (g.roles.zip g.descs).foldl (fun n r =>
    if r.1.2.1 = 0 then n else n + r.1.2.1 * 4 * popc 32 r.2.2.1.toNat) 64
  roles + 4 * popc 8 (g.msMask.toNat % 256) + 16 * popc 16 (g.msMask.toNat / 256 % 65536)
def Grid.copyBytes (g : Grid) : Nat := 64 * ((g.half + 63) / 64)

namespace State

/-- The words of a record from offset 0x40 (R428): the committed registers of each group, then of the stream. -/
def recordBody (s : State) (b : Nat) : List Word :=
  let x := s.blkOf b
  let gr := s.gridOf x.grid
  let regs := x.groups.flatMap fun g =>
    let mask := ((gr.descs[g.2.slot]?).getD (0, 0, 0)).2.1
    let v : Cells 32 := match g.2.commit with | some c => c.2 | none => []
    (liveRegs mask).map fun r => v.get r
  let k : Cells 32 := match x.ms.commit with | some c => c.2.1 | none => []
  let d : Cells 128 := match x.ms.commit with | some c => c.2.2 | none => []
  regs ++
    ((List.range 8).filter fun i => gr.msMask.getLsbD i).map (fun i => k.get i) ++
    ((List.range 16).filter fun i => gr.msMask.getLsbD (i + 8)).flatMap fun i =>
      (List.range 4).map fun j => ((d.get i) >>> (32 * j)).truncate 32

/-- Does every agent of the block hold a commit of number n (R429)? An agent that has ended holds one of every number. -/
def allHold (s : State) (b n : Nat) : Bool :=
  let x := s.blkOf b
  (x.groups.all fun g => g.2.ended || (match g.2.commit with | some c => c.1 == n | none => false)) &&
    (!x.hasMs || x.ms.ended || (match x.ms.commit with | some c => c.1 == n | none => false))

/-- A commit of number n may complete a record: its write begins (R429). The values are captured. -/
def commitDone (s : State) (b n : Nat) : State :=
  if s.allHold b n then s.modBlk b fun x => { x with writing := x.writing ++ [(n, s.recordBody b)] } else s

/-- The virtual address of copy c of a block's region (R428). -/
def copyAt (s : State) (b c : Nat) : Nat :=
  let x := s.blkOf b
  let gr := s.gridOf x.grid
  gr.restartRec + x.lin * gr.restartBytes + c * gr.copyBytes

/-- The header and body of a copy (R428). Rollbacks at +0x08 is not folded into Check. -/
def copyWords (h n g : Nat) (body : List Word) : List Word :=
  let tail := List.replicate 12 0 ++ body
  let tail := tail ++ List.replicate (h / 4 - 4 - tail.length) 0
  let chk := (BitVec.ofNat 32 n :: BitVec.ofNat 32 g :: tail).foldl crc32c 0xFFFFFFFF
  BitVec.ofNat 32 n :: BitVec.ofNat 32 g :: 0 :: chk :: tail

/-- The address of the first byte in a poisoned sector, of the physical pieces that stand at an address. -/
def firstPoison (s : State) : Nat → List (Nat × Nat) → Nat
  | va, [] => va
  | va, (pa, m) :: t =>
    match (List.range m).find? fun i => s.poisoned (pa + i) 1 with
    | some i => va + i
    | none => s.firstPoison (va + m) t

/-- Write the oldest record that has become complete and is not yet written: records are written in generation order; a write that cannot be made is abandoned with a record of kind 0x0F (R429). -/
def writeRecord (s : State) (b : Nat) : State :=
  let x := s.blkOf b
  let gr := s.gridOf x.grid
  match x.writing with
  | (n, body) :: rest =>
    let s := s.modBlk b fun y => { y with writing := rest }
    let g := x.recGen + 1
    let ws := copyWords gr.copyBytes n g body
    let a := s.copyAt b (g % 2)
    match s.translateRun x.die gr.fn gr.ctx .write (gr.copyBytes / 4096 + 2) a gr.copyBytes with
    | (s, .error (va, _)) => s.event gr.fn x.die 0x0F x.core 0 1 gr.fn va (gr.ctx + x.grid % 2 ^ 32 * 2 ^ 16)
    | (s, .ok l) =>
      match s.devWriteClean x.die gr.fn gr.ctx a (ws.flatMap fun w => toBytes 4 w.toNat) with
      | (s, false) => s.event gr.fn x.die 0x0F x.core 0 2 gr.fn (s.firstPoison a l) (gr.ctx + x.grid % 2 ^ 32 * 2 ^ 16)
      | (s, true) => s.modBlk b fun y => { y with recN := n, recGen := g, rollbacks := 0, recHas := true }
  | [] => s

/-- Write every record that waits to be written. -/
def writeRecords (s : State) (b : Nat) : State :=
  (s.blkOf b).writing.foldl (fun s _ => s.writeRecord b) s

/-- Perform every store buffer entry of a block (R431). -/
def drainAll (s : State) (b : Nat) : State := ((s.blkOf b).groups.map (·.1)).foldl (fun s g => s.flushSb b g) s

/-- RollBack (R431) with cause k; info is TRAPINFO as raised. -/
def rollBack (s : State) (b k : Nat) (info : DWord) : State :=
  let s := (s.drainAll b).writeRecords b
  let x := s.blkOf b
  let gr := s.gridOf x.grid
  if (k == 2 || k == 3) && x.rollbacks == 3 then s.failBlock b (if k = 2 then 0x0C else 0x07) info (if k = 3 then info.toNat % 16 else 0)
  else
    let s :=
      if k == 2 || k == 3 then
        let s := s.modBlk b fun y => { y with rollbacks := y.rollbacks + 1 }
        if x.recHas then (s.devWrite x.die gr.fn gr.ctx (s.copyAt b (x.recGen % 2) + 8) (toBytes 4 (x.rollbacks + 1))).1 else s
      else s
    let r := (s.blkOf b).rollbacks
    let s := (s.discard b .rolledBack).modBlk b fun y =>
      { y with cause := k, resumeOn := if k ≤ 3 then 1 <<< y.die else 0 }
    s.event gr.fn x.die 0x0E x.core k r gr.fn (x.lin + x.recN % 2 ^ 16 * 2 ^ 32) (gr.ctx + x.grid % 2 ^ 32 * 2 ^ 16)

end State

end Sys2Proof.Machine
end

