-- ==== Sys2Proof/Machine/Splits.lean ====
section
/-! DEFINITION. Splits and control flow (spec/06_control_and_splits.md R147 to R167): division, deferral, merging, the return
stack, clause headers and the control instructions. -/

namespace Sys2Proof.Machine

namespace State

/-! ### The return stack (R158) -/

/-- The scratch offset of spilled entry i of a split entry e. It is below 0 when the scratch of the block is too small. -/
def spillAt (s : State) (e i : Nat) : Int :=
  (s.scrBytes s.focus.blk : Int) - 512 * (s.grp.gid + 1) + 128 * e + 4 * i

/-- Does a spill location lie outside the block's scratch allocation? -/
def spillBad (s : State) (e i : Nat) : Bool :=
  decide (s.spillAt e i < 0) || decide (s.spillAt e i + 4 > s.scrBytes s.focus.blk)

/-- TRAPINFO of the ScratchRange of a spill (R158): the first failing offset, and bit 63. -/
def spillInfo (s : State) (e i : Nat) : DWord := BitVec.ofNat 64 (wrap 32 (s.spillAt e i) + 2 ^ 63)

/-- Return stack entry i of the split of entry e at call depth n: held in the split table when i ≥ n − 16, else spilled. -/
def stackEntry (s : State) (e n i : Nat) : Word :=
  if i + 16 ≥ n then (s.splOf s.focus.blk s.focus.grp e).stack.get i
  else BitVec.ofNat 32 (s.scrNum s.focus.blk (s.spillAt e i).toNat 4)

/-- The whole return stack of an entry, index 0 first. -/
def stackOf (s : State) (e n : Nat) : List Word := (List.range n).map (s.stackEntry e n)

/-- Copy the spilled entries below index n − 16 of one entry to the spill locations of another (R158). -/
def copySpills (s : State) (src dst n depth : Nat) : State :=
  (List.range (n - 16)).foldl (fun s i =>
    s.writeScr s.focus.blk (s.spillAt dst i).toNat (toBytes 4 (s.stackEntry src depth i).toNat)) s

/-- The first spill location of an entry that a copy of n entries would miss, if any. -/
def copyBad (s : State) (dst n : Nat) : Option Nat := (List.range (n - 16)).find? fun i => s.spillBad dst i

/-- Write entries n − 16 to n − 1 of a return stack, read as src holds them at depth `depth`, into a split table. -/
def fillHeld (s : State) (src n depth : Nat) : Cells 32 :=
  (List.range n).foldl (fun (c : Cells 32) i => if i + 16 ≥ n then c.set i (s.stackEntry src depth i) else c.set i 0)
    []

end State

/-! ### Division (R151, R152) -/

/-- The lanes that a BRX takes. -/
def takenLanes (s : State) : LaneMask :=
  let m := s.spl.exec &&& ~~~s.grp.dead
  maskOf fun l => m.getLsbD l && s.guardAt l

/-- The deferral record of lanes T at a target. -/
def recordOf (x : Split) (t : LaneMask) (pc : Nat) : Deferral :=
  { live := t, exec := t, pc := pc, depth := x.depth, mode := x.mode, sig := x.sig, holds := x.holds }

/-- BRX (R151): the PC stands at the next word, and SIG includes the BRX. -/
def divide (tgt : Nat) (s : State) : Eff :=
  let x := s.spl
  let t := takenLanes s
  let n := x.live &&& ~~~t
  let rest := fun (y : Split) => { y with live := n, exec := y.exec &&& ~~~t, execCopy := y.exec &&& ~~~t }
  if t = 0 then .ok s
  else if n = 0 then .ok (s.modS fun y => { y with pc := tgt })
  else
    match s.grp.emptyEntry with
    | some e =>
      match s.copyBad e x.depth with
      | some i => .trap 0x04 (s.spillInfo e i) s
      | none =>
        let s := s.copySpills s.focus.ent e x.depth x.depth
        let s := s.modSplOf s.focus.blk s.focus.grp e fun _ =>
          { x with live := t, exec := t, execCopy := t, pc := tgt, left := 0, ll := 0, status := .ready, defs := [],
                   frame := none, replay := none, yieldBit := false, held := none, atH := none }
        .ok (s.modS rest)
    | none =>
      if x.defs.length ≥ 8 then .bad 0x01
      else .ok (s.modS fun y => rest { y with defs := recordOf y t tgt :: y.defs })

/-! ### Headers: deferral installs and merging (R153, R156, R157) -/

/-- Step 1 of R153: the top record is absorbed at a merge point that it matches. -/
def absorb (x : Split) (merge : Bool) : Split :=
  match x.defs with
  | d :: t =>
    if merge && d.pc == x.pc && d.depth == x.depth && d.mode == x.mode then
      { x with live := x.live ||| d.live, exec := x.exec ||| d.exec, execCopy := x.exec ||| d.exec,
               holds := joinHolds x.holds d.holds, defs := t }
    else x
  | [] => x

/-- The split that a deferral record becomes, with its return stack, in the entry that takes it. It takes the scalar registers,
TRAPCODE and TRAPINFO of the split that held the record (R414; DEDUCED, log 10). -/
def installed (x : Split) (d : Deferral) (stack : Cells 32) (defs : List Deferral) : Split :=
  { x with live := d.live, exec := d.exec, execCopy := d.exec, pc := d.pc, depth := d.depth, mode := d.mode, sig := d.sig,
           holds := d.holds, stack := stack, defs := defs, left := 0, ll := 0, status := .ready, frame := none,
           replay := none, merged := false, yieldBit := false, held := none, atH := none }

/-- Step 2 of R153: while an entry is empty and the split holds a record, the top record becomes a ready split. An install
whose spills would leave scratch stops at once with the first failing location. -/
def installAll : Nat → State → Except (Nat × Nat) State
  | 0, s => .ok s
  | n + 1, s =>
    match s.grp.emptyEntry, s.spl.defs with
    | some e, d :: t =>
      match s.copyBad e d.depth with
      | some i => .error (e, i)
      | none =>
        let x := s.spl
        let held := s.fillHeld s.focus.ent d.depth x.depth
        let s := s.copySpills s.focus.ent e d.depth x.depth
        let s := s.modSplOf s.focus.blk s.focus.grp e fun _ => installed x d held []
        installAll n (s.modS fun y => { y with defs := t })
    | _, _ => .ok s

/-- Is a split of the focused group other than e ready (R148, R156): one whose wait has ended is? -/
def State.otherReady (s : State) (e : Nat) : Bool :=
  s.grp.entries.any fun x => x.1 != e && s.isReady x.2

/-- Does another split wait at the header, for a merge or for the header's flags, and match (R148, R156)? -/
def matchesAt (s : State) (e : Nat) : Bool :=
  let x := s.spl
  let y := s.splOf s.focus.blk s.focus.grp e
  e != s.focus.ent && (match y.status with | .waiting (.merge _) => true | .waiting (.header _) => true | _ => false) && y.pc == x.pc && y.depth == x.depth &&
    y.mode == x.mode && s.stackOf e y.depth == s.stackOf s.focus.ent x.depth

/-- An entry whose split goes away: its top record is installed there with the rest of its records, or it is empty
(R155, R157). Some location of a spill that would leave scratch refuses it. -/
def vacate (s : State) (e : Nat) : Except (Nat × Nat) State :=
  let x := s.splOf s.focus.blk s.focus.grp e
  match x.defs with
  | [] => .ok ((s.modSplOf s.focus.blk s.focus.grp e fun _ => {}).moveOps s.focus.blk s.focus.grp e 4)
  | d :: t =>
    let held := s.fillHeld e d.depth x.depth
    match (List.range (d.depth - 16)).find? fun i => s.spillBad e i with
    | some i => .error (e, i)
    | none => .ok (s.modSplOf s.focus.blk s.focus.grp e fun _ =>
      { installed x d held t with frame := x.frame, atH := x.atH, latTrap := x.latTrap, latCycles := x.latCycles, latBay := x.latBay })

/-- Vacate a list of entries in order. -/
def vacateAll : List Nat → State → Except (Nat × Nat) State
  | [], s => .ok s
  | e :: t, s =>
    match vacate s e with
    | .ok s => vacateAll t s
    | .error x => .error x

/-- Merge the focused split with the entries that match it (R157): the merged split takes the lowest entry. The focus moves to
that entry. -/
def mergeWith (es : List Nat) (s : State) : Except (Nat × Nat) State :=
  let low := es.foldl min s.focus.ent
  let all := s.focus.ent :: es
  let us := fun (f : Split → LaneMask) => all.foldl (fun m e => m ||| f (s.splOf s.focus.blk s.focus.grp e)) 0
  let holds := all.foldl (fun h e => joinHolds h (s.splOf s.focus.blk s.focus.grp e).holds) []
  let gone := all.filter fun e => e != low
  match vacateAll gone (gone.foldl (fun s e => s.moveOps s.focus.blk s.focus.grp e low) s) with
  | .error x => .error x
  | .ok t =>
    let t := t.modSplOf s.focus.blk s.focus.grp low fun x =>
      { x with live := us Split.live, exec := us Split.exec, execCopy := us Split.exec, holds := holds, status := .ready,
               merged := true }
    .ok { t with focus := { s.focus with ent := low } }

/-- The header issues once the flags of its Wait field read clear; until then the split waits at it, done with merging (R118, R156). A Seed
resets SIG before the fold; the header's flags and length open the clause (R160). -/
def openClause (i : Instr) (w : BitVec 12) (fa fb len : Nat) (yield seed : Bool) (s : State) : State :=
  if !s.spl.clear w then s.modS fun x => { x with status := .waiting (.header w), merged := true }
  else
    let t := s.modS fun x => { x with
      sig := crc32c (if seed then 0xFFFFFFFF else x.sig) (encode i)
      hdr := x.pc
      pc := x.pc + 4
      left := len
      ll := 0
      flagA := fa
      flagB := fb
      yieldBit := yield
      status := .ready
      merged := false
      lastIssue := s.clock
      held := none
      atH := if x.frame.isSome then x.atH else none }
    (t.modG fun g => { g with lastIssue := s.clock, overdue := false, yielded := false }).tickCore s.focus.blk

/-- A header that cannot install a record traps (R158). -/
def headerTrap (i : Instr) (s : State) (r : Nat × Nat) : State :=
  tookIssue s (s.takeTrap s.focus.blk s.focus.grp s.focus.ent 0x04 (s.spillInfo r.1 r.2)
    { State.frameH s.spl false with atH := false, word := encode i })

/-- A clause header of a split: the deferral steps (R153), merging (R156, R157), then its issue under its Wait flags (R118). -/
def headerSplit (i : Instr) (w : BitVec 12) (fa fb len : Nat) (merge yield seed : Bool) (s : State) : State :=
  let x := s.spl
  let since := match x.status with | .waiting (.merge t) => some t | _ => none
  match installAll 8 (s.modS fun x => absorb x merge) with
  | .error r => headerTrap i s r
  | .ok t =>
    if !merge || x.merged then openClause i w fa fb len yield seed t
    else
      let es := (List.range 4).filter (matchesAt t)
      if es.isEmpty then
        if t.otherReady t.focus.ent && (match since with | some c => decide (t.clock < c + 1024) | none => true) then
          t.modS fun x => { x with status := .waiting (.merge (since.getD t.clock)) }
        else openClause i w fa fb len yield seed t
      else
        match mergeWith es t with
        | .error r => headerTrap i s r
        | .ok u => openClause i w fa fb len yield seed u

/-- A clause header: the matrix stream skips it without further effect (R270). -/
def execClauseHeader (w : BitVec 12) (a b l : BitVec 4) (m y e : Bool) (s : State) : Host.Outcome State Fault Refusal :=
  .next (if s.focus.stream then s.modM fun x => { x with hdr := x.pc, pc := x.pc + 4, left := l.toNat }
         else headerSplit (.clauseHeader w a b l m y e) w a.toNat b.toNat l.toNat m y e s)

/-! ### Control instructions -/

/-- Does a BRA branch (R161)? -/
def braTaken (s : State) : Bool :=
  (s.spl.guard == 0 && !s.spl.guardInv) || decide (takenLanes s ≠ 0)

def execBra (o : BitVec 24) (s : State) : Host.Outcome State Fault Refusal :=
  simple (.bra o) (fun s => if braTaken s then s.modS fun x => { x with pc := target x.hdr o } else s) s

def execBrx (o : BitVec 24) (s : State) : Host.Outcome State Fault Refusal :=
  issue (.brx o) false (fun s => divide (target s.spl.hdr o) s) s

/-- CALL and CALLX (R158, R163): at depth 16 and beyond the oldest held entry is spilled. -/
def callTo (tgt : Nat) (s : State) : Eff :=
  let x := s.spl
  if x.depth ≥ 48 then .bad 0x01
  else
    let push := fun (x : Split) => { x with stack := x.stack.set x.depth (BitVec.ofNat 32 x.pc), depth := x.depth + 1, pc := tgt }
    if x.depth < 16 then .ok (s.modS push)
    else
      let i := x.depth - 16
      if s.spillBad s.focus.ent i then .trap 0x04 (s.spillInfo s.focus.ent i) s
      else
        let s := s.writeScr s.focus.blk (s.spillAt s.focus.ent i).toNat (toBytes 4 (x.stack.get i).toNat)
        .ok (s.modS fun x => push { x with stack := x.stack.set i 0 })

def execCall (o : BitVec 24) (s : State) : Host.Outcome State Fault Refusal :=
  issue (.call o) false (fun s => callTo (target s.spl.hdr o) s) s

def execCallx (a : BitVec 7) (s : State) : Host.Outcome State Fault Refusal :=
  issue (.callx a) false (fun s =>
    let t := s.getS a.toNat
    if t.toNat % 4 ≠ 0 then .trap 0x03 (pair t 0) s else callTo t.toNat s) s

/-- Insert a record directly above the highest record whose Depth is at most its own, or at the bottom (R154). The list holds
the top record first. -/
def insertRecord (r : Deferral) : List Deferral → List Deferral
  | [] => [r]
  | d :: t => if d.depth ≤ r.depth then r :: d :: t else d :: insertRecord r t

/-- RET (R154, R158, R164): a return, or a swap with the top record of the same depth. A return below depth 16 fills the
entry that comes into the split table from scratch. -/
def doReturn (s : State) : Eff :=
  let x := s.spl
  if x.depth = 0 then .bad 0x01
  else
    let ret := (s.stackEntry s.focus.ent x.depth (x.depth - 1)).toNat
    match x.defs with
    | d :: t =>
      if d.depth = x.depth then
        let r : Deferral := { live := x.live, exec := x.exec, pc := ret, depth := x.depth - 1, mode := x.mode, sig := x.sig, holds := x.holds }
        .ok (s.modS fun y => { y with live := d.live, exec := d.exec, execCopy := d.exec, pc := d.pc, mode := d.mode, sig := d.sig,
                                      holds := d.holds, defs := insertRecord r t })
      else returnTo x ret s
    | [] => returnTo x ret s
where
  returnTo (x : Split) (ret : Nat) (s : State) : Eff :=
    let pop := fun (y : Split) => { y with stack := y.stack.set (x.depth - 1) 0, depth := x.depth - 1, pc := ret }
    if x.depth ≤ 16 then .ok (s.modS pop)
    else
      let i := x.depth - 17
      if s.spillBad s.focus.ent i then .trap 0x04 (s.spillInfo s.focus.ent i) s
      else .ok (s.modS fun y => let y := pop y; { y with stack := y.stack.set i (s.stackEntry s.focus.ent x.depth i) })

def execRet (s : State) : Host.Outcome State Fault Refusal := issue .ret false doReturn s

/-- When the last split of a group ends while a failure awaits delivery H, the block fails (R412); a lane death fails no block
(R420). -/
def endGroup (s : State) : State :=
  if s.grp.ended then
    match s.grp.fails.filter fun f => f.code != 0x08 with
    | f :: _ => s.failBlock s.focus.blk f.code f.info 0
    | [] => s.modG fun g => { g with fails := [] }
  else s

/-- EXIT (R155, R165): the split takes the state of its top record, or its entry becomes empty. The clause has ended with its Yield bit (R105). -/
def doExit (s : State) : Eff :=
  match vacate s s.focus.ent with
  | .ok t => .ok (endGroup (t.modS fun x => { x with yieldBit := s.spl.yieldBit }))
  | .error r => .trap 0x04 (s.spillInfo r.1 r.2) s

def execExit (s : State) : Host.Outcome State Fault Refusal := issue .exit false doExit s

/-- YIELD (R166): the effect of a set Yield bit at the end of the clause. -/
def doYield (s : State) : State := s.modS fun x => { x with yieldBit := true }

def execYield (s : State) : Host.Outcome State Fault Refusal := simple .yield doYield s
def execNop (s : State) : Host.Outcome State Fault Refusal := simple .nop id s

/-- ELECT (R167): the lowest lane of Exec that is not dead. -/
def electLane (s : State) : Option Nat := (lanesOf (s.spl.exec &&& ~~~s.grp.dead)).head?

def execElect (d a : BitVec 7) (s : State) : Host.Outcome State Fault Refusal :=
  simple (.elect d a) (fun s =>
    let e := electLane s
    let ls := lanesOf (s.spl.exec &&& ~~~s.grp.dead)
    (s.modG fun g => g.setPs a.toNat ls fun l => some l == e).setS d.toNat
      (match e with | some l => BitVec.ofNat 32 l | none => 0xFFFFFFFF)) s

end Sys2Proof.Machine
end

