-- ==== Sys2Proof/Machine/System.lean ====
section
/-! DEFINITION. The system instructions (spec/06_control_and_splits.md R168 to R177): MODE, flags, signatures, traps and the
return from them, special registers (R123), QSUB, RCOMMIT, SLEEP. -/

namespace Sys2Proof.Machine

/-- MODE[23:3] written from a word; SigEn stays (R125, R168). -/
def withMode (m v : Word) : Word := (v &&& 0xFFFFF8) ||| (m &&& 0x4)

/-- Is the Type or the Round code of a MODE value reserved (R41, R44)? -/
def modeBad (v : Word) : Bool := decide (bits v.toNat 15 12 ≥ 14) || decide (bits v.toNat 11 9 ≥ 6)

/-- The payload of MODE, laid out as MODE[23:3] (R125). -/
def execMode (g : BitVec 7) (v : Bool) (t : BitVec 4) (r : BitVec 3) (st f b x y z : Bool) (s : State) :
    Host.Outcome State Fault Refusal :=
  let i := Instr.mode g v t r st f b x y z
  simple i (fun s => s.modS fun p => { p with mode := withMode p.mode (encode i) }) s

/-- MODES (R168): a reserved code in sA changes nothing. -/
def execModes (a : BitVec 7) (s : State) : Host.Outcome State Fault Refusal :=
  issue (.modes a) false (fun s =>
    let v := s.getS a.toNat
    if modeBad v then .bad 0x01 else .ok (s.modS fun p => { p with mode := withMode p.mode v })) s

def execModesSwap (d a : BitVec 7) (s : State) : Host.Outcome State Fault Refusal :=
  issue (.modesSwap d a) false (fun s =>
    let v := s.getS a.toNat
    if modeBad v then .bad 0x01
    else .ok ((s.setS d.toNat s.spl.mode).modS fun p => { p with mode := withMode p.mode v })) s

/-- WAITF (R169). -/
def execWaitf (m : BitVec 12) (s : State) : Host.Outcome State Fault Refusal :=
  issue (.waitf m) false (fun s => if s.spl.clear m then .ok s else .hold (.mask m)) s

/-- SIGCHK (R170): both checks are made before its own word is folded; in a restartable grid a mismatch rolls the block back
(R430). -/
def execSigchk (c : BitVec 24) (s : State) : Host.Outcome State Fault Refusal :=
  issue (.sigchk c) false (fun t =>
    let x := s.spl
    let dSig := x.sig.truncate 24 != c
    let dMask := x.execCopy != x.exec
    if !x.sigEn || (!dSig && !dMask) then .ok t
    else
      let info := pair x.sig ((if dSig then 1 else 0) ||| (if dMask then 2 else 0))
      if t.grid.restartable then .ok (t.rollBack t.focus.blk 2 info) else .trap 0x0C info t) s

/-- TRAP (R171). -/
def execTrap (c : BitVec 16) (s : State) : Host.Outcome State Fault Refusal :=
  issue (.trap c) false (fun s => .trap 0x18 (c.zeroExtend 64) s) s

/-- RTE (R173): MODE and SIG come back from the frame, and issue resumes at the trapping word (retry), at the word after it
(cont), or at a header held by delivery H. A frame of a trap of the matrix stream also says how the stream goes on: past a clause header, in that
header's clause (R117, R273). -/
def doRte (cont : Bool) (s : State) : Eff :=
  match s.spl.frame with
  | none => .bad 0x01
  | some f =>
    let s :=
      if f.ofStream then
        if cont then
          match s.wordFor s.focus.blk s.ms.pc with
          | (w, s) => s.modM fun m => if m.left = 0 ∧ prim w ≥ 0xF0 then
              { m with halted := false, hdr := m.pc, pc := m.pc + 4, left := (fld w 4 4).toNat }
            else { m with halted := false, pc := m.pc + 4, left := m.left - 1 }
        else s.modM fun m => { m with halted := false }
      else s
    let back := fun (x : Split) => { x with mode := f.mode, frame := none, hdr := f.hdr, flagA := f.flagA, flagB := f.flagB, ll := f.ll }
    .ok (s.modS fun x =>
      if f.atH then { back x with sig := f.sig, pc := f.pc, left := 0, ll := 0, atH := some f.pc }
      else if !cont then { back x with sig := f.sig, pc := f.pc, left := f.left, yieldBit := if f.left = 0 then x.yieldBit else f.yieldBit }
      else if f.left = 0 ∧ prim f.word ≥ 0xF0 then
        { back x with sig := crc32c (if bit f.word 1 then 0xFFFFFFFF else f.sig) f.word, pc := f.pc + 4, hdr := f.pc, ll := 0,
                      left := (fld f.word 4 4).toNat, flagA := (fld f.word 12 4).toNat, flagB := (fld f.word 8 4).toNat, yieldBit := bit f.word 2 }
      else { back x with sig := crc32c f.sig f.word, pc := f.pc + 4, left := f.left - 1, yieldBit := f.yieldBit })

def execRteRetry (s : State) : Host.Outcome State Fault Refusal := issue .rteRetry false (doRte false) s
def execRteCont (s : State) : Host.Outcome State Fault Refusal := issue .rteCont false (doRte true) s

/-! ### Special registers (R123) -/

/-- ROLE (R21). -/
def Group.role (g : Group) : Word := BitVec.ofNat 32 (g.index % 256 * 2 ^ 16 + g.slot % 4 * 2 ^ 8 + g.code % 256)
/-- SBCOUNT (R239). -/
def Group.sbcount (g : Group) : Word := BitVec.ofNat 32 (g.sb.length % 256 * 2 ^ 16 + g.unacked % 4096)
/-- BATCHSEQ (R266). -/
def Group.batchseq (g : Group) : Word := g.done ++ g.closed
/-- MGSTAT (R110). -/
def State.mgstat (s : State) : Word :=
  BitVec.ofNat 32 (s.blk.msHeld.toNat * 256 + (s.coreOf s.blk.die s.blk.core).b % 16)
/-- LBAY (R305): the bays of the die that the context owns in compute mode. -/
def State.lbay (s : State) : DWord :=
  BitVec.ofNat 64 ((List.range 64).foldl (fun n b =>
    let x := (s.dieOf s.blk.die).bays.get {} b
    if x.mode == 2 && x.fn == s.fn && x.ctx == s.ctx then n + 2 ^ b else n) 0)

/-- SYSR of a number: the value, and the split after the latching of a high half; none for an unlisted number. sig is SIG
before the SYSR word is folded. -/
def sysRead (s : State) (sig : Word) (n : Nat) : Option (Word × Split) :=
  let x := s.spl
  let g := s.grp
  let cyc := (s.coreOf s.blk.die s.blk.core).cycles
  let plain := fun (v : Word) => some (v, x)
  match n with
  | 0x00 => plain x.mode
  | 0x01 => plain g.role
  | 0x02 => plain (BitVec.ofNat 32 s.focus.ent)
  | 0x03 => plain (BitVec.ofNat 32 x.depth)
  | 0x04 => plain (BitVec.ofNat 32 g.gid)
  | 0x05 => plain (BitVec.ofNat 32 s.blk.lin)
  | 0x06 => plain (BitVec.ofNat 32 s.blk.span)
  | 0x07 => plain (BitVec.ofNat 32 s.blk.grid)
  | 0x08 => plain (maskWord g.dead 0)
  | 0x09 => plain (maskWord g.dead 1)
  | 0x0A => plain (maskWord g.dead 2)
  | 0x0B => plain sig
  | 0x0C => plain g.sbcount
  | 0x0D => plain g.batchseq
  | 0x0E => plain s.mgstat
  | 0x0F => plain (s.grid.phase.zeroExtend 32)
  | 0x10 => plain (x.trapCode &&& 0xFF)
  | 0x11 => some (lo32 x.trapInfo, { x with latTrap := some (hi32 x.trapInfo) })
  | 0x12 => some (x.latTrap.getD (hi32 x.trapInfo), { x with latTrap := none })
  | 0x13 => some (lo32 cyc, { x with latCycles := some (hi32 cyc) })
  | 0x14 => some (x.latCycles.getD (hi32 cyc), { x with latCycles := none })
  | 0x15 => some (lo32 s.lbay, { x with latBay := some (hi32 s.lbay) })
  | 0x16 => some (x.latBay.getD (hi32 s.lbay), { x with latBay := none })
  | _ => none

/-- SYSW of a number: only TRAPCODE and TRAPINFO are writable (R123, R414). -/
def sysWrite (x : Split) (n : Nat) (v : Word) : Option Split :=
  match n with
  | 0x10 => some { x with trapCode := v &&& 0xFF }
  | 0x11 => some { x with trapInfo := pair v (hi32 x.trapInfo) }
  | 0x12 => some { x with trapInfo := pair (lo32 x.trapInfo) v }
  | _ => none

/-- SYSR (R174). -/
def execSysr (d : BitVec 7) (n : BitVec 16) (s : State) : Host.Outcome State Fault Refusal :=
  issue (.sysr d n) false (fun t =>
    match sysRead t s.spl.sig n.toNat with
    | none => .bad 0x01
    | some (v, x) => .ok ((t.modS fun _ => x).setS d.toNat v)) s

/-- SYSW (R174). -/
def execSysw (d : BitVec 7) (n : BitVec 16) (s : State) : Host.Outcome State Fault Refusal :=
  issue (.sysw d n) false (fun t =>
    match sysWrite t.spl n.toNat (t.getS d.toNat) with
    | none => .bad 0x01
    | some x => .ok (t.modS fun _ => x)) s

/-! ### QSUB, RCOMMIT, SLEEP -/

/-- What a submission of the issuing grid does: WriteIndex := max(WriteIndex, V), then the doorbell. Only a queue that takes DISPATCHes can hold the
grid's children (R88). -/
def submit (q v : Nat) (s : State) : State :=
  match s.cbRead q 0 8 with
  | (s, some w) =>
    let s := (s.cbWrite q 0 (toBytes 8 (max w v))).1
    let s := s.modQueue q fun x => { x with submits := x.submits ++ [(max w v, s.blk.grid)] }
    let s := if (s.queueOf q).cls % 4 = 0 then s.modGrid s.blk.grid fun g => { g with qsubs := g.qsubs ++ [(q, max w v)] } else s
    s.serveDoorbell q
  | (s, none) => s.serveDoorbell q

/-- QSUB (R175): the fence, then the submission; where the control block lies in another module the word waits for its messages (R371). -/
def doQsub (a b : BitVec 7) (s : State) : Eff :=
  let r := (s.getS a.toNat).toNat % 65536
  let q := r % 4096
  let v := (s.getP b.toNat).toNat
  let x := s.queueOf q
  let info := BitVec.ofNat 64 r
  if r ≥ 4096 || !x.enabled || x.cls / 4 % 2 == 0 || x.fn != s.fn || x.ctx != s.ctx then .trap 0x06 info s
  else if v - x.readIdx > 2 ^ x.z then .trap 0x16 info s
  else if !fenceReady s then .later s
  else
    match s.farTry (.split s.focus.blk s.focus.grp s.focus.ent) s.blk.die (submit q v) with
    | (s, true) => .ok (s.startOp { kind := .queue })
    | (s, false) => .later s

def execQsub (a b : BitVec 7) (s : State) : Host.Outcome State Fault Refusal := issue (.qsub a b) true (doQsub a b) s

/-- RCOMMIT (R176): the role of the group must have exactly one non-empty split and no deferral records. -/
def execRcommit (n : BitVec 16) (s : State) : Host.Outcome State Fault Refusal :=
  issue (.rcommit n) false (fun s =>
    if !s.grid.restartable then .ok s
    else
      let full := s.grp.entries.filter fun e => e.2.status != .empty
      if full.length ≠ 1 ∨ !s.spl.defs.isEmpty then .bad 0x01
      else
        let mask := ((s.grid.descs[s.grp.slot]?).getD (0, 0, 0)).2.1
        let vals := (liveRegs mask).foldl (fun (c : Cells 32) r => c.set r (s.getS r)) []
        .ok ((s.modG fun g => { g with commit := some (n.toNat, vals) }).commitDone s.focus.blk n.toNat)) s

/-- SLEEP (R177): 16 × imm16 cycles; SLEEP 0 is YIELD. -/
def execSleep (n : BitVec 16) (s : State) : Host.Outcome State Fault Refusal :=
  simple (.sleep n) (fun s =>
    if n = 0 then doYield s else s.modS fun x => { x with status := .waiting (.sleep (s.clock + 16 * n.toNat)) }) s

end Sys2Proof.Machine
end

