-- ==== Sys2Proof/Machine/LaneMem.lean ====
section
/-! DEFINITION. The lane memory instructions and the scalar loads and stores (spec/09_memory_instructions.md R234 to R250;
spec/07_scalar_vector.md R182), with the messages they send to other modules (spec/14_links.md R371 to R374). -/

namespace Sys2Proof.Machine

/-! ### Lanes, checks and reach -/

/-- The accessing lanes with the address of each (R234). -/
def laneAddrs (s : State) (f : Nat → Nat) : List (Nat × Nat) := (lanesOf s.execLanes).map fun l => (l, f l)

/-- TRAPINFO of a global access; an access that is not a lane's writes 0 in the lane field (R236). -/
def infoAt (va lane : Nat) : DWord := globalInfo va (if lane < 96 then lane else 0)

/-- Reach each lane's address in ascending lane order. -/
def reachLanes (acc : AccType) (n : Nat) : List (Nat × Nat) → State → State × List (Nat × Nat × Reach)
  | [], s => (s, [])
  | (l, va) :: t, s =>
    match s.reach s.blk va n acc with
    | (s, r) =>
      match reachLanes acc n t s with
      | (s, rs) => (s, (l, va, r) :: rs)

/-- The lanes whose accesses park, for parkSplit. -/
def faultsOf (rs : List (Nat × Nat × Reach)) : List (Nat × Nat × Bool) :=
  rs.filterMap fun r => match r.2.2 with
    | .fault k => some (r.2.1, k, false)
    | .poison => some (r.2.1, 0, true)
    | _ => none
def faultLanes (rs : List (Nat × Nat × Reach)) : LaneMask :=
  maskOf fun l => rs.any fun r => r.1 == l && (match r.2.2 with | .fault _ | .poison => true | _ => false)
/-- The local physical addresses reached, lane by lane, and the remote ones. -/
def localsOf (rs : List (Nat × Nat × Reach)) : List (Nat × Nat × Nat) :=
  rs.filterMap fun r => match r.2.2 with | .ok pa => some (r.1, r.2.1, pa) | _ => none
def remotesOf (rs : List (Nat × Nat × Reach)) : List (Nat × Nat × Nat) :=
  rs.filterMap fun r => match r.2.2 with | .remote pa => some (r.1, r.2.1, pa) | _ => none
/-- The lanes whose access fails remotely, with code and TRAPINFO (R376, R377). -/
def failsOf (rs : List (Nat × Nat × Reach)) : List (Nat × Nat × DWord) :=
  rs.filterMap fun r => match r.2.2 with | .fail c => some (r.1, c, infoAt r.2.1 r.1) | _ => none
/-- The failure of the lowest of them. -/
def lowestFail : List (Nat × Nat × DWord) → Option (Nat × Nat × DWord)
  | [] => none
  | x :: t => some (t.foldl (fun m y => if y.1 < m.1 then y else m) x)
def firstFail (rs : List (Nat × Nat × Reach)) : Option (Nat × DWord) := (lowestFail (failsOf rs)).map (·.2)

/-- A global access of n bytes by lanes (R236): the alignment check, translation, what makes it wait, then the accesses that
succeed; the rest park. check may name a trap at issue; ready says whether it may go on, and does what must come before. -/
def globalAccess (acc : AccType) (n : Nat) (las : List (Nat × Nat)) (check : List (Nat × Nat × Reach) → Option (Nat × DWord))
    (ready : State → List (Nat × Nat × Reach) → State × Bool)
    (perform : State → List (Nat × Nat × Reach) → State) (s : State) : Eff :=
  if s.acqBusy then .later s
  else
    match las.find? fun la => la.2 % n ≠ 0 with
    | some la => .trap 0x03 (infoAt la.2 la.1) s
    | none =>
      match reachLanes acc n las s with
      | (t, rs) =>
        match (match rs.find? fun r => r.2.2 == .protect with
          | some r => some (0x06, BitVec.ofNat 64 r.2.1)
          | none => check rs) with
        | some (c, i) => .trap c i t
        | none =>
          match ready t rs with
          | (t, false) => .later t
          | (t, true) =>
            if rs.any fun r => r.2.2 == .wait then .later t
            else
              let t := perform t rs
              if (faultsOf rs).isEmpty then .ok t
              else
                match t.parkSplit acc (faultsOf rs) (faultLanes rs) with
                | (id, u) => .park u id

/-- A scratch access of n bytes by lanes at offsets (R236, R208). -/
def scratchAccess (n : Nat) (las : List (Nat × Nat)) (ready : State → State × Bool) (perform : State → State) (s : State) :
    Eff :=
  if s.acqBusy then .later s
  else
    match las.find? fun la => la.2 % n ≠ 0 with
    | some la => .trap 0x03 (scratchInfo la.2 la.1) s
    | none =>
      match las.find? fun la => decide (la.2 + n > s.scrBytes s.focus.blk) with
      | some la => .trap 0x04 (scratchInfo la.2 la.1) s
      | none =>
        match ready s with
        | (t, false) => .later t
        | (t, true) => .ok (perform t)

/-- No further check at issue. -/
def noCheck (_ : List (Nat × Nat × Reach)) : Option (Nat × DWord) := none

/-- Buffered stores that a lane's access meets are performed first, so that it returns their data (R239). -/
def drainHits (hit : State → Bool) (s : State) : State × Bool :=
  if hit s then
    let t := s.drain s.focus.blk s.focus.grp
    (t, !hit t)
  else (s, true)
def hitGlobal (n : Nat) (rs : List (Nat × Nat × Reach)) (s : State) : Bool :=
  (localsOf rs).any fun r => s.sbHit s.focus.blk s.focus.grp r.1 false r.2.2 n
def hitScratch (n : Nat) (las : List (Nat × Nat)) (s : State) : Bool :=
  las.any fun r => s.sbHit s.focus.blk s.focus.grp r.1 true r.2 n

/-- The bytes that a lane's load finds in the group's store buffer: those of the latest write that it meets there, where that holds them
all (R239). -/
def State.buffered (s : State) (lane pa n : Nat) : Option (List Byte) :=
  match (s.grp.sb.flatMap fun e => e.writes).reverse.find? fun w => (w.lane == lane || w.lane == 96 || lane ≥ 96) && !w.scr &&
      decide (w.at_ < pa + n ∧ pa < w.at_ + (match w.rmw with | some (_, k, _) => k / 8 | none => w.bytes.length)) with
  | some w => if w.rmw.isNone ∧ w.at_ ≤ pa ∧ pa + n ≤ w.at_ + w.bytes.length then some ((w.bytes.drop (pa - w.at_)).take n) else none
  | none => none
/-- A load of another module's bytes that the buffer holds in part, or under an update, waits until they have been performed there. -/
def hitRemote (n : Nat) (rs : List (Nat × Nat × Reach)) (s : State) : Bool :=
  (remotesOf rs).any fun r => s.sbHit s.focus.blk s.focus.grp (min r.1 96) false r.2.2 n && (s.buffered r.1 r.2.2 n).isNone
/-- Is an atomic of a lane of the focused group to some of n bytes still to be performed at its home, here or in another module? A later load of
the lane does not read past it (R391, R392). -/
def State.atomAhead (s : State) (lane pa n : Nat) : Bool :=
  let meets := fun (l p : Nat) (r : RemoteOp) => (l == lane || lane ≥ 96) && decide (p < pa + n ∧ pa < p + reqBytes r)
  let mine := fun (h : HeldReq) => match h.who with
    | .lane o l _ => (s.opOf o).blk == s.focus.blk && (s.opOf o).grp == s.focus.grp && meets l h.pa h.op
    | _ => false
  s.snoopHeld.any mine || s.cells.any (fun c => c.2.held.any mine || c.2.waits.any mine) ||
    s.remotes.any fun r => r.2.blk == s.focus.blk && r.2.grp == s.focus.grp && !r.2.far &&
      (match r.2.op with | some o => (s.opOf o).kind == .atomic | none => false) && meets r.2.lane r.2.pa r.2.req
def loadReady (n : Nat) (s : State) (rs : List (Nat × Nat × Reach)) : State × Bool :=
  if hitRemote n rs s || (localsOf rs).any fun r => s.atomAhead r.1 r.2.2 n then (s, false) else drainHits (hitGlobal n rs) s
/-- A store that has lanes in another module, of a group that has executed a FENCE or a REL, goes when the group's earlier writes have been
performed there (R395, R397). -/
def storeReady (s : State) (rs : List (Nat × Nat × Reach)) : State × Bool :=
  (s, s.grp.fenced == 0 || (remotesOf rs).isEmpty || (s.grp.sb.isEmpty && !s.atomsOut s.focus.blk s.focus.grp))

/-! ### Results and messages -/

/-- Word j of a list of bytes. -/
def wordAt (bs : List Byte) (j : Nat) : Word := BitVec.ofNat 32 (ofBytes ((bs.drop (4 * j)).take 4))

/-- The bytes that a lane loaded become results of an operation: vector registers, or for lane 96 scalar registers, and for 97
one scalar register that is sign-extended (R182). -/
def Op.result (o : Op) (lane : Nat) (regs : List Nat) (bs : List Byte) : Op :=
  let ws := (List.range regs.length).zip regs
  if lane < 96 then { o with vres := o.vres ++ ws.map fun r => (r.2, lane, wordAt bs r.1) }
  else if lane = 97 then { o with sres := o.sres ++ regs.map fun r => (r, w32 (signed (8 * bs.length) (ofBytes bs))) }
  else { o with sres := o.sres ++ ws.map fun r => (r.2, wordAt bs r.1) }

/-- Send one message to another module (R371, R373). -/
def State.sendRemote (s : State) (op sb engine : Option Nat) (lane va pa : Nat) (req : RemoteOp) (regs : List Nat) : State :=
  s.postRemote { op := op, blk := s.focus.blk, grp := s.focus.grp, lane := lane, va := va, ctx := s.ctx, fn := s.fn, pa := pa,
                 req := req, regs := regs, sb := sb, retried := false, engine := engine, die := s.blk.die, far := false, behind := false, ent := s.focus.ent,
                 frame := s.spl.last }

/-- A load of n bytes into registers of each lane (R240): what is local is read now, in lane order; what is remote is asked for, but for what
the group's store buffer holds (R239). regs gives the destination registers of a lane. -/
def loadPerform (n acq : Nat) (regs : List Nat) (helpers : LaneMask) (s : State) (rs : List (Nat × Nat × Reach)) : State :=
  let (held, asked) := (remotesOf rs).partition fun r => (s.buffered r.1 r.2.2 n).isSome && !s.atomAhead r.1 r.2.2 n
  let o : Op := { kind := .load, remote := asked.length, fail := firstFail rs, acq := acq,
                  vres := (lanesOf helpers).flatMap fun l => regs.map fun r => (r, l, 0) }
  let o := (localsOf rs).foldl (fun o r => o.result r.1 regs (s.rd r.2.2 n)) o
  let o := held.foldl (fun o r => o.result r.1 regs ((s.buffered r.1 r.2.2 n).getD [])) o
  let s := (localsOf rs).foldl (fun s r => s.tlpRead r.2.2 n) s
  let s := s.startOp o
  asked.foldl (fun t r => t.sendRemote (some s.lastOp) none none r.1 r.2.1 r.2.2 (.read n) regs) s

/-- Take a store buffer entry for the local writes and the remote messages of an instruction (R239, R373); refused lists the lanes whose
operation a completer has refused (R381). What fails at once waits with the entry, the lowest lane first (R377). -/
def storePerform (refused : List (Nat × Nat × DWord)) (rs : List (Nat × Nat × Reach)) (wr : Nat → Nat → SbWrite) (s : State) : State :=
  let ws := (localsOf rs).map fun r => wr r.1 r.2.2
  let ms := remotesOf rs
  let fail := lowestFail (failsOf rs ++ refused)
  if ws.isEmpty && ms.isEmpty then
    match fail with
    | some f => s.addFail s.focus.blk s.focus.grp { code := f.2.1, info := f.2.2, stream := false }
    | none => s
  else
    let id := s.nextId
    ms.foldl (fun t r =>
      let w := wr r.1 r.2.2
      (t.sendRemote none (some id) none r.1 r.2.1 r.2.2 (State.SbWrite.request w) []).sentBy t.focus.blk t.focus.grp id t.nextId w)
      ((if ms.isEmpty then s else s.beforeWrite s.focus.blk s.focus.grp).pushSb ws fail)

/-- A release at sys scope reads the MMIO windows that the focused group has written (R380, R397). -/
def mmioFlush (s : State) : State := s.flushMmio s.focus.blk s.focus.grp

/-- The n bytes from register d of a lane. -/
def laneData (g : Group) (d l n : Nat) : List Byte :=
  (List.range (n / 4)).flatMap fun j => toBytes 4 (g.getV (d + j) l).toNat

/-- The run of n/4 registers from d. -/
def regRun (d n : Nat) : List Nat := (List.range (n / 4)).map fun j => d + j

/-! ### LD, ST, PREF, LD.acq, ST.rel (R240 to R243) -/

def doLoad (d v j n acq : Nat) (s : State) : Eff :=
  globalAccess .read n (laneAddrs s (s.addrFM v j)) noCheck (loadReady n)
    (loadPerform n acq (regRun d n) (s.helpersOf s.execLanes)) s

/-- A store; first is what is done before it, once nothing holds it up. -/
def doStore (first : State → State) (d v j n : Nat) (s : State) : Eff :=
  if s.sbFull then .later s
  else globalAccess .write n (laneAddrs s (s.addrFM v j)) noCheck storeReady (fun t rs =>
    storePerform [] rs (fun l pa => { lane := l, scr := false, at_ := pa, bytes := laneData s.grp d l n, rmw := none }) (first t)) s

def execLdG32 (d v : BitVec 8) (j : BitVec 6) (h : BitVec 2) (s : State) : Host.Outcome State Fault Refusal :=
  issue (.ldG32 d v j h) true (doLoad d.toNat v.toNat j.toNat 4 0) s
def execLdG64 (d v : BitVec 8) (j : BitVec 6) (h : BitVec 2) (s : State) : Host.Outcome State Fault Refusal :=
  issue (.ldG64 d v j h) true (doLoad d.toNat v.toNat j.toNat 8 0) s
def execLdG128 (d v : BitVec 8) (j : BitVec 6) (h : BitVec 2) (s : State) : Host.Outcome State Fault Refusal :=
  issue (.ldG128 d v j h) true (doLoad d.toNat v.toNat j.toNat 16 0) s
def execStG32 (d v : BitVec 8) (j : BitVec 6) (h : BitVec 2) (s : State) : Host.Outcome State Fault Refusal :=
  issue (.stG32 d v j h) true (doStore id d.toNat v.toNat j.toNat 4) s
def execStG64 (d v : BitVec 8) (j : BitVec 6) (h : BitVec 2) (s : State) : Host.Outcome State Fault Refusal :=
  issue (.stG64 d v j h) true (doStore id d.toNat v.toNat j.toNat 8) s
def execStG128 (d v : BitVec 8) (j : BitVec 6) (h : BitVec 2) (s : State) : Host.Outcome State Fault Refusal :=
  issue (.stG128 d v j h) true (doStore id d.toNat v.toNat j.toNat 16) s

/-- PREF (R242) changes no state that programs see. -/
def execPref (v : BitVec 8) (j : BitVec 6) (h : BitVec 2) (s : State) : Host.Outcome State Fault Refusal :=
  issue (.pref v j h) true (fun s => .ok s) s

/-- LD.acq (R243): the load, then an acquire: nothing later accesses memory before it is answered. -/
def execLdAcq (d v : BitVec 8) (j : BitVec 6) (sc : Scope) (s : State) : Host.Outcome State Fault Refusal :=
  issue (.ldAcq d v j sc) true (doLoad d.toNat v.toNat j.toNat 4 (sc.code + 1)) s

/-- ST.rel (R243, R397): a release, then the store: every earlier access of the group is performed first, and at sys scope the MMIO windows
that it has written are read (R380). -/
def execStRel (d v : BitVec 8) (j : BitVec 6) (sc : Scope) (s : State) : Host.Outcome State Fault Refusal :=
  issue (.stRel d v j sc) true (fun s =>
    if fenceReady s then doStore (if sc = .sys then mmioFlush else id) d.toNat v.toNat j.toNat 4 s else .later s) s

/-! ### SLD and SST (R182) -/

/-- The bytes of SLD, and whether it sign-extends. -/
def ldBytes : LdSize → Nat
  | .n8 | .s8 => 1
  | .n16 | .s16 => 2
  | .b32 => 4
  | .b64 => 8
def ldSigned : LdSize → Bool
  | .s8 | .s16 => true
  | _ => false
def stBytes : StSize → Nat
  | .b8 => 1
  | .b16 => 2
  | .b32 => 4
  | .b64 => 8

/-- The address of SLD and SST: the pair sA plus the offset in units of the size. -/
def State.addrScalar (s : State) (a off n : Nat) : Nat := (s.getP a + BitVec.ofNat 64 (off * n)).toNat

def execSld (z : LdSize) (d a b : BitVec 7) (s : State) : Host.Outcome State Fault Refusal :=
  issue (.sld z d a b) true (fun s =>
    let n := ldBytes z
    globalAccess .read n [(if ldSigned z then 97 else 96, s.addrScalar a.toNat b.toNat n)] noCheck
      (fun t rs => loadReady n t (rs.map fun r => (96, r.2)))
      (loadPerform n 0 (if n = 8 then [d.toNat, d.toNat + 1] else [d.toNat]) 0) s) s

def execSst (z : StSize) (d a b : BitVec 7) (s : State) : Host.Outcome State Fault Refusal :=
  issue (.sst z d a b) true (fun s =>
    let n := stBytes z
    let bs := toBytes n (s.getP d.toNat).toNat
    if s.sbFull then .later s
    else globalAccess .write n [(96, s.addrScalar a.toNat b.toNat n)] noCheck storeReady (fun t rs =>
      storePerform [] rs (fun _ pa => { lane := 96, scr := false, at_ := pa, bytes := bs, rmw := none }) t) s) s

/-! ### LDS, STS, LDC (R244) -/

def execLds (d v : BitVec 8) (b : BitVec 6) (z : AccSize) (s : State) : Host.Outcome State Fault Refusal :=
  issue (.lds d v b z) true (fun s =>
    let n := accBytes z
    let las := laneAddrs s (s.offFSM v.toNat b.toNat)
    scratchAccess n las (drainHits (hitScratch n las)) (fun t =>
      let o : Op := { kind := .load, vres := (lanesOf (s.helpersOf s.execLanes)).flatMap fun l =>
        (regRun d.toNat n).map fun r => (r, l, 0) }
      t.startOp (las.foldl (fun o r => o.result r.1 (regRun d.toNat n) (t.seenScr r.2 n)) o)) s) s

def execSts (d v : BitVec 8) (b : BitVec 6) (z : AccSize) (s : State) : Host.Outcome State Fault Refusal :=
  issue (.sts d v b z) true (fun s =>
    let n := accBytes z
    let las := laneAddrs s (s.offFSM v.toNat b.toNat)
    if s.sbFull then .later s
    else scratchAccess n las (fun t => (t, true)) (fun t =>
      if las.isEmpty then t
      else t.pushSb (las.map fun r => { lane := r.1, scr := true, at_ := r.2, bytes := laneData s.grp d.toNat r.1 n, rmw := none }) none)
      s) s

/-- LDC: constant space wraps and is not range-checked (R26, R236). -/
def execLdc (d v : BitVec 8) (b : BitVec 6) (z : AccSize) (s : State) : Host.Outcome State Fault Refusal :=
  issue (.ldc d v b z) true (fun s =>
    let n := accBytes z
    let las := laneAddrs s (s.offFSM v.toNat b.toNat)
    match las.find? fun la => la.2 % n ≠ 0 with
    | some la => .trap 0x03 (scratchInfo la.2 la.1) s
    | none =>
      let o : Op := { kind := .load, vres := (lanesOf (s.helpersOf s.execLanes)).flatMap fun l =>
        (regRun d.toNat n).map fun r => (r, l, 0) }
      .ok (s.startOp (las.foldl (fun o r => o.result r.1 (regRun d.toNat n) (s.const (r.2 % 65536) n)) o))) s

/-! ### Atomics (R245 to R250) -/

/-- Is an access of n bytes on a synchronisation object that the region binding table of the context binds: does it read or write the 4 bytes
of one (R393, R394)? -/
def State.isBound (s : State) (scr : Bool) (a n : Nat) : Bool :=
  (s.ctxOf s.fn s.ctx).binds.any fun e => e.2.valid && e.2.objScr == scr && decide (a ≤ e.2.obj ∧ e.2.obj + 4 ≤ a + n)

/-- The operand of a lane, and for CAS the new value: registers d.. and d + w/32.. -/
def atomOperand (g : Group) (d l : Nat) (wide : Bool) : Nat := if wide then (g.getVP d l).toNat else (g.getV d l).toNat
def atomSecond (g : Group) (d l : Nat) (wide : Bool) : Nat :=
  if wide then (g.getVP (d + 2) l).toNat else (g.getV (d + 1) l).toNat

/-- Does a host range reached over PCIe carry the operation (R250)? Accesses to an MMIO window go as TLPs under CXL too (R380). -/
def pcieCarries : AtomOp → Bool
  | .add | .exch | .cas => true
  | _ => false
def overPcie (s : State) (pa : Nat) : Bool := s.hostTlp pa

/-- A host completer's refusal of a carried operation: the lane, the trap code and TRAPINFO (R377, R381). -/
def pcieRefusal (s : State) (r : Nat × Nat × Nat) : Option (Nat × Nat × DWord) :=
  if overPcie s r.2.2 && Config.hostAtomic r.2.2 != 0 then
    some (r.1, 0x12, infoAt r.2.1 r.1 ||| (if Config.hostAtomic r.2.2 = 2 then 1 <<< 63 else 0))
  else none

/-- What an atomic waits for: buffered stores of its lanes, and lines that the host holds (R379). One to a held page goes to its home and waits
there (R344). -/
def atomReady (n : Nat) (s : State) (rs : List (Nat × Nat × Reach)) : State × Bool :=
  match drainHits (hitGlobal n rs) s with
  | (t, false) => (t, false)
  | (t, true) =>
    if (localsOf rs).all fun r => t.heldPage r.2.2 || t.canWrite r.2.2 then (t, true)
    else ((localsOf rs).foldl (fun t r => t.snoop r.2.2) t, false)

/-- A trap at issue for an operation that PCIe does not carry; nothing is performed (R250). -/
def pcieBad (s : State) (carried : Bool) (rs : List (Nat × Nat × Reach)) : Option (Nat × DWord) :=
  if carried then none
  else ((localsOf rs).find? fun r => overPcie s r.2.2).map fun r => (0x12, infoAt r.2.1 0)

/-- The message of a remote atomic, or what one asks of a home that holds its page: for CAS the operand is the new value. -/
def atomRequest (o : AtomOp) (d : Nat) (wide : Bool) (g : Group) (l : Nat) : RemoteOp :=
  .atomic o (if wide then 8 else 4) (if o = .cas then atomSecond g d l wide else atomOperand g d l wide) (atomOperand g d l wide)

/-- ATOM at local memory, lane by lane, each its own atomic (R246): the old values become results; id is the operation, which waits for
the lanes whose pages are held (R344). -/
def atomLocal (o : AtomOp) (d : Nat) (wide : Bool) (g : Group) (fn id : Nat) :
    List (Nat × Nat × Nat) → State → Op → State × Op
  | [], s, op => (s, op)
  | r :: t, s, op =>
    let n := if wide then 8 else 4
    if s.heldPage r.2.2 then
      atomLocal o d wide g fn id t
        (s.holdReq { pa := r.2.2, op := atomRequest o d wide g r.1, who := .lane id r.1 (regRun d n), fn := fn })
        { op with remote := op.remote + 1 }
    else if (pcieRefusal s r).isSome then atomLocal o d wide g fn id t s op
    else
      let x := s.rdNum r.2.2 n
      let s' := s.wr fn r.2.2 (toBytes n (atomNew o (8 * n) x (atomOperand g d r.1 wide) (atomSecond g d r.1 wide)))
      atomLocal o d wide g fn id t (s'.markMmio s.focus.blk s.focus.grp r.2.2) (op.result r.1 (regRun d n) (toBytes n x))

/-- ATOM in scratch. -/
def atomScratch (o : AtomOp) (d : Nat) (wide : Bool) (g : Group) : List (Nat × Nat) → State → Op → State × Op
  | [], s, op => (s, op)
  | r :: t, s, op =>
    let n := if wide then 8 else 4
    let x := ofBytes (s.seenScr r.2 n)
    let s' := s.writeScr s.focus.blk r.2 (toBytes n (atomNew o (8 * n) x (atomOperand g d r.1 wide) (atomSecond g d r.1 wide)))
    atomScratch o d wide g t s' (op.result r.1 (regRun d n) (toBytes n x))

/-- ATOM (R246, R247): on a bound word it is a release before its read and an acquire after its write; a release at sys scope reads the
MMIO windows written (R380). After a FENCE or a REL of its group its write is a release (R395). -/
def doAtom (d a : Nat) (o : AtomOp) (scr wide sys : Bool) (s : State) : Eff :=
  let n := if wide then 8 else 4
  let las := laneAddrs s fun l => s.addrFA a l scr
  let bound := las.any fun r => s.isBound scr r.2 n
  let flush := fun (t : State) => if (bound && sys) || decide (s.grp.fenced = 5) then mmioFlush t else t
  if (bound && !fenceReady s) || (s.grp.fenced != 0 && (!s.grp.sb.isEmpty || s.atomsOut s.focus.blk s.focus.grp)) then .later s
  else
    let op : Op := { kind := .atomic, acq := if bound then 1 else 0 }
    if scr then
      scratchAccess n las (drainHits (hitScratch n las)) (fun t =>
        match atomScratch o d wide s.grp las (flush t) op with
        | (t, op) => t.startOp op) s
    else
      globalAccess .atomic n las (pcieBad s (pcieCarries o)) (atomReady n) (fun t rs =>
        let bad := failsOf rs ++ (localsOf rs).filterMap (pcieRefusal t)
        match atomLocal o d wide s.grp t.fn t.nextId (localsOf rs) (flush t)
            { op with remote := (remotesOf rs).length, fail := (lowestFail bad).map (·.2) } with
        | (t, op) =>
          let t := t.startOp op
          (remotesOf rs).foldl (fun u r => u.sendRemote (some t.lastOp) none none r.1 r.2.1 r.2.2
            (atomRequest o d wide s.grp r.1) (regRun d n)) t) s

def execAtom (d a : BitVec 8) (o : AtomOp) (p w : Bool) (sc : Scope) (s : State) : Host.Outcome State Fault Refusal :=
  issue (.atom d a o p w sc) true (doAtom d.toNat a.toNat o p w (sc = .sys)) s

/-- The update of one lane of RED, in scratch or at a physical address. -/
def redWrite (o : AtomOp) (wide scr : Bool) (lane at_ : Nat) (vs : List Nat) : SbWrite :=
  { lane := lane, scr := scr, at_ := at_, bytes := [], rmw := some (o, if wide then 64 else 32, vs) }

/-- RED and SCATADD at the addresses of the lanes: combine says how the accesses become updates. -/
def doUpdate (a : Nat) (scr wide carried : Bool) (perform : List (Nat × Nat × Reach) → State → State)
    (scratch : List (Nat × Nat) → List SbWrite) (s : State) : Eff :=
  let n := if wide then 8 else 4
  let las := laneAddrs s fun l => s.addrFA a l scr
  if s.sbFull then .later s
  else if scr then
    scratchAccess n las (fun t => (t, true)) (fun t => if las.isEmpty then t else t.pushSb (scratch las) none) s
  else
    globalAccess .atomic n las (pcieBad s carried) storeReady (fun t rs => perform rs t) s

/-- The lanes whose carried operation the completer refuses, and the others, which go on (R381). -/
def refuseLanes (rs : List (Nat × Nat × Reach)) (s : State) : List (Nat × Nat × DWord) × List (Nat × Nat × Reach) :=
  ((localsOf rs).filterMap (pcieRefusal s),
   rs.filter fun r => match r.2.2 with | .ok pa => (pcieRefusal s (r.1, r.2.1, pa)).isNone | _ => true)

/-- RED (R248): each lane's update is a separate atomic, in ascending lane order. -/
def execRed (d a : BitVec 8) (o : AtomOp) (p w : Bool) (sc : Scope) (s : State) : Host.Outcome State Fault Refusal :=
  issue (.red d a o p w sc) true (fun s =>
    let v := fun l => atomOperand s.grp d.toNat l w
    doUpdate a.toNat p w (pcieCarries o)
      (fun rs t =>
        match refuseLanes rs t with
        | (bad, rs) => storePerform bad rs (fun l pa => redWrite o w false l pa [v l]) t)
      (fun las => las.map fun r => redWrite o w true r.1 r.2 [v r.1]) s) s

/-- SCATADD (R249): one atomic for each distinct address, with the operands of its lanes in ascending order. -/
def execScatadd (d a : BitVec 8) (o : AtomOp) (p w : Bool) (sc : Scope) (s : State) : Host.Outcome State Fault Refusal :=
  issue (.scatadd d a o p w sc) true (fun s =>
    let v := fun l => atomOperand s.grp d.toNat l w
    doUpdate a.toNat p w false
      (fun rs t =>
        let key := fun (r : Nat × Nat × Reach) => r.2.2
        let ops := fun (r : Nat × Nat × Reach) => (rs.filter fun q => key q == key r).map fun q => v q.1
        let first := rs.filter fun r => (rs.find? fun q => key q == key r) == some r
        let lanes := fun l => match first.find? fun r => r.1 == l with | some r => ops r | none => []
        storePerform [] first (fun l pa => redWrite o w false 96 pa (lanes l)) t)
      (fun las =>
        let first := las.filter fun r => (las.find? fun q => q.2 == r.2) == some r
        first.map fun r => redWrite o w true 96 r.2 ((las.filter fun q => q.2 == r.2).map fun q => v q.1)) s) s

end Sys2Proof.Machine
end

