-- ==== Sys2Proof/Machine/Pantry.lean ====
section
/-! DEFINITION. The Pantry (spec/13_pantry.md R349 to R363): walks, pages, the change log, and the instructions. A lane's walk is
performed whole when its instruction issues; its results reach the registers when the walker has finished (R360). A lane that must wait (for a
ring slot, a held page, a line of the host's, another module) leaves nothing behind, and goes on from its start (R363). -/

namespace Sys2Proof.Machine

/-- What ends a lane's walk: a trap of R362, an access beyond the window bays (R218), a remote failure (R376), a parking, or a wait, with what
is done all the same. -/
inductive KvStop where
  | lane (code : Nat) (info : Nat)
  | window (va : Nat)
  | far (code va : Nat)
  | fault (va reason acc : Nat) (poison : Bool)
  | wait (keep : State → State)

/-- A walk: a computation over the state that may stop. -/
abbrev Kv := ExceptT KvStop (StateM State)

/-- A field of the function's configuration block (R349), and fields derived from it. -/
def State.pan (s : State) (off n : Nat) : Nat := getNum (s.fnOf s.fn).pantry off n
def State.panTpp (s : State) : Nat := 16 * 2 ^ (s.pan 0x18 1 % 4)
def State.panSlot (s : State) : Nat := s.pan 0x1A 2 * 64
def State.panOn (s : State) : Bool := bitOf (s.pan 0x1C 1) 0

/-- End the lane (R354, R362): reason 1 to 7 with the shelf index or the handle. -/
def kvFail {α : Type} (r x : Nat) : Kv α := throw (.lane 0x06 (r * 2 ^ 8 + x % 2 ^ 32 * 2 ^ 32))

/-- Where an access of a walk goes: this module, or another one. -/
inductive KvAt where
  | here (pa : Nat)
  | far (pa : Nat)

/-- What an access of a walk meets (R218, R227, R230, R376, R386). -/
def kvMeet (va : Nat) (acc : AccType) : Reach → Kv KvAt
  | .ok pa => return .here pa
  | .remote pa => return .far pa
  | .fault r => throw (.fault va r acc.code false)
  | .poison => throw (.fault va 0 acc.code true)
  | .protect => throw (.window va)
  | .fail c => throw (.far c va)
  | .wait => throw (.wait id)

/-- One access of a walk in context Ctx, through the issuing core (R218, R349, R376). -/
def kvReach (va n : Nat) (acc : AccType) : Kv KvAt := do
  let s ← get
  match s.translate s.blk.die (some s.blk.core) s.fn (s.pan 0x19 1) va acc with
  | (t, .error r) => do set t; kvMeet va acc (State.missed r)
  | (t, .ok pa) => do
    set t
    kvMeet va acc (t.reachPa t.fn pa n (decide (acc ≠ .write)))

/-- The answer of another module (R371, R376, R385). -/
def kvAnswer (pa va : Nat) (acc : AccType) (req : RemoteOp) : Kv (List Byte) := do
  let s ← get
  match s.farDo s.fn pa req with
  | (t, a) => do
    set t
    match a with
    | some (0, bs) => return bs
    | some (7, _) => throw (.fault va 0 acc.code true)
    | some (c, _) => throw (.far c va)
    | none => throw (.wait id)

/-- Read n bytes of a record as a number. -/
def kvRead (va n : Nat) : Kv Nat := do
  match ← kvReach va n .read with
  | .here pa => do
    modify fun s => s.tlpRead pa n
    let s ← get
    return s.rdNum pa n
  | .far pa => return ofBytes (← kvAnswer pa va .read (.read n))

/-- Write n bytes in this module (R354): a line of the host's is called back first (R379), a held page is waited for (R344). -/
def kvPut (pa n v : Nat) : Kv Unit := do
  let s ← get
  if s.canWrite pa then set (s.wr s.fn pa (toBytes n v))
  else throw (.wait fun s => (s.snoop pa).noteWord pa)
def kvWrite (va n v : Nat) : Kv Unit := do
  match ← kvReach va n .atomic with
  | .here pa => kvPut pa n v
  | .far pa => do
    let _ ← kvAnswer pa va .atomic (.write (toBytes n v))

/-- An update of n bytes as one atomic at mod scope, from what the walk has read of them to v (R354): in another module it is a compare-and-swap, and
where the bytes have changed since the lane's walk is made afresh. -/
def kvUpdate (from_ va n old v : Nat) : Kv Unit := do
  match ← kvReach va n .atomic with
  | .here pa => kvPut pa n v
  | .far pa => do
    let was ← kvAnswer pa va .atomic (.atomic .cas n v old)
    if ofBytes was = old then return ()
    else do
      modify fun s => s.ask (.again from_)
      throw (.wait id)

/-- Append a record to the shelf-change log, where it is on (R359). -/
def kvLog (x kind v : Nat) : Kv Unit := do
  let s ← get
  if bitOf (s.pan 0x88 1) 7 then
    let w := (s.fnOf s.fn).logWrite
    let a := s.pan 0x80 8 + 16 * (w % 2 ^ (s.pan 0x88 1 % 32))
    kvWrite a 8 (x % 2 ^ 32 + kind * 2 ^ 32)
    kvWrite (a + 8) 8 v
    modify fun s => s.modFn s.fn fun f => { f with logWrite := f.logWrite + 1 }

/-- Sequence h and shelf x (R351, R352): their records as numbers. -/
def seqAt (s : State) (h : Nat) : Nat := s.pan 0x00 8 + 128 * h
def shelfAt (s : State) (x : Nat) : Nat := s.pan 0x08 8 + 64 * x
def shStart (sh : Nat) : Nat := bits sh 31 0
def shLength (sh : Nat) : Nat := bits sh 63 32
def shParent (sh : Nat) : Nat := bits sh 95 64
def shOverflow (sh : Nat) : Nat := bits sh 191 160
def shRef (sh : Nat) : Nat := bits sh 207 192
def shVf (sh : Nat) : Nat := bits sh 215 208
def shFlags (sh : Nat) : Nat := bits sh 223 216

/-- Is a shelf malformed or foreign, whatever its place in a path (R354 reason 3, R361)? -/
def shBad (s : State) (sh : Nat) : Bool :=
  !bitOf (shFlags sh) 5 || shVf sh != s.fn || decide (shFlags sh ≥ 64) || bits sh 511 448 != 0 ||
    decide (shStart sh + shLength sh > 0xFFFFFFFF)

/-- Count one page more or less of a tier; a pending reclaim that has reached its target is over (R350, R357). -/
def recTier (v : Word) : Nat := bits v.toNat 29 28
def recPending (v : Word) : Bool := v.getLsbD 30
def settleRecl (f : Fn) : Fn :=
  if recPending f.pantryRecl && decide (f.inUse.get 0 (recTier f.pantryRecl) ≤ bits f.pantryRecl.toNat 27 0) then
    { f with pantryRecl := f.pantryRecl &&& ~~~(1#32 <<< 30) }
  else f
def setInUse (t : Nat) (g : Nat → Nat) (s : State) : State :=
  s.modFn s.fn fun f => settleRecl { f with inUse := f.inUse.set t (g (f.inUse.get 0 t)) }

/-- The address of page entry j of a shelf (R353): none where its chain has no slot for it. -/
def chainBlock (j : Nat) : Nat → Nat → Kv (Option Nat)
  | 0, blk => do
    let s ← get
    return if blk ≥ s.pan 0x14 4 then none else some (shelfAt s blk + 4 * ((j - 6) % 15))
  | n + 1, blk => do
    let s ← get
    if blk ≥ s.pan 0x14 4 then return none
    else
      let next ← kvRead (shelfAt s blk + 0x3C) 4
      chainBlock j n next
def entryAt (x j sh : Nat) : Kv (Option Nat) := do
  let s ← get
  if j < 6 then return some (shelfAt s x + 0x20 + 4 * j) else chainBlock j ((j - 6) / 15) (shOverflow sh)

/-- Is a page entry absent (R353)? -/
def absent (e : Nat) : Bool := e % 2 ^ 30 == 0x3FFFFFFF

/-- The free ring of a tier (R349, R355). -/
def ringAt (s : State) (t : Nat) : Nat := s.pan (0x28 + 24 * t) 8
def ringSlot (s : State) (t z i : Nat) : Nat := ringAt s t + 0x40 + 4 * (i % 2 ^ z)

/-- Push page n to tier t's ring (R355). -/
def kvPush (w t n : Nat) : Kv Unit := do
  let r := ringAt (← get) t
  let tail ← kvRead (r + 8) 8
  let z ← kvRead (r + 16) 1
  kvUpdate w (r + 8) 8 tail (tail + 1)
  kvWrite (ringSlot (← get) t z tail) 4 n

/-- Allocate(x, j, t) for the absent entry e at address a (R356), with a pop (R355): the entry that was made. The pop is made once a page stands in
the slot that Head names (DESIGN CHOICE, log 86); without Head < Tail no pop is made. -/
def kvAllocate (w x j t a e : Nat) : Kv Nat := do
  let s ← get
  let r := ringAt s t
  let head ← kvRead r 8
  let tail ← kvRead (r + 8) 8
  let z ← kvRead (r + 16) 1
  let f := s.fnOf s.fn
  let used := f.inUse.get 0 t
  let quota := s.pan (0x30 + 24 * t) 4
  if tail = head then throw (.lane 0x11 (t * 2 ^ 8 + 2 ^ 12))
  else if used ≥ quota + s.pan (0x34 + 24 * t) 4 ∨ (used ≥ quota ∧ recPending f.pantryRecl ∧ recTier f.pantryRecl = t) then
    throw (.lane 0x11 (t * 2 ^ 8))
  else if head > tail then throw (.wait id)
  else
    let n ← kvRead (ringSlot s t z head) 4
    if n = 0xFFFFFFFF then throw (.wait id)
    else
      kvUpdate w r 8 head (head + 1)
      modify (setInUse t (· + 1))
      kvWrite (ringSlot s t z head) 4 0xFFFFFFFF
      let e' := t * 2 ^ 30 + n % 2 ^ 30
      kvUpdate w a 4 e e'
      kvLog x 2 (e' + j % 2 ^ 32 * 2 ^ 32)
      let fl ← kvRead (shelfAt (← get) x + 0x1B) 1
      kvUpdate w (shelfAt (← get) x + 0x1B) 1 fl (fl ||| 2 ^ t)
      return e'

/-- Slot(x, pos, wr) (R354). -/
def kvSlot (w x pos sh tier : Nat) (wr : Bool) : Kv Nat := do
  let s ← get
  if wr ∧ shRef sh ≠ 1 then kvFail 5 x
  else
    let tpp := s.panTpp
    let j := (pos - shStart sh) / tpp
    match ← entryAt x j sh with
    | none => kvFail 6 x
    | some a =>
      let e ← kvRead a 4
      let e ← if absent e then (if wr then kvAllocate w x j tier a e else kvFail 6 x) else pure e
      return (s.pan (0x20 + 24 * (e / 2 ^ 30)) 8 + e % 2 ^ 30 * (tpp * s.panSlot) +
        (pos - shStart sh) % tpp * s.panSlot) % 2 ^ 64

/-- The path of a sequence from a shelf on (R354): expect and prev are what Start and Parent must be. -/
def kvPath (w h pos tier : Nat) (wr : Bool) : List Nat → Nat → Nat → Kv Nat
  | [], _, _ => kvFail 4 h
  | x :: rest, expect, prev => do
    let s ← get
    if x ≥ s.pan 0x14 4 then kvFail 3 x
    else
      let sh ← kvRead (shelfAt s x) 64
      if shBad s sh ∨ shParent sh ≠ prev ∨ shStart sh ≠ expect then kvFail 3 x
      else if bitOf (shFlags sh) 4 then throw (.lane 0x10 (x * 2 ^ 32))
      else if pos < shStart sh + shLength sh then kvSlot w x pos sh tier wr
      else if wr ∧ rest.isEmpty ∧ pos = shStart sh + shLength sh then
        if shRef sh ≠ 1 then kvFail 5 x
        else do
          kvUpdate w (shelfAt s x + 4) 4 (shLength sh) (shLength sh + 1)
          kvLog x 1 (shLength sh + 1)
          kvSlot w x pos sh tier wr
      else kvPath w h pos tier wr rest (shStart sh + shLength sh) x

/-- Resolve(h, pos, wr) (R354). -/
def kvResolve (h pos : Nat) (wr : Bool) : Kv Nat := do
  let s ← get
  if !s.panOn ∨ h ≥ s.pan 0x10 4 then kvFail 1 h
  else
    let q ← kvRead (seqAt s h) 128
    let depth := bits q 7 0
    if depth = 0 ∨ depth > 16 ∨ bits q 15 8 > 3 ∨ bits q 511 16 ≠ 0 then kvFail 2 h
    else kvPath s.farPos h pos (bits q 15 8) wr ((List.range depth).map fun i => bits q (512 + 32 * i + 31) (512 + 32 * i)) 0 0xFFFFFFFF

/-- The checks of KVPIN and KVREL (R361), with the shelf that passes them. -/
def kvShelf (x : Nat) : Kv Nat := do
  let s ← get
  if !s.panOn then kvFail 1 x
  else if x ≥ s.pan 0x14 4 then kvFail 3 x
  else
    let sh ← kvRead (shelfAt s x) 64
    if shBad s sh then kvFail 3 x else return sh

/-- KVPIN of one lane. -/
def kvPin (x : Nat) : Kv Nat := do
  let w := (← get).farPos
  let sh ← kvShelf x
  let s ← get
  if shRef sh = 65535 then kvFail 7 x
  else
    kvUpdate w (shelfAt s x + 0x18) 2 (shRef sh) (shRef sh + 1)
    kvLog x 3 (shRef sh + 1)
    return shRef sh

/-- Give the page of a present entry back to its ring, and mark the entry absent (R355, R361). -/
def kvGiveBack (w x j a : Nat) : Kv Unit := do
  let e ← kvRead a 4
  if absent e then return ()
  else
    let t := e / 2 ^ 30
    kvPush w t (e % 2 ^ 30)
    modify (setInUse t (· - 1))
    let e' := t * 2 ^ 30 + 0x3FFFFFFF
    kvUpdate w a 4 e e'
    kvLog x 2 (e' + j % 2 ^ 32 * 2 ^ 32)

/-- The entries of a shelf's overflow chain from a block on; a chain visits no more blocks than the pool has. -/
def kvChain (w x : Nat) : Nat → Nat → Nat → Kv Unit
  | 0, _, _ => return ()
  | n + 1, j, blk => do
    let s ← get
    if blk ≥ s.pan 0x14 4 then return ()
    else
      for i in List.range 15 do kvGiveBack w x (j + i) (shelfAt s blk + 4 * i)
      let next ← kvRead (shelfAt s blk + 0x3C) 4
      kvChain w x n (j + 15) next

/-- KVREL of one lane. -/
def kvRel (x : Nat) : Kv Nat := do
  let w := (← get).farPos
  let sh ← kvShelf x
  let s ← get
  if shRef sh = 0 then kvFail 7 x
  else
    kvUpdate w (shelfAt s x + 0x18) 2 (shRef sh) (shRef sh - 1)
    kvLog x 3 (shRef sh - 1)
    if shRef sh = 1 then
      for j in List.range 6 do kvGiveBack w x j (shelfAt s x + 0x20 + 4 * j)
      kvChain w x (s.pan 0x14 4) 6 (shOverflow sh)
      kvWrite (shelfAt s x + 4) 4 0
      kvLog x 1 0
      kvUpdate w (shelfAt s x + 0x1B) 1 (shFlags sh) (shFlags sh - shFlags sh % 64)
      kvLog x 4 0
    return shRef sh - 1

/-! ### The instructions (R360, R361) -/

/-- Each lane's outcome in ascending order. A lane that parks leaves nothing behind; behind one that waits every later one waits. Where a lane
has to wait for another module all of it is (R371; log 71). -/
def kvLanes (f : Nat → Kv Nat) : List Nat → State → State × List (Nat × Except KvStop Nat)
  | [], s => (s, [])
  | l :: t, s =>
    match (f l).run.run s with
    | (.error (.wait keep), s') => (if s'.farAsk.isSome then s' else keep s, (l :: t).map fun l => (l, .error (.wait id)))
    | (r, s') =>
      match kvLanes f t (match r with | .error (.fault _ _ _ _) => { s with farPos := s'.farPos } | _ => s') with
      | (u, rs) => (u, (l, r) :: rs)

/-- The result registers of a lane: its value, or all ones where it failed; a lane whose access fails remotely keeps its old value (R376). -/
def kvWrites (d : Nat) (wide : Bool) (rs : List (Nat × Except KvStop Nat)) : List (Nat × Nat × Word) :=
  rs.flatMap fun r =>
    let put := fun (v : Nat) => if wide then [(d, r.1, BitVec.ofNat 32 v), (d + 1, r.1, BitVec.ofNat 32 (v / 2 ^ 32))]
      else [(d, r.1, BitVec.ofNat 32 v)]
    match r.2 with
    | .ok v => put v
    | .error (.lane _ _) | .error (.window _) => put (2 ^ 64 - 1)
    | .error _ => []

/-- The trap of a lane that failed (R218, R362). -/
def kvTrap : Nat × Except KvStop Nat → Option (Nat × Nat × DWord)
  | (l, .error (.lane c x)) => some (l, c, BitVec.ofNat 64 (x + l + 2 ^ 15))
  | (l, .error (.window va)) => some (l, 0x06, BitVec.ofNat 64 va)
  | _ => none

/-- The failure of the lowest lane, of those so far and of these. -/
def kvWorst (old : Option (Nat × Nat × DWord)) (l : List (Nat × Nat × DWord)) : Option (Nat × Nat × DWord) :=
  l.foldl (fun m x => match m with | some y => if x.1 < y.1 then some x else m | none => some x) old

/-- Is the lane still to be performed? -/
def kvOpen : Except KvStop Nat → Bool
  | .error (.fault _ _ _ _) | .error (.wait _) => true
  | _ => false

/-- What a Pantry instruction ends with, from its lanes' outcomes: u is the state after them, s the one before. Lanes that wait, or park, are
performed alone later (R227, R360); the trap of the lowest lane that failed follows the results of all. -/
def kvEnd (d : Nat) (wide : Bool) (s u : State) (rs : List (Nat × Except KvStop Nat)) : Eff :=
  let bad := kvWorst s.spl.kvFail (rs.filterMap kvTrap)
  let far := rs.findSome? fun r => match r.2 with | .error (.far c va) => some (c, infoAt va r.1) | _ => none
  let parks := rs.filterMap fun r => match r.2 with | .error (.fault va k a p) => some (va, k, p, a) | _ => none
  let todo := maskOf fun l => rs.any fun r => r.1 == l && kvOpen r.2
  let u := match far with
    | some (c, i) => u.addFail s.focus.blk s.focus.grp { code := c, info := i, stream := false }
    | none => u
  let write := fun (u : State) => u.modG fun g => { g with v := (kvWrites d wide rs).foldl (fun m w => m.set (vKey w.1 w.2.1) w.2.2) g.v }
  let keep := fun (u : State) => (write u).modS fun x => { x with kvFail := bad }
  if rs.any fun r => match r.2 with | .error (.wait _) => true | _ => false then .later ((keep u).modS fun x => { x with replay := some todo })
  else if !parks.isEmpty then
    let acc := fun va => match parks.find? fun p => p.1 == va with | some p => p.2.2.2 | none => 0
    match (keep u).parkIn (.split s.focus.blk s.focus.grp s.focus.ent) s.focus.blk (s.pan 0x19 1) acc (parks.map fun p => (p.1, p.2.1, p.2.2.1)) todo with
    | (id, u) => .park u id
  else
    match bad with
    | some b => .trap b.2.1 b.2.2 (write u)
    | none => .ok (u.startOp { kind := .pantry, vres := kvWrites d wide rs })

/-- A Pantry instruction: f is the walk of a lane. What its lanes ask of other modules is asked first (R371). -/
def pantryOp (i : Instr) (d : Nat) (wide : Bool) (f : State → Nat → Kv Nat) (s : State) : Host.Outcome State Fault Refusal :=
  issue i true (fun s =>
    if s.acqBusy then .later s
    else
      let t := s.drain s.focus.blk s.focus.grp
      if t.grp.sb.any fun e => !e.writes.isEmpty then .later t
      else
        match t.farSee (.split s.focus.blk s.focus.grp s.focus.ent) s.blk.die fun t => kvLanes (f s) (lanesOf s.execLanes) t with
        | (u, some rs) => kvEnd d wide s u rs
        | (u, none) => .later u) s

/-- KVX (R360). -/
def doKvx (a : Nat) (wr : Bool) (s : State) (l : Nat) : Kv Nat :=
  kvResolve (s.getV a l).toNat (s.getV (a + 1) l).toNat wr
def execKvxRd (d a : BitVec 8) (s : State) : Host.Outcome State Fault Refusal :=
  pantryOp (.kvxRd d a) d.toNat true (doKvx a.toNat false) s
def execKvxWr (d a : BitVec 8) (s : State) : Host.Outcome State Fault Refusal :=
  pantryOp (.kvxWr d a) d.toNat true (doKvx a.toNat true) s
/-- KVPIN and KVREL (R361). -/
def execKvpin (d a : BitVec 8) (s : State) : Host.Outcome State Fault Refusal :=
  pantryOp (.kvpin d a) d.toNat false (fun s l => kvPin (s.getV a.toNat l).toNat) s
def execKvrel (d a : BitVec 8) (s : State) : Host.Outcome State Fault Refusal :=
  pantryOp (.kvrel d a) d.toNat false (fun s l => kvRel (s.getV a.toNat l).toNat) s

/-- PANTRY_WALK_COMPLETE (R360): the walker has finished, the results are written and the instruction completes. -/
def execPantryWalkComplete (op : Nat) (s : State) : Host.Outcome State Fault Refusal :=
  .next (if (s.opOf op).kind = .pantry then s.finishOp op else s)

/-- PANTRYRECL_WRITE (R357): the record goes to the function's ring of die 0 (log 12). -/
def execPantryreclWrite (fn v : Nat) (s : State) : Host.Outcome State Fault Refusal :=
  .next (
    let f := s.fnOf fn
    if recPending f.pantryRecl && bitOf v 31 then s
    else
      let kept := v % 2 ^ 30
      if bitOf v 31 then
        let r : Word := BitVec.ofNat 32 (kept + 2 ^ 30)
        let s := s.modFn fn fun f => settleRecl { f with pantryRecl := r }
        s.event fn 0 0x08 0 0 0 fn 0 (bits v 29 28 + v % 2 ^ 28 * 2 ^ 32)
      else s.modFn fn fun f =>
        settleRecl { f with pantryRecl := BitVec.ofNat 32 (kept + if recPending f.pantryRecl then 2 ^ 30 else 0) })

end Sys2Proof.Machine
end

