-- ==== Sys2Proof/Machine/Sync.lean ====
section
/-! DEFINITION. Fences, objects, the region binding table and barriers (spec/15_consistency_sync.md R393 to R411;
spec/10_matrix_engine.md R281 to R283). Memory is performed in program order and stores leave the buffer in order, so that an
ordering instruction is the wait for what is outstanding (log 4). -/

namespace Sys2Proof.Machine

/-- The writes of the focused group that follow are releases at the scope of a code, or REL's on its object (R395); at sys scope the MMIO windows
written are read (R380). -/
def fenceFrom (c : BitVec 3) (s : State) : State :=
  (if c = 4 then mmioFlush s else s).modG fun g => { g with fenced := max g.fenced (c.toNat + 1) }

/-- FENCE (R399). -/
def execFence (c : BitVec 3) (s : State) : Host.Outcome State Fault Refusal :=
  issue (.fence c) false (fun s =>
    if fenceReady s then .ok (fenceFrom c s) else .later s) s

/-- SyncBindingFault (R403): reason and entry index. -/
def bindFault (s : State) (reason idx : Nat) : Eff := .trap 0x1A (BitVec.ofNat 64 (reason + idx % 64 * 16)) s

/-- The address of an object operand, and its TRAPINFO (R236, R400). -/
def objAddr (s : State) (a : BitVec 7) (scr : Bool) : Nat := if scr then (s.getS a.toNat).toNat else (s.getP a.toNat).toNat
def objInfo (x : Nat) (scr : Bool) : DWord := if scr then scratchInfo x 0 else globalInfo x 0

/-- The checks of ACQ and REL (R400), then what the instruction waits for. -/
def onObject (a : BitVec 7) (scr : Bool) (ready : State → Bool) (fin : State → State) (s : State) : Eff :=
  let x := objAddr s a scr
  if x % 4 ≠ 0 then .trap 0x03 (objInfo x scr) s
  else if !s.isBound scr x 4 then bindFault s 4 0
  else if ready s then .ok (fin s) else .later s

/-- ACQ holds every later access until the reads concerned are complete; REL until the covered writes are performed. -/
def execAcq (c : BitVec 3) (a : BitVec 7) (p : Bool) (s : State) : Host.Outcome State Fault Refusal :=
  issue (.acq c a p) false (onObject a p (fun s => !s.groupBusy s.focus.blk s.focus.grp [.load, .atomic]) id) s
def execRel (c : BitVec 3) (a : BitVec 7) (p : Bool) (s : State) : Host.Outcome State Fault Refusal :=
  issue (.rel c a p) false (onObject a p fenceReady (fenceFrom c)) s

/-- BIND (R401). -/
def execBind (d a b : BitVec 7) (s : State) : Host.Outcome State Fault Refusal :=
  issue (.bind d a b) false (fun s =>
    let w := (s.getS d.toNat).toNat
    let size := (s.getS (d.toNat + 1)).toNat
    let rs := bitOf w 6
    let os := bitOf w 7
    let base := objAddr s a rs
    let obj := objAddr s b os
    let idx := w % 64
    if w / 256 ≠ 0 then bindFault s 1 idx
    else if base % 128 ≠ 0 ∨ size = 0 ∨ size % 128 ≠ 0 ∨ base + size > (if rs then 2 ^ 32 else 2 ^ 56) then bindFault s 2 idx
    else if obj % 4 ≠ 0 then bindFault s 3 idx
    else
      let e : Bind := { valid := true, regionScr := rs, base := base, size := size, objScr := os, obj := obj }
      .ok (s.modCtx s.fn s.ctx fun c => { c with binds := c.binds.set idx e })) s

/-- UNBIND (R402). -/
def execUnbind (a : BitVec 7) (s : State) : Host.Outcome State Fault Refusal :=
  issue (.unbind a) false (fun s =>
    let w := (s.getS a.toNat).toNat
    if w / 64 ≠ 0 then bindFault s 1 (w % 64)
    else .ok (s.modCtx s.fn s.ctx fun c =>
      let e : Bind := c.binds.get {} (w % 64)
      { c with binds := c.binds.set (w % 64) { e with valid := false } })) s

/-! ### Barrier words (R404, R405) -/

/-- Replace bits hi to lo of a number. -/
def setBits (x hi lo v : Nat) : Nat := x - bits x hi lo * 2 ^ lo + v % 2 ^ (hi + 1 - lo) * 2 ^ lo

/-- Fields of a barrier word. -/
def bwExpected (w : Nat) : Nat := bits w 15 0
def bwPending (w : Nat) : Nat := bits w 31 16
def bwBytes (w : Nat) : Nat := bits w 79 32
def bwPhase (w : Nat) : Nat := bits w 80 80
def bwWaiters (w : Nat) : Nat := bits w 95 88
def bwScope (w : Nat) : Nat := bits w 98 96
def bwBound (w : Nat) : Bool := bitOf w 99
def bwIndex (w : Nat) : Nat := bits w 105 100

/-- Complete(W), where both counts are 0: the word, and whether its phase completed. -/
def bwComplete (w : Nat) : Nat × Bool :=
  if bwPending w = 0 ∧ bwBytes w = 0 then
    (setBits (setBits (setBits w 80 80 (1 - bwPhase w)) 31 16 (bwExpected w)) 95 88 0, true)
  else (w, false)

/-- Arrive(W, c, n): a reason of misuse, or the word and whether its phase completed. -/
def bwArrive (w c n : Nat) : Except Nat (Nat × Bool) :=
  if bwExpected w = 0 then .error 1
  else if bwScope w = 0 ∨ bwScope w > 4 then .error 5
  else if c > bwPending w then .error 2
  else if bwBytes w + n ≥ 2 ^ 48 then .error 6
  else .ok (bwComplete (setBits (setBits w 79 32 (bwBytes w + n)) 31 16 (bwPending w - c)))

/-- Credit(W, n). -/
def bwCredit (w n : Nat) : Except Nat (Nat × Bool) :=
  if n > bwBytes w then .error 3 else .ok (bwComplete (setBits w 79 32 (bwBytes w - n)))

namespace State

/-- Change every split of the module. -/
def mapSplits (s : State) (f : Nat → Split → Split) : State :=
  { s with blocks := s.blocks.map fun (b : Nat × Block) => (b.1, { b.2 with groups := b.2.groups.map fun (g : Nat × Group) =>
      (g.1, { g.2 with splits := g.2.splits.map fun (e : Nat × Split) => (e.1, f b.1 e.2) }) }) }

/-- The mark of a BARW that its phase has woken: the word, which issues again, then returns at once. -/
def woken : LaneMask := BitVec.allOnes 96

/-- Wake every split in BARW on a word, scratch words in their own block only. -/
def wakeWord (s : State) (b : Nat) (scr : Bool) (at_ : Nat) : State :=
  s.mapSplits fun c x =>
    if x.status == .waiting (.barWord scr at_) && (!scr || c == b) then { x with status := .ready, replay := some woken } else x

/-- Read and write the 16 bytes of a barrier word at a physical address or a scratch offset. A write waits for a cellar command that holds the page
(R344), for the host (R379) and for a channel (R340). -/
def bwRead (s : State) (b : Nat) (scr : Bool) (at_ : Nat) : Nat := if scr then s.scrNum b at_ 16 else s.rdNum at_ 16
def bwWrite (s : State) (b : Nat) (scr : Bool) (at_ w : Nat) : State :=
  if scr then s.writeScr b at_ (toBytes 16 w)
  else if s.heldPage at_ then s.ask .wait
  else (s.claim at_ 16).wr (s.gridOf (s.blkOf b).grid).fn at_ (toBytes 16 w)

/-- Write a word after an arrival or a credit, and wake its waiters when its phase completed. -/
def bwUpdate (s : State) (b : Nat) (scr : Bool) (at_ : Nat) (r : Nat × Bool) : State :=
  let s := s.bwWrite b scr at_ r.1
  if r.2 then s.wakeWord b scr at_ else s

/-- An arrival at a numbered barrier of a block (R282): a reason of misuse, or the new state. -/
def numArrive (s : State) (b n c : Nat) : Except Nat State :=
  let x := (s.blkOf b).bars.get {} n
  if x.expected = 0 then .error 1
  else if c > x.pending.toNat then .error 2
  else
    let p := x.pending - BitVec.ofNat 16 c
    if p = 0 then
      let s := s.modBlk b fun y =>
        { y with bars := y.bars.set n { x with pending := x.expected, phase := x.phase + 1 }, ms := { y.ms with waiting := false } }
      .ok (s.mapSplits fun d y =>
        if y.status == .waiting (.barNum n) && d == b then { y with status := .ready, replay := some woken } else y)
    else .ok (s.modBlk b fun y => { y with bars := y.bars.set n { x with pending := p } })

end State

/-! ### The barrier instructions (R407 to R411) -/

/-- TRAPINFO of BarrierMisuse (R407). -/
def misuseInfo (sp : BarSpace) (x reason : Nat) : DWord :=
  BitVec.ofNat 64 ((match sp with
    | .word => x % 2 ^ 56
    | .scr => x % 2 ^ 32 + 2 ^ 63
    | .num => x % 16 + 2 ^ 61) + reason * 2 ^ 56)
def misuse (s : State) (sp : BarSpace) (x reason : Nat) : Eff := .trap 0x17 (misuseInfo sp x reason) s

/-- The address that operand a names: a virtual address, a scratch offset or a barrier's number. -/
def barOperand (s : State) (sp : BarSpace) (a : BitVec 7) : Nat :=
  match sp with
  | .word => (s.getP a.toNat).toNat
  | .scr => (s.getS a.toNat).toNat
  | .num => a.toNat % 16

/-- Does an address of the issuing block translate to the host range (R407)? -/
def State.onHost (s : State) (va : Nat) : Bool :=
  match (s.translate s.blk.die (some s.blk.core) s.fn s.ctx va .atomic).2 with
  | .ok pa => s.rangeOf pa == .host
  | .error _ => false

/-- Checks 3 and 4 of R407 and the translation of a word, then the operation: at the state, the space and the place. -/
def onWord (sp : BarSpace) (x : Nat) (f : State → Bool → Nat → Eff) (s : State) : Eff :=
  if x % 16 ≠ 0 then .trap 0x03 (objInfo x (sp = .scr)) s
  else if sp = .scr ∧ x + 16 > s.scrBytes s.focus.blk then .trap 0x04 (scratchInfo x 0) s
  else if s.acqBusy then .later s
  else if sp = .scr then f s true x
  else
    match s.reach s.blk x 16 .atomic with
    | (t, .ok pa) =>
      if t.rangeOf pa == .hbm || t.rangeOf pa == .window || t.rangeOf pa == .expander then
        if t.canWrite pa then f t false pa else .later ((t.snoop pa).noteWord pa)
      else .trap 0x06 (globalInfo x 0) t
    | (t, .remote _) => .trap 0x06 (globalInfo x 0) t
    | (t, .protect) => .trap 0x06 (globalInfo x 0) t
    | (t, .wait) => .later t
    | (t, .fail c) => if c = 0x06 || s.onHost x then .trap 0x06 (globalInfo x 0) t
      else .ok (t.addFail t.focus.blk t.focus.grp { code := c, info := globalInfo x 0, stream := false })
    | (t, .fault r) =>
      match t.parkSplit .atomic [(x, r, false)] 0 with
      | (id, u) => .park u id
    | (t, .poison) =>
      match t.parkSplit .atomic [(x, 0, true)] 0 with
      | (id, u) => .park u id

/-- Does a word with Bound 1 name an entry that is invalid or holds another object (R407)? -/
def bindBad (s : State) (scr : Bool) (x idx : Nat) : Bool :=
  let e := (s.ctxOf s.fn s.ctx).binds.get {} idx
  !(e.valid && e.objScr == scr && e.obj == x)

/-- BARI (R408). -/
def execBari (sp : BarSpace) (a b : BitVec 7) (s : State) : Host.Outcome State Fault Refusal :=
  issue (.bari sp a b) false (fun s =>
    let x := barOperand s sp a
    let v := (s.getS b.toNat).toNat
    if sp = .num then
      if s.acqBusy then .later s
      else .ok (s.modB fun y =>
        let n : NumBar := y.bars.get {} x
        { y with bars := y.bars.set x { n with expected := BitVec.ofNat 16 v, pending := BitVec.ofNat 16 v } })
    else onWord sp x (fun s scr at_ =>
      let sc := bits v 18 16
      if v / 2 ^ 26 ≠ 0 ∨ sc = 0 ∨ sc > 4 ∨ (scr ∧ sc ≠ 1) then misuse s sp x 5
      else if bitOf v 19 && bindBad s scr x (bits v 25 20) then bindFault s 5 (bits v 25 20)
      else
        let w := s.bwRead s.focus.blk scr at_
        let w := setBits (setBits (setBits w 31 0 (v % 2 ^ 16 * (2 ^ 16 + 1))) 79 32 0) 105 96 (bits v 25 16)
        .ok (s.bwWrite s.focus.blk scr at_ w)) s) s

/-- An arrival of count c and n bytes, after the release it carries (R380, R405, R409). The checks of R407 come
before the count's; zero says that a count of 0 may pass, as for BART. -/
def doArrive (sp : BarSpace) (d a : BitVec 7) (zero : Bool) (c n : Nat) (s : State) : Eff :=
  let x := barOperand s sp a
  if sp = .num then
    if !zero && c == 0 then misuse s sp x 4
    else if !fenceReady s then .later s
    else
      match s.numArrive s.focus.blk x c with
      | .error r => misuse s sp x r
      | .ok t => .ok (t.setS d.toNat ((s.blk.bars.get {} x).phase.zeroExtend 32))
  else onWord sp x (fun s scr at_ =>
    let w := s.bwRead s.focus.blk scr at_
    if bwBound w && bindBad s scr x (bwIndex w) then bindFault s 5 (bwIndex w)
    else if !zero && c == 0 then misuse s sp x 4
    else if !fenceReady s then .later s
    else
      match bwArrive w c n with
      | .error r => misuse s sp x r
      | .ok r =>
        let s := if bwScope w = 4 then mmioFlush s else s
        .ok ((s.bwUpdate s.focus.blk scr at_ r).setS d.toNat (BitVec.ofNat 32 (bwPhase w)))) s

def execBara (sp : BarSpace) (d a b : BitVec 7) (s : State) : Host.Outcome State Fault Refusal :=
  issue (.bara sp d a b) false (fun s => doArrive sp d a false ((s.getS b.toNat).toNat % 65536) 0 s) s

def execBart (sp : BarSpace) (d a b : BitVec 7) (s : State) : Host.Outcome State Fault Refusal :=
  issue (.bart sp d a b) false (fun s =>
    doArrive sp d a true ((s.getS b.toNat).toNat % 65536) (s.getS (b.toNat + 1)).toNat s) s

/-- BARW (R410): a split whose phase has not changed waits; woken, it issues the word again, which returns. -/
def execBarw (sp : BarSpace) (a b : BitVec 7) (s : State) : Host.Outcome State Fault Refusal :=
  issue (.barw sp a b) false (fun s =>
    let x := barOperand s sp a
    let tok := (s.getS b.toNat).toNat
    if s.spl.replay = some State.woken then .ok s
    else if sp = .num then
      let y := s.blk.bars.get {} x
      if s.acqBusy then .later s
      else if y.expected = 0 then misuse s sp x 1
      else if y.phase.toNat ≠ tok % 65536 then .ok s
      else .hold (.barNum x)
    else onWord sp x (fun s scr at_ =>
      let w := s.bwRead s.focus.blk scr at_
      if bwBound w && bindBad s scr x (bwIndex w) then bindFault s 5 (bwIndex w)
      else if bwExpected w = 0 then misuse s sp x 1
      else if bwPhase w ≠ tok % 2 then .ok s
      else .stall (s.bwWrite s.focus.blk scr at_ (setBits w 95 88 (min (bwWaiters w + 1) 255))) (.barWord scr at_)) s) s

/-- BARQ (R411): one snapshot of the word. -/
def execBarq (sp : BarSpace) (d a : BitVec 7) (s : State) : Host.Outcome State Fault Refusal :=
  issue (.barq sp d a) false (fun s =>
    let x := barOperand s sp a
    let put := fun (s : State) (v : Nat) =>
      (List.range 4).foldl (fun s k => s.setS (d.toNat + k) (BitVec.ofNat 32 (v / 2 ^ (32 * k)))) s
    if sp = .num then
      let y := s.blk.bars.get {} x
      if s.acqBusy then .later s
      else .ok (put s (y.pending.toNat * 2 ^ 16 + y.expected.toNat + y.phase.toNat * 2 ^ 64))
    else onWord sp x (fun s scr at_ => .ok (put s (s.bwRead s.focus.blk scr at_))) s) s

end Sys2Proof.Machine
end

