-- ==== Sys2Proof/Machine/Planes.lean ====
section
/-! DEFINITION. The planes of a bay in compute mode (spec/11_loft_compute.md R303 to R308, R310, R312): a plane is one bit of each
of the 262,144 lanes, and the lane arithmetic is done plane by plane. -/

namespace Sys2Proof.Machine

/-- The lanes of a bay (R303). -/
def bayLanes : Nat := 262144

/-- One plane: bit l is lane l. -/
abbrev Plane := BitVec 262144

/-- Fields of an operand word (R306). -/
def fBase (w : Word) : Nat := bits w.toNat 8 0
def fWidth (w : Word) : Nat := bits w.toNat 14 9 + 1
def fSigned (w : Word) : Bool := w.getLsbD 15
def fReserved (w : Word) : Bool := decide (w.toNat ≥ 2 ^ 16)

/-- Do two fields share a plane (R308)? -/
def fOverlap (x y : Word) : Bool := decide (fBase x < fBase y + fWidth y ∧ fBase y < fBase x + fWidth x)

/-- A value over every lane: its planes from bit 0, and what stands above them. -/
structure Wide where
  ps : List Plane
  sign : Plane

/-- Plane j of a value. -/
def Wide.bit (x : Wide) (j : Nat) : Plane := (x.ps[j]?).getD x.sign

/-- The value of a field (R307). -/
def Bay.field (b : Bay) (w : Word) : Wide :=
  let ps := (List.range (fWidth w)).map fun j => b.planes.get (fBase w + j)
  ⟨ps, if fSigned w then b.planes.get (fBase w + fWidth w - 1) else 0⟩

/-- The same 64-bit scalar in every lane, read as s64 or n64 (R319). -/
def scalarWide (sgn : Bool) (x : DWord) : Wide :=
  let full := fun (c : Bool) => if c then BitVec.allOnes 262144 else 0
  ⟨(List.range 64).map fun j => full (x.getLsbD j), full (sgn && x.getLsbD 63)⟩

/-- Rows of planes are written whole: their parity is sound again (R312). -/
def Bay.mend (b : Bay) (base n : Nat) (rows : BitVec 128) : Bay :=
  { b with bad := (List.range n).foldl (fun (m : Cells 128) p => m.set (base + p) (m.get (base + p) &&& ~~~rows)) b.bad }

/-- Write planes from a base, and clear their lost marks (R307, R312). -/
def Bay.put (b : Bay) (base : Nat) (ps : List Plane) : Bay :=
  { b with planes := ((List.range ps.length).zip ps).foldl (fun (m : Cells 262144) (p : Nat × Plane) => m.set (base + p.1) p.2) b.planes,
           lost := b.lost &&& ~~~(BitVec.ofNat 512 (2 ^ ps.length - 1) <<< base) }.mend base ps.length (BitVec.allOnes 128)

/-- The planes of which one of the rows given fails its parity (R312). -/
def Bay.badPlanes (b : Bay) (rows : BitVec 128) : BitVec 512 :=
  b.bad.foldl (fun (m : BitVec 512) (p : Nat × BitVec 128) => if p.2 &&& rows = 0 then m else m ||| (1#512 <<< p.1)) 0

/-- The subarrays whose rows hold lanes from l on, n of them (R303), and those of which they are all. -/
def rowsOf (l n : Nat) : BitVec 128 :=
  BitVec.ofNat 128 ((List.range 128).foldl (fun m k => m + if decide (2048 * k < l + n ∧ l < 2048 * k + 2048) then 2 ^ k else 0) 0)
def wholeRows (l n : Nat) : BitVec 128 :=
  BitVec.ofNat 128 ((List.range 128).foldl (fun m k => m + if decide (l ≤ 2048 * k ∧ 2048 * k + 2048 ≤ l + n) then 2 ^ k else 0) 0)

/-- Add plane by plane with a carry, n planes. -/
def addPlanes (x y : Nat → Plane) : Nat → Nat → Plane → List Plane
  | 0, _, _ => []
  | n + 1, j, c => (x j ^^^ y j ^^^ c) :: addPlanes x y n (j + 1) ((x j &&& y j) ||| (c &&& (x j ^^^ y j)))

/-- Multiply modulo 2^n: the partial products of bits j, j + 1, … added one by one. -/
def mulPlanes (n : Nat) (x y : Wide) : Nat → Nat → List Plane → List Plane
  | 0, _, acc => acc
  | k + 1, j, acc =>
    mulPlanes n x y k (j + 1)
      (addPlanes (fun i => (acc[i]?).getD 0) (fun i => if i < j then 0 else x.bit (i - j) &&& y.bit j) n 0 0)

/-- Planes 0 to n − 1 of a value computed by planes. -/
def planesOf (n : Nat) (f : Nat → Plane) : List Plane := (List.range n).map f

/-- The plane of the lanes in which x < y, both as exact integers of fewer than 67 bits. -/
def ltPlane (x y : Wide) : Plane :=
  let d := addPlanes x.bit (fun j => ~~~y.bit j) 68 0 (BitVec.allOnes 262144)
  (d[67]?).getD 0

/-- The plane of the lanes in which x = y. -/
def eqPlane (x y : Wide) : Plane :=
  (List.range 68).foldl (fun p j => p &&& ~~~(x.bit j ^^^ y.bit j)) (BitVec.allOnes 262144)

namespace State

def bayOf (s : State) (d b : Nat) : Bay := (s.dieOf d).bays.get {} b
def modBay (s : State) (d b : Nat) (f : Bay → Bay) : State :=
  s.modDie d fun x => { x with bays := x.bays.set b (f (x.bays.get {} b)) }

/-- May the first operation of a bay be performed now? An LBAY waits until MEMCFG.Busy is 0, and LBAYs are decided in arrival order
(R316); no other operation waits for more than its turn. -/
def jobMoves (s : State) (j : LoftJob) : Bool :=
  match j.form with
  | .lbay _ _ => !(s.dieOf j.die).memBusy && ((s.dieOf j.die).loft.find? fun k => match k.form with
      | .lbay _ _ => true | _ => false) == some j
  | _ => true

/-- Does an operation stand behind one of its group that its core's halt has stopped (R310, R313)? -/
def behindStopped (l : List LoftJob) (j : LoftJob) : Bool :=
  (l.takeWhile fun k => k.op != j.op).any fun k => k.stopped && k.bay == j.bay && k.blk == j.blk && k.grp == j.grp

/-- The first operation that has arrived at a bay and stands there (R310): one that its core's halt has stopped does not, nor a later one of its
group (R313). -/
def bayHead (s : State) (d b : Nat) : Option LoftJob :=
  (s.dieOf d).loft.find? fun j => j.bay == b && !j.stopped && !behindStopped (s.dieOf d).loft j

/-- Does the context of an operation own its bay? -/
def jobOwns (s : State) (j : LoftJob) : Bool :=
  let x := s.bayOf j.die j.bay
  x.mode == 2 && x.fn == j.fn && x.ctx == j.ctx

/-- Is a job an LFREE or an LBAY, which no halt stops (R313)? -/
def jobStays (j : LoftJob) : Bool := match j.form with | .lbay _ _ | .lfree _ => true | _ => false

/-- Is a job an LFREE? -/
def isLfree (j : LoftJob) : Bool := match j.form with | .lfree _ => true | _ => false

/-- Is the command of one operation ahead of that of another in an engine queue of their group (R318)? -/
def queuedBefore (s : State) (j k : LoftJob) : Bool :=
  j.blk == k.blk && j.grp == k.grp && (s.grpOf j.blk j.grp).eng.any fun e =>
    e.2.any (fun c => c.op == k.op && (c.kind == .lxin || c.kind == .lxout)) &&
      (e.2.takeWhile fun c => c.op != k.op).any fun c => c.op == j.op && (c.kind == .lxin || c.kind == .lxout)

/-- The operations, by their numbers, that must end before an LFREE can, given those that are known to: n rounds of those ahead at a bay or in an
engine queue (R310, R317, R318). -/
def awaitedN (s : State) (l : List LoftJob) : Nat → List Nat → List Nat
  | 0, ops => ops
  | n + 1, ops =>
    let ahead := fun (j : LoftJob) => l.any fun k => ops.contains k.op &&
      ((k.bay == j.bay && (l.takeWhile fun x => x.op != k.op).any fun x => x.op == j.op) || s.queuedBefore j k)
    s.awaitedN l n (dedup (ops ++ (l.filter ahead).map (·.op)))

/-- A block's core halts: its operations are stopped (R313), but for those that an LFREE waits for (R317; DESIGN CHOICE, log 83). -/
def stopLoft (s : State) (b : Nat) : State :=
  let halt := fun (l : List LoftJob) =>
    let awaited := s.awaitedN l l.length ((l.filter isLfree).map (·.op))
    l.map fun j => if j.blk == b && !jobStays j then { j with stopped := !awaited.contains j.op } else j
  { s with dies := s.dies.map fun (e : Nat × Die) => (e.1, { e.2 with loft := halt e.2.loft }) }

/-- A block resumes: its stopped operations are issued again, in their order and from their start (R313). -/
def reissueLoft (s : State) (b : Nat) : State :=
  let mine := fun (j : LoftJob) => j.blk == b && j.stopped
  let ops := s.dies.flatMap fun (e : Nat × Die) => (e.2.loft.filter mine).map (·.op)
  let anew := fun (c : EngCmd) =>
    if ops.contains c.op && (c.kind == .lxin || c.kind == .lxout) then { c with done := 0, asked := [], got := [] } else c
  let again := fun (l : List LoftJob) => (l.filter fun j => !mine j) ++ (l.filter mine).map fun j => { j with stopped := false }
  { s with dies := s.dies.map fun (e : Nat × Die) => (e.1, { e.2 with loft := again e.2.loft }) }.modBlk b fun x =>
    { x with groups := x.groups.map fun (g : Nat × Group) =>
        (g.1, { g.2 with eng := g.2.eng.map fun (e : Nat × List EngCmd) => (e.1, e.2.map anew) }) }

/-- Does a block still have operations that its halt does not stop (R313)? Its save waits for them. -/
def loftRuns (s : State) (b : Nat) : Bool := s.dies.any fun (e : Nat × Die) => e.2.loft.any fun j => j.blk == b && !j.stopped

/-- Is a Loft operation the next of its bay? -/
def atHead (s : State) (d bay op : Nat) : Bool :=
  match s.bayHead d bay with
  | some j => j.op == op
  | none => false

/-- A Loft operation has ended: it leaves its bay and completes for its flag with its scalar results (R310). -/
def endJob (s : State) (d op : Nat) (res : List (Nat × Word)) : State :=
  let s := s.modDie d fun x => { x with loft := x.loft.filter fun j => j.op != op }
  if s.ops.has op then { s with ops := s.ops.set op { s.opOf op with sres := res } }.finishOp op else s

/-- The planes of a field. -/
def fieldPlanes (w : Word) : BitVec 512 := BitVec.ofNat 512 (2 ^ fWidth w - 1) <<< fBase w

/-- TRAPINFO of a check that failed: the planes that it declares lost, and cause 0 or 1 (R326). -/
def checkInfo (bay : Nat) (lost : BitVec 512) (cause : Nat) : DWord :=
  let ps := (List.range 512).filter fun p => lost.getLsbD p
  BitVec.ofNat 64 (bay % 64 + ps.headD 0 * 2 ^ 6 + min (ps.length - 1) 63 * 2 ^ 15 + cause * 2 ^ 21)

/-- The planes that a parity error met while reading source fields in the subarrays given declares lost, with those of the destination (R312). -/
def parityLost (s : State) (d bay : Nat) (src : List Word) (rows : BitVec 128) (dst : BitVec 512) : Option (BitVec 512) :=
  let f := src.foldl (fun (m : BitVec 512) w => m ||| fieldPlanes w) 0 &&& (s.bayOf d bay).badPlanes rows
  if f = 0 then none else some (f ||| dst)

/-- Declare planes of a bay lost. -/
def losePlanes (s : State) (d bay : Nat) (m : BitVec 512) : State := s.modBay d bay fun b => { b with lost := b.lost ||| m }

/-- LoftDataError for an operation with a lost source plane (R312, R326, cause 2); none where no source plane is lost. -/
def lostInfo (s : State) (d bay : Nat) (src : List Word) : Option DWord :=
  let lost := (List.range 512).filter fun p => (s.bayOf d bay).lost.getLsbD p && src.any fun w =>
    decide (fBase w ≤ p ∧ p < fBase w + fWidth w)
  match lost with
  | [] => none
  | p :: _ => some (BitVec.ofNat 64 (bay % 64 + p * 2 ^ 6 + min (lost.length - 1) 63 * 2 ^ 15 + 2 * 2 ^ 21))

end State

end Sys2Proof.Machine
end

