-- ==== Sys2Proof/Machine/Vector.lean ====
section
/-! DEFINITION. How a vector instruction executes (spec/07_scalar_vector.md R179, R180): the type and register checks at
execution, every source read before any destination is written, and the arithmetic traps. -/

namespace Sys2Proof.Machine

/-- Do the type and the vector operands of a word keep R42, R103 and R183? -/
def vecOk (types rs : List Nat) (s : State) : Bool := types.contains s.spl.type && rs.all (s.vOk s.spl.type)

/-- A vector instruction that writes vD in each executing lane with f of the split, the group as it was and the lane. -/
def vecOp (i : Instr) (types rs : List Nat) (d : Nat) (f : Split → Group → Nat → Nat) (s : State) :
    Host.Outcome State Fault Refusal :=
  issue i false (fun s =>
    if vecOk types rs s then
      .ok (s.modG fun g => g.setVals s.spl.type d (lanesOf s.writeLanes) (f s.spl g))
    else .bad 0x01) s

/-- A vector instruction that ignores MODE.Type and writes the 32 bits of vD. -/
def vecOp32 (i : Instr) (d : Nat) (f : Split → Group → Nat → Word) (s : State) : Host.Outcome State Fault Refusal :=
  simple i (fun s => s.modG fun g => g.setVs d (lanesOf s.writeLanes) (f s.spl g)) s

/-- A vector instruction that writes predicate pD in each executing lane. -/
def vecPred (i : Instr) (types rs : List Nat) (d : Nat) (f : Split → Group → Nat → Bool) (s : State) :
    Host.Outcome State Fault Refusal :=
  issue i false (fun s =>
    if vecOk types rs s then .ok (s.modG fun g => g.setPs d (lanesOf s.writeLanes) (f s.spl g)) else .bad 0x01) s

/-! ### Arithmetic traps (R180) -/

/-- A result of one element: its bits, and whether a signed overflow of a division, a zero divisor and an invalid operation
arose. -/
abbrev ElemRes := Nat × Bool × Bool × Bool

def okElem (x : Nat) : ElemRes := (x, false, false, false)

/-- The bits of the elements of a lane in one register or pair. -/
def packRes (t : Nat) (rs : List ElemRes) : Nat := pack t fun i => ((rs[i]?).getD (okElem 0)).1

/-- The trap of an instruction whose elements met conditions, among the executing lanes that are neither dead nor helpers:
the lowest lane in which one that MODE enables arose. pc is the byte offset for a divider form. -/
def arithTrap (s : State) (pc : Option Nat) (c : Nat → List ElemRes) : Option (Nat × DWord) :=
  let x := s.spl
  let ov := fun l => (c l).any fun r => r.2.1
  let zd := fun l => (c l).any fun r => r.2.2.1
  let nv := fun l => (c l).any fun r => r.2.2.2
  let dz := fun l => x.trapDiv && (ov l || zd l)
  match (lanesOf s.execLanes).find? fun l => dz l || (x.trapInv && nv l) with
  | none => none
  | some l =>
    let at_ := match pc with | some p => p % 2 ^ 24 * 2 ^ 32 | none => 0
    some (if dz l then
        (0x09, BitVec.ofNat 64 (l + (if ov l then 256 else 0) + (if zd l then 512 else 0) + at_))
      else (0x0A, BitVec.ofNat 64 (l + at_)))

/-- A vector instruction whose elements may trap: its results are written, then the trap is taken (R49, R180). -/
def vecTrapping (long : Bool) (i : Instr) (types rs : List Nat) (d : Nat) (f : Split → Group → Nat → List ElemRes)
    (extra : State → Bool) (s : State) : Host.Outcome State Fault Refusal :=
  issue i long (fun s =>
    if vecOk types rs s && extra s then
      let r := f s.spl s.grp
      let u := s.modG fun g => g.setVals s.spl.type d (lanesOf s.writeLanes) fun l => packRes s.spl.type (r l)
      match arithTrap s none r with
      | some (c, info) => .trap c info u
      | none => .ok u
    else .bad 0x01) s

/-- The register writes of a result of a type for vD: one register, or a pair. -/
def vWrites (t d l v : Nat) : List (Nat × Nat × Word) :=
  if isPair t then [(d, l, BitVec.ofNat 32 v), (d + 1, l, BitVec.ofNat 32 (v / 2 ^ 32))] else [(d, l, BitVec.ofNat 32 v)]

/-- A divider form (R180, R185): it captures its results now and writes them when it completes; its trap waits for delivery H.
outs gives, for each lane, the destinations with their results; the conditions are those of the first. -/
def dividerOp (i : Instr) (types rs : List Nat) (outs : Split → Group → Nat → List (Nat × List ElemRes))
    (extra : State → Bool) (s : State) : Host.Outcome State Fault Refusal :=
  issue i true (fun t =>
    if vecOk types rs t && extra t then
      let r := outs t.spl t.grp
      let ty := t.spl.type
      let res := (lanesOf t.writeLanes).flatMap fun l => (r l).flatMap fun o => vWrites ty o.1 l (packRes ty o.2)
      .ok (t.startOp { kind := .divide, vres := res,
                       fail := arithTrap t (some s.spl.pc) fun l => ((r l).head?.map (·.2)).getD [] })
    else .bad 0x01) s

end Sys2Proof.Machine
end

