-- ==== Sys2Proof/Machine/Transc.lean ====
section
/-! DEFINITION. The exact transcendentals (spec/07_scalar_vector.md R192 to R194). The table entries are FP64 bit patterns:
each the real value of R193 rounded once with RNE, computed offline with exact rational arithmetic. -/

namespace Sys2Proof.Machine

/-- T2[i] = 2^(i/64), part 0. -/
def tabT20 : List Nat :=
  [0x3FF0000000000000, 0x3FF02C9A3E778061, 0x3FF059B0D3158574, 0x3FF0874518759BC8, 0x3FF0B5586CF9890F,
   0x3FF0E3EC32D3D1A2, 0x3FF11301D0125B51, 0x3FF1429AAEA92DE0, 0x3FF172B83C7D517B, 0x3FF1A35BEB6FCB75,
   0x3FF1D4873168B9AA, 0x3FF2063B88628CD6, 0x3FF2387A6E756238, 0x3FF26B4565E27CDD, 0x3FF29E9DF51FDEE1,
   0x3FF2D285A6E4030B, 0x3FF306FE0A31B715, 0x3FF33C08B26416FF, 0x3FF371A7373AA9CB, 0x3FF3A7DB34E59FF7,
   0x3FF3DEA64C123422, 0x3FF4160A21F72E2A, 0x3FF44E086061892D, 0x3FF486A2B5C13CD0, 0x3FF4BFDAD5362A27,
   0x3FF4F9B2769D2CA7, 0x3FF5342B569D4F82, 0x3FF56F4736B527DA, 0x3FF5AB07DD485429, 0x3FF5E76F15AD2148,
   0x3FF6247EB03A5585, 0x3FF6623882552225]
/-- T2[i] = 2^(i/64), part 1. -/
def tabT21 : List Nat :=
  [0x3FF6A09E667F3BCD, 0x3FF6DFB23C651A2F, 0x3FF71F75E8EC5F74, 0x3FF75FEB564267C9, 0x3FF7A11473EB0187,
   0x3FF7E2F336CF4E62, 0x3FF82589994CCE13, 0x3FF868D99B4492ED, 0x3FF8ACE5422AA0DB, 0x3FF8F1AE99157736,
   0x3FF93737B0CDC5E5, 0x3FF97D829FDE4E50, 0x3FF9C49182A3F090, 0x3FFA0C667B5DE565, 0x3FFA5503B23E255D,
   0x3FFA9E6B5579FDBF, 0x3FFAE89F995AD3AD, 0x3FFB33A2B84F15FB, 0x3FFB7F76F2FB5E47, 0x3FFBCC1E904BC1D2,
   0x3FFC199BDD85529C, 0x3FFC67F12E57D14B, 0x3FFCB720DCEF9069, 0x3FFD072D4A07897C, 0x3FFD5818DCFBA487,
   0x3FFDA9E603DB3285, 0x3FFDFC97337B9B5F, 0x3FFE502EE78B3FF6, 0x3FFEA4AFA2A490DA, 0x3FFEFA1BEE615A27,
   0x3FFF50765B6E4540, 0x3FFFA7C1819E90D8]
/-- T2[i] = 2^(i/64). -/
def tabT2 : List Nat := tabT20 ++ tabT21

/-- Lg[i] = log2(1 + i/128), part 0. -/
def tabLg0 : List Nat :=
  [0x0000000000000000, 0x3F86FE50B6EF0851, 0x3F96E79685C2D22A, 0x3FA11CD1D5133413, 0x3FA6BAD3758EFD87,
   0x3FAC4DFAB90AAB5F, 0x3FB0EB389FA29F9B, 0x3FB3AA2FDD27F1C3, 0x3FB663F6FAC91316, 0x3FB918A16E46335B,
   0x3FBBC84240ADABBA, 0x3FBE72EC117FA5B2, 0x3FC08C588CDA79E4, 0x3FC1DCD197552B7B, 0x3FC32AE9E278AE1A,
   0x3FC476A9F983F74D, 0x3FC5C01A39FBD688, 0x3FC70742D4EF027F, 0x3FC84C2BD02F03B3, 0x3FC98EDD077E70DF,
   0x3FCACF5E2DB4EC94, 0x3FCC0DB6CDD94DEE, 0x3FCD49EE4C325970, 0x3FCE840BE74E6A4D, 0x3FCFBC16B902680A,
   0x3FD0790ADBB03009, 0x3FD11307DAD30B76, 0x3FD1AC05B291F070, 0x3FD24407AB0E073A, 0x3FD2DB10FC4D9AAF,
   0x3FD37124CEA4CDED, 0x3FD406463B1B0449]
/-- Lg[i] = log2(1 + i/128), part 1. -/
def tabLg1 : List Nat :=
  [0x3FD49A784BCD1B8B, 0x3FD52DBDFC4C96B3, 0x3FD5C01A39FBD688, 0x3FD6518FE4677BA7, 0x3FD6E221CD9D0CDE,
   0x3FD771D2BA7EFB3C, 0x3FD800A563161C54, 0x3FD88E9C72E0B226, 0x3FD91BBA891F1709, 0x3FD9A802391E232F,
   0x3FDA33760A7F6051, 0x3FDABE18797F1F49, 0x3FDB47EBF73882A1, 0x3FDBD0F2E9E79031, 0x3FDC592FAD295B56,
   0x3FDCE0A4923A587D, 0x3FDD6753E032EA0F, 0x3FDDED3FD442364C, 0x3FDE726AA1E754D2, 0x3FDEF6D67328E220,
   0x3FDF7A8568CB06CF, 0x3FDFFD799A83FF9B, 0x3FE03FDA8B97997F, 0x3FE0809CF27F703D, 0x3FE0C10500D63AA6,
   0x3FE10113B153C8EA, 0x3FE140C9FAA1E544, 0x3FE18028CF72976A, 0x3FE1BF311E95D00E, 0x3FE1FDE3D30E8126,
   0x3FE23C41D42727C8, 0x3FE27A4C0585CBF8]
/-- Lg[i] = log2(1 + i/128), part 2. -/
def tabLg2 : List Nat :=
  [0x3FE2B803473F7AD1, 0x3FE2F56875EB3F26, 0x3FE3327C6AB49CA7, 0x3FE36F3FFB6D9162, 0x3FE3ABB3FAA02167,
   0x3FE3E7D9379F7016, 0x3FE423B07E986AA9, 0x3FE45F3A98A20739, 0x3FE49A784BCD1B8B, 0x3FE4D56A5B33CEC4,
   0x3FE510118708A8F9, 0x3FE54A6E8CA5438E, 0x3FE5848226989D34, 0x3FE5BE4D0CB51435, 0x3FE5F7CFF41E09AF,
   0x3FE6310B8F553048, 0x3FE66A008E4788CC, 0x3FE6A2AF9E5A0F0A, 0x3FE6DB196A76194A, 0x3FE7133E9B156C7C,
   0x3FE74B1FD64E0754, 0x3FE782BDBFDDA657, 0x3FE7BA18F93502E4, 0x3FE7F1322182CF16, 0x3FE82809D5BE7073,
   0x3FE85EA0B0B27B26, 0x3FE894F74B06EF8B, 0x3FE8CB0E3B4B3BBE, 0x3FE900E6160002CD, 0x3FE9367F6DA0AB2F,
   0x3FE96BDAD2ACB5F6, 0x3FE9A0F8D3B0E050]
/-- Lg[i] = log2(1 + i/128), part 3. -/
def tabLg3 : List Nat :=
  [0x3FE9D5D9FD5010B3, 0x3FEA0A7EDA4C112D, 0x3FEA3EE7F38E181F, 0x3FEA7315D02F20C8, 0x3FEAA708F58014D3,
   0x3FEADAC1E711C833, 0x3FEB0E4126BCC86C, 0x3FEB418734A9008C, 0x3FEB74948F5532DA, 0x3FEBA769B39E4964,
   0x3FEBDA071CC67E6E, 0x3FEC0C6D447C5DD3, 0x3FEC3E9CA2E1A055, 0x3FEC7095AE91E1C7, 0x3FECA258DCA93316,
   0x3FECD3E6A0CA8907, 0x3FED053F6D260896, 0x3FED3663B27F31D5, 0x3FED6753E032EA0F, 0x3FED9810643D6615,
   0x3FEDC899AB3FF56C, 0x3FEDF8F02086AF2C, 0x3FEE29142E0E0140, 0x3FEE59063C8822CE, 0x3FEE88C6B3626A73,
   0x3FEEB855F8CA88FB, 0x3FEEE7B471B3A950, 0x3FEF16E281DB7630, 0x3FEF45E08BCF0655, 0x3FEF74AEF0EFAFAE,
   0x3FEFA34E1177C233, 0x3FEFD1BE4C7F2AF9]
/-- Lg[i] = log2(1 + i/128). -/
def tabLg : List Nat := tabLg0 ++ tabLg1 ++ tabLg2 ++ tabLg3

/-- Sn[i] = sin(i pi/64) for i from 0 to 32; the other quadrants follow by symmetry. -/
def tabSn : List Nat :=
  [0x0000000000000000, 0x3FA91F65F10DD814, 0x3FB917A6BC29B42C, 0x3FC2C8106E8E613A, 0x3FC8F8B83C69A60B,
   0x3FCF19F97B215F1B, 0x3FD294062ED59F06, 0x3FD58F9A75AB1FDD, 0x3FD87DE2A6AEA963, 0x3FDB5D1009E15CC0,
   0x3FDE2B5D3806F63B, 0x3FE073879922FFEE, 0x3FE1C73B39AE68C8, 0x3FE30FF7FCE17035, 0x3FE44CF325091DD6,
   0x3FE57D69348CECA0, 0x3FE6A09E667F3BCD, 0x3FE7B5DF226AAFAF, 0x3FE8BC806B151741, 0x3FE9B3E047F38741,
   0x3FEA9B66290EA1A3, 0x3FEB728345196E3E, 0x3FEC38B2F180BDB1, 0x3FECED7AF43CC773, 0x3FED906BCF328D46,
   0x3FEE212104F686E5, 0x3FEE9F4156C62DDA, 0x3FEF0A7EFB9230D7, 0x3FEF6297CFF75CB0, 0x3FEFA7557F08A517,
   0x3FEFD88DA3D12526, 0x3FEFF621E3796D7E, 0x3FF0000000000000]

/-- Xk = (ln 2)^k / k! and Gk = (-1)^(k+1) / (k ln 2), for k from 1 to 4, and LE = log2 e. -/
def coefX : List Nat := [0x3FE62E42FEFA39EF, 0x3FCEBFBDFF82C58F, 0x3FAC6B08D704A0C0, 0x3F83B2AB6FBA4E77]
def coefG : List Nat := [0x3FF71547652B82FE, 0xBFE71547652B82FE, 0x3FDEC709DC3A03FD, 0xBFD71547652B82FE]
def coefLE : Nat := 0x3FF71547652B82FE

/-- pi times 2^640, rounded down. -/
def piBits : Nat :=
  0x3243F6A8885A308D313198A2E03707344A4093822299F31D0082EFA98EC4E6C89452821E638D01377BE5466CF34E90C6CC0AC29B7C97C50DD3F84D5B5B54709179216D5D98979FB1BD1310BA698DFB5AC

/-! ### FP64 steps (R192) -/

/-- One rounding to FP64 with RNE. -/
def r64 (x : Num) : Num := decodeF fp64 (roundTo fp64 0 false x)
/-- An FP64 literal, and a rounded rational. -/
def lit64 (x : Nat) : Num := decodeF fp64 x
def rat64 (p : Int) (q : Nat) : Num := r64 (divN (intN p) (intN q))
def fma64 (x y z : Num) : Num := r64 (sumN 0 [mulN x y, z])
def mul64 (x y : Num) : Num := r64 (mulN x y)
def add64 (x y : Num) : Num := r64 (sumN 0 [x, y])
def div64 (x y : Num) : Num := r64 (divN x y)
def horner (r c0 c1 c2 c3 c4 : Num) : Num := fma64 (fma64 (fma64 (fma64 c4 r c3) r c2) r c1) r c0

/-- Entry i of a table. -/
def tab (l : List Nat) (i : Nat) : Num := lit64 ((l[i]?).getD 0)
def coef (l : List Nat) (k : Nat) : Num := tab l (k - 1)
/-- Sn[i] and Cs[i], i modulo 128. -/
def tabSin (i : Nat) : Num :=
  let j := i % 128
  let v := fun k => tab tabSn (if k ≤ 32 then k else 64 - k)
  if j ≤ 64 then v j else (v (j - 64)).neg
def tabCos (i : Nat) : Num := tabSin (i + 32)
/-- Q[i] = 1 / (1 + i/128) and P[i] = 1 / (1 + i/64). -/
def tabQ (i : Nat) : Num := rat64 128 (128 + i)
def tabP (i : Nat) : Num := rat64 64 (64 + i)
/-- Rs[i] = 1 / √(1 + i/64): the root of 64/(64 + i) with a sticky bit below, rounded once. -/
def tabRs (i : Nat) : Num :=
  let x := 64 * 2 ^ 280 / (64 + i)
  let r := isqrt x 142 0
  r64 (.fin false (2 * r + if r * r * (64 + i) = 64 * 2 ^ 280 then 0 else 1) (-141))

/-- A finite positive number as 2^e × f with f in [1, 2): e and f. -/
def normal2 (x : Num) : Int × Num := (ilog2 x, scaleN (-ilog2 x) x.abs)
/-- floor((f − 1) × n). -/
def index (f : Num) (n : Nat) : Nat := (floorN (mulN (sumN 0 [f, intN (-1)]) (intN n))).toNat

/-! ### The seven forms on a finite input outside the special cases (R193) -/

def exp2Core (x : Num) : Num :=
  let m : Int := match scaleN 6 x with | .fin n a e => roundInt 0 n a e | _ => 0
  let i := (m % 64).toNat
  let e := (m - i) / 64
  let r := sumN 0 [x, (scaleN (-6) (intN m)).neg]
  scaleN e (mul64 (tab tabT2 i) (horner r (intN 1) (coef coefX 1) (coef coefX 2) (coef coefX 3) (coef coefX 4)))

def log2Core (x : Num) : Num :=
  let (e, f) := normal2 x
  let i := index f 128
  let r := fma64 f (tabQ i) (intN (-1))
  add64 (intN e) (add64 (tab tabLg i) (horner r (intN 0) (coef coefG 1) (coef coefG 2) (coef coefG 3) (coef coefG 4)))

/-- q, the integer nearest x × 64 / π, and r, the difference x − q × π / 64 rounded once; |x| × 2^646 is
exact for the formats that the forms allow, and q × π / 64 is q × piBits × 2^−646. -/
def reduce (x : Num) : Int × Num :=
  match x with
  | .fin n m e =>
    let a := m * 2 ^ (e + 646).toNat
    let q := (2 * a + piBits) / (2 * piBits)
    let d : Int := (a : Int) - (q * piBits : Nat)
    let qi : Int := if n then -(q : Int) else q
    (qi, r64 (Num.ofInt n (if n then -d else d) (-646)))
  | _ => (0, .nan)

/-- i, cp and sp of VSIN and VCOS. -/
def sinParts (x : Num) : Nat × Num × Num :=
  let (q, r) := reduce x
  let z := mul64 r r
  let cp := horner z (intN 1) (rat64 (-1) 2) (rat64 1 24) (intN 0) (intN 0)
  let sp := mul64 r (horner z (intN 1) (rat64 (-1) 6) (rat64 1 120) (intN 0) (intN 0))
  ((q % 128).toNat, cp, sp)

def sinCore (x : Num) : Num :=
  let (i, cp, sp) := sinParts x
  fma64 (tabCos i) sp (mul64 (tabSin i) cp)
def cosCore (x : Num) : Num :=
  let (i, cp, sp) := sinParts x
  fma64 (tabSin i).neg sp (mul64 (tabCos i) cp)

def tanhCore (x : Num) : Num :=
  if ltN x.abs (.fin false 1 (-6)) then
    mul64 x (horner (mul64 x x) (intN 1) (rat64 (-1) 3) (rat64 2 15) (intN 0) (intN 0))
  else
    let g := exp2Core (mul64 (scaleN 1 x.abs) (lit64 coefLE))
    let y := add64 (intN 1) (div64 (intN 2) (add64 g (intN 1))).neg
    if x.neg? then y.neg else y

def rcpCore (x : Num) : Num :=
  let (e, f) := normal2 x
  let i := index f 128
  let r := fma64 f (tabQ i) (intN (-1))
  let y := scaleN (-e) (mul64 (tabQ i) (horner r (intN 1) (intN (-1)) (intN 1) (intN (-1)) (intN 1)))
  if x.neg? then y.neg else y

def rsqCore (x : Num) : Num :=
  let (e, f) := normal2 x
  let (e, f) := if e % 2 = 0 then (e, f) else (e - 1, scaleN 1 f)
  let i := index f 64
  let r := fma64 f (tabP i) (intN (-1))
  scaleN (-(e / 2)) (mul64 (tabRs i) (horner r (intN 1) (rat64 (-1) 2) (rat64 3 8) (rat64 (-5) 16) (rat64 35 128)))

/-! ### The special inputs (R194). Each form answers the value before the last rounding, and the conditions zero divisor and
invalid. -/

def one : Num := intN 1

def exp2T (x : Num) : Num × Bool × Bool :=
  match x with
  | .nan => (.nan, false, false)
  | .inf n => (if n then .fin false 0 0 else .inf false, false, false)
  | x =>
    if x.isZero then (one, false, false)
    else if ltN (intN 200) x then (.inf false, false, false)
    else if ltN x (intN (-200)) then (.fin false 0 0, false, false)
    else (exp2Core x, false, false)

def log2T (x : Num) : Num × Bool × Bool :=
  match x with
  | .nan => (.nan, false, false)
  | .inf n => if n then (.nan, false, true) else (.inf false, false, false)
  | x =>
    if x.isZero then (.inf true, true, false)
    else if x.neg? then (.nan, false, true)
    else (log2Core x, false, false)

def sinT (x : Num) : Num × Bool × Bool :=
  match x with
  | .nan => (.nan, false, false)
  | .inf _ => (.nan, false, true)
  | x => (if x.isZero then x else sinCore x, false, false)

def cosT (x : Num) : Num × Bool × Bool :=
  match x with
  | .nan => (.nan, false, false)
  | .inf _ => (.nan, false, true)
  | x => (if x.isZero then one else cosCore x, false, false)

def tanhT (x : Num) : Num × Bool × Bool :=
  match x with
  | .nan => (.nan, false, false)
  | .inf n => (if n then one.neg else one, false, false)
  | x =>
    if x.isZero then (x, false, false)
    else if ltN x.abs (intN 9) then (tanhCore x, false, false)
    else (if x.neg? then one.neg else one, false, false)

def rcpT (x : Num) : Num × Bool × Bool :=
  match x with
  | .nan => (.nan, false, false)
  | .inf n => (.fin n 0 0, false, false)
  | x => if x.isZero then (.inf x.neg?, true, false) else (rcpCore x, false, false)

def rsqT (x : Num) : Num × Bool × Bool :=
  match x with
  | .nan => (.nan, false, false)
  | .inf n => if n then (.nan, false, true) else (.fin false 0 0, false, false)
  | x =>
    if x.isZero then (.inf x.neg?, true, false)
    else if x.neg? then (.nan, false, true)
    else (rsqCore x, false, false)

end Sys2Proof.Machine
end

