-- ==== Sys2Proof/Machine/VecFloat.lean ====
section
/-! DEFINITION. The vector float forms, the transcendentals, VACT and the conversions (spec/07_scalar_vector.md R186, R189 to
R194, R197 to R201). -/

namespace Sys2Proof.Machine

/-- Is MODE.Round legal for arithmetic (R44)? -/
def roundOk (s : State) : Bool := decide (s.spl.round ≠ 5)

/-- An element of a register under a float type, read under MODE.FTZ (R47). -/
def readE (x : Split) (t v i : Nat) : Num := readF (tyFmt t) x.ftz (elem t v i)

/-- A float result of one rounding, flushed under MODE.FTZ, with its conditions: from its operands, the exact value, and
whether a zero divisor arose. -/
def floatRes (x : Split) (f : Fmt) (ops : List Num) (zd : Bool) (v : Num) : ElemRes :=
  let r := roundTo f x.round false v
  (flushOut f x.ftz r, false, zd, invalid ops f r)

/-- A float form of one result per element, computed from the elements of vA, vB and vD. -/
def float3 (i : Instr) (types : List Nat) (d a b : BitVec 8) (f : Split → Nat → Num → Num → Num → Nat → ElemRes) (s : State) :
    Host.Outcome State Fault Refusal :=
  vecTrapping false i types [d.toNat, a.toNat, b.toNat] d.toNat (fun x g l =>
    let t := x.type
    let va := g.getVal t a.toNat l
    let vb := g.getVal t b.toNat l
    let vd := g.getVal t d.toNat l
    (List.range (tyOf t).n).map fun k => f x t (readE x t va k) (readE x t vb k) (readE x t vd k) (elem t vb k)) roundOk s

/-- A two-operand form. -/
def float2 (i : Instr) (d a b : BitVec 8) (f : Nat → Num → Num → Num) (s : State) : Host.Outcome State Fault Refusal :=
  float3 i floatTypes d a b (fun x t p q _ _ => floatRes x (tyFmt t) [p, q] false (f x.round p q)) s

def execVfadd (d a b : BitVec 8) (s : State) := float2 (.vfadd d a b) d a b (fun rm p q => sumN rm [p, q]) s
def execVfsub (d a b : BitVec 8) (s : State) := float2 (.vfsub d a b) d a b (fun rm p q => sumN rm [p, q.neg]) s
def execVfmul (d a b : BitVec 8) (s : State) := float2 (.vfmul d a b) d a b (fun _ => mulN) s
def execVfmin (d a b : BitVec 8) (s : State) := float2 (.vfmin d a b) d a b (fun _ => minN) s
def execVfmax (d a b : BitVec 8) (s : State) := float2 (.vfmax d a b) d a b (fun _ => maxN) s
def execVfma (d a b : BitVec 8) (s : State) : Host.Outcome State Fault Refusal :=
  float3 (.vfma d a b) floatTypes d a b (fun x t p q c _ =>
    floatRes x (tyFmt t) [p, q, c] false (sumN x.round [mulN p q, c])) s

/-- n of VFLDEXP: element i as s16 under a packed type, else as s32. Beyond ±6000 every result is the same as there. -/
def ldexpN (t n : Nat) : Int :=
  let k := if (tyOf t).n = 2 then signed 16 n else signed 32 n
  max (-6000) (min 6000 k)

def execVfldexp (d a b : BitVec 8) (s : State) : Host.Outcome State Fault Refusal :=
  float3 (.vfldexp d a b) floatTypes d a b (fun x t p _ _ n =>
    floatRes x (tyFmt t) [p] false (scaleN (ldexpN t n) p)) s

/-- VDOT2 (R190): vD is read and written as FP32. -/
def execVdot2 (d a b : BitVec 8) (s : State) : Host.Outcome State Fault Refusal :=
  issue (.vdot2 d a b) false (fun s =>
    if vecOk [6, 7] [d.toNat, a.toNat, b.toNat] s && roundOk s then
      let x := s.spl
      let g := s.grp
      let r := fun (l : Nat) =>
        let e := fun (v : BitVec 8) k => readE x x.type (g.getV v.toNat l).toNat k
        let c := readF fp32 x.ftz (g.getV d.toNat l).toNat
        [floatRes x fp32 [e a 0, e b 0, e a 1, e b 1, c] false (sumN x.round [mulN (e a 0) (e b 0), mulN (e a 1) (e b 1), c])]
      let u := s.modG fun g => g.setVs d.toNat (lanesOf s.writeLanes) fun l => BitVec.ofNat 32 (packRes 8 (r l))
      match arithTrap s none r with
      | some (c, info) => .trap c info u
      | none => .ok u
    else .bad 0x01) s

/-- A float comparison (R190). -/
def floatCmp (i : Instr) (d : BitVec 7) (a b : BitVec 8) (c : Num → Num → Bool) (s : State) :
    Host.Outcome State Fault Refusal :=
  issue i false (fun s =>
    if vecOk [8, 9] [a.toNat, b.toNat] s && roundOk s then
      .ok (s.modG fun g => g.setPs d.toNat (lanesOf s.writeLanes) fun l =>
        let x := s.spl
        c (readE x x.type (g.getVal x.type a.toNat l) 0) (readE x x.type (g.getVal x.type b.toNat l) 0))
    else .bad 0x01) s

def execVfcmpEq (d : BitVec 7) (a b : BitVec 8) (s : State) := floatCmp (.vfcmpEq d a b) d a b eqN s
def execVfcmpNe (d : BitVec 7) (a b : BitVec 8) (s : State) := floatCmp (.vfcmpNe d a b) d a b (fun p q => !eqN p q) s
def execVfcmpLt (d : BitVec 7) (a b : BitVec 8) (s : State) := floatCmp (.vfcmpLt d a b) d a b ltN s
def execVfcmpLe (d : BitVec 7) (a b : BitVec 8) (s : State) :=
  floatCmp (.vfcmpLe d a b) d a b (fun p q => ltN p q || eqN p q) s
def execVfcmpGt (d : BitVec 7) (a b : BitVec 8) (s : State) := floatCmp (.vfcmpGt d a b) d a b (fun p q => ltN q p) s
def execVfcmpGe (d : BitVec 7) (a b : BitVec 8) (s : State) :=
  floatCmp (.vfcmpGe d a b) d a b (fun p q => ltN q p || eqN p q) s
def execVfcmpUn (d : BitVec 7) (a b : BitVec 8) (s : State) :=
  floatCmp (.vfcmpUn d a b) d a b (fun p q => p.isNaN || q.isNaN) s
def execVfcmpOrd (d : BitVec 7) (a b : BitVec 8) (s : State) :=
  floatCmp (.vfcmpOrd d a b) d a b (fun p q => !p.isNaN && !q.isNaN) s

/-- VFDIV (R186): the divider. A finite nonzero value over a zero is a DivideByZero condition. -/
def divRes (x : Split) (f : Fmt) (p q : Num) : ElemRes :=
  floatRes x f [p, q] (q.isZero && !p.isZero && !p.isInf && !p.isNaN) (divN p q)

def execVfdiv (d a b : BitVec 8) (s : State) : Host.Outcome State Fault Refusal :=
  dividerOp (.vfdiv d a b) floatTypes [d.toNat, a.toNat, b.toNat] (fun x g l =>
    let t := x.type
    [(d.toNat, (List.range (tyOf t).n).map fun k =>
      divRes x (tyFmt t) (readE x t (g.getVal t a.toNat l) k) (readE x t (g.getVal t b.toNat l) k))]) roundOk s

/-! ### Float unary forms (R191) -/

/-- The elements of vA through a function. -/
def unaryElems (a : BitVec 8) (f : Split → Nat → Num → Nat → ElemRes) (x : Split) (g : Group) (l : Nat) : List ElemRes :=
  let v := g.getVal x.type a.toNat l
  (List.range (tyOf x.type).n).map fun k => f x x.type (readE x x.type v k) (elem x.type v k)

def float1 (long : Bool) (i : Instr) (types : List Nat) (d a : BitVec 8) (f : Split → Nat → Num → Nat → ElemRes) (s : State) :
    Host.Outcome State Fault Refusal :=
  vecTrapping long i types [d.toNat, a.toNat] d.toNat (unaryElems a f) roundOk s

def execVfabs (d a : BitVec 8) (s : State) :=
  float1 false (.vfabs d a) floatTypes d a (fun x t p _ => floatRes x (tyFmt t) [p] false p.abs) s
def execVfneg (d a : BitVec 8) (s : State) :=
  float1 false (.vfneg d a) floatTypes d a (fun x t p _ => floatRes x (tyFmt t) [p] false p.neg) s

/-- VFRC (R191): a − floor(a); −0 is written as +0. -/
def fracN : Num → Num
  | .fin n m e =>
    match sumN 0 [.fin n m e, (intN (floorN (.fin n m e))).neg] with
    | .fin _ 0 _ => .fin false 0 0
    | y => y
  | _ => .nan
def execVfrc (d a : BitVec 8) (s : State) :=
  float1 false (.vfrc d a) floatTypes d a (fun x t p _ => floatRes x (tyFmt t) [p] false (fracN p)) s

/-- VFRND (R191): rounded to an integral value; the result keeps the sign of a. -/
def roundN (rm : Nat) : Num → Num
  | .fin n m e => .fin n (roundAt rm n m e) 0
  | x => x
def execVfrnd (d a : BitVec 8) (s : State) :=
  float1 false (.vfrnd d a) floatTypes d a (fun x t p _ => floatRes x (tyFmt t) [p] false (roundN x.round p)) s

/-- VFGEXP (R191). -/
def gexpN : Num → Num
  | .nan => .nan
  | .inf _ => .inf false
  | .fin n m e => if m = 0 then .inf true else intN (ilog2 (.fin n m e))
def execVfgexp (d a : BitVec 8) (s : State) :=
  float1 false (.vfgexp d a) floatTypes d a (fun x t p _ => floatRes x (tyFmt t) [p] false (gexpN p)) s

/-- VFCLASS (R191): FTZ is ignored. -/
def classF (f : Fmt) (v : Nat) : Nat :=
  match decodeF f v with
  | .nan => 256
  | .inf n => if n then 1 else 128
  | .fin n m _ =>
    if m = 0 then (if n then 8 else 16)
    else if v / 2 ^ f.mb % 2 ^ f.eb = 0 then (if n then 4 else 32)
    else if n then 2 else 64
def execVfclass (d a : BitVec 8) (s : State) :=
  float1 false (.vfclass d a) [8, 9] d a (fun _ t _ v => okElem (classF (tyFmt t) v)) s

/-! ### Transcendentals (R192): the last rounding is RNE -/

def transRes (x : Split) (t : Nat) (r : Num × Bool × Bool) : ElemRes :=
  (flushOut (tyFmt t) x.ftz (roundTo (tyFmt t) 0 false r.1), false, r.2.1, r.2.2)
def trans (long : Bool) (i : Instr) (d a : BitVec 8) (f : Num → Num × Bool × Bool) (s : State) :
    Host.Outcome State Fault Refusal :=
  float1 long i [6, 7, 8] d a (fun x t p _ => transRes x t (f p)) s

def execVexp2 (d a : BitVec 8) (s : State) := trans false (.vexp2 d a) d a exp2T s
def execVlog2 (d a : BitVec 8) (s : State) := trans false (.vlog2 d a) d a log2T s
def execVsin (d a : BitVec 8) (s : State) := trans false (.vsin d a) d a sinT s
def execVcos (d a : BitVec 8) (s : State) := trans false (.vcos d a) d a cosT s
def execVtanh (d a : BitVec 8) (s : State) := trans false (.vtanh d a) d a tanhT s
def execVrsq (d a : BitVec 8) (s : State) := trans false (.vrsq d a) d a rsqT s

/-- VRCP: the divider under f64 (R186); under the other types its result is written at once, though the word counts for its
flag (R119). -/
def execVrcp (d a : BitVec 8) (s : State) : Host.Outcome State Fault Refusal :=
  if s.spl.type = 9 then
    dividerOp (.vrcp d a) [9] [d.toNat, a.toNat] (fun x g l =>
      [(d.toNat, unaryElems a (fun x t p _ => divRes x (tyFmt t) one p) x g l)]) roundOk s
  else trans true (.vrcp d a) d a rcpT s

/-- VSQRT: the divider under f64, else written at once (R191). -/
def execVsqrt (d a : BitVec 8) (s : State) : Host.Outcome State Fault Refusal :=
  let f := fun (x : Split) (t : Nat) (p : Num) (_ : Nat) => floatRes x (tyFmt t) [p] false (sqrtN p)
  if s.spl.type = 9 then
    dividerOp (.vsqrt d a) [9] [d.toNat, a.toNat] (fun x g l => [(d.toNat, unaryElems a f x g l)]) roundOk s
  else float1 true (.vsqrt d a) [6, 7, 8] d a f s

/-! ### VACT (R197) -/

/-- A field of an activation table, FP32. -/
def ActTable.f32 (t : ActTable) (off : Nat) : Num := decodeF fp32 (getNum t.data off 4)
/-- One rounding to FP32 with RNE. -/
def r32 (x : Num) : Num := decodeF fp32 (roundTo fp32 0 false x)
def fma32 (x y z : Num) : Num := r32 (sumN 0 [mulN x y, z])

/-- min(floor(u), 255) of R197; a u that has overflowed to +Inf is above every segment. -/
def segment : Num → Nat
  | .inf false => 255
  | u => min (floorN u).toNat 255

/-- The value of a table at x, and whether the operation is invalid (R49): a NaN that no NaN operand caused. -/
def actValue (t : ActTable) (x : Num) : Num × Bool :=
  if x.isNaN then (.nan, false)
  else if t.st ≠ 2 then (.nan, true)
  else if ltN x (t.f32 0) then (t.f32 8, false)
  else if !ltN x (t.f32 4) then (t.f32 12, false)
  else
    let u := r32 (mulN (sumN 0 [x, (t.f32 0).neg]) (decodeF fp32 t.w.toNat))
    let j := segment u
    let r := sumN 0 [u, (intN j).neg]
    let c := fun k => t.f32 (0x40 + 12 * j + 4 * k)
    let y := fma32 (fma32 (c 2) r (c 1)) r (c 0)
    (y, y.isNaN && !((c 0).isNaN || (c 1).isNaN || (c 2).isNaN))

/-- The table of a number 0 to 7: bank << 2 | table. -/
def State.actTab (s : State) (n : Nat) : ActTable := s.blk.act.get {} n

def execVact (d a : BitVec 8) (n : BitVec 2) (s : State) : Host.Outcome State Fault Refusal :=
  issue (.vact d a n) false (fun s =>
    if vecOk [6, 7, 8] [d.toNat, a.toNat] s && roundOk s then
      let k := s.spl.bank * 4 + n.toNat
      let t := s.actTab k
      if t.st = 1 then .trap 0x0D (BitVec.ofNat 64 k) s
      else
        let r := unaryElems a (fun x ty p _ =>
          let y := actValue t p
          (flushOut (tyFmt ty) x.ftz (roundTo (tyFmt ty) 0 false y.1), false, false, y.2)) s.spl s.grp
        let u := s.modG fun g => g.setVals s.spl.type d.toNat (lanesOf s.writeLanes) fun l => packRes s.spl.type (r l)
        match arithTrap s none r with
        | some (c, info) => .trap c info u
        | none => .ok u
    else .bad 0x01) s

/-! ### Conversions -/

/-- The conversion of one element between two types (R198). -/
def convert (x : Split) (src dst v : Nat) : ElemRes :=
  let toF := fun (n : Num) => 
    let f := tyFmt dst
    let r := roundTo f x.round x.sat n
    (flushOut f x.ftz r, false, false, invalid [n] f r)
  if (tyOf src).float then
    let n := readF (tyFmt src) x.ftz v
    if (tyOf dst).float then toF n
    else
      match n with
      | .nan => (0, false, false, true)
      | .inf neg => (wrap (tyOf dst).w (if neg then minT dst else maxT dst), false, false, true)
      | .fin neg m e =>
        let k := roundInt x.round neg m e
        (wrap (tyOf dst).w (sat dst k), false, false, decide (sat dst k ≠ k))
  else if (tyOf dst).float then toF (intN (ival src v))
  else okElem (wrapT dst x.sat (ival src v))

/-- Registers that E elements of a type take. -/
def regsFor (t e : Nat) : Nat := if isPair t then 2 * e else e / (tyOf t).n

/-- Element k of the run of registers from r. -/
def runElem (g : Group) (t r l k : Nat) : Nat :=
  if isPair t then (g.getVP (r + 2 * k) l).toNat else elem t (g.getV (r + k / (tyOf t).n) l).toNat (k % (tyOf t).n)

/-- VCVT (R198): MODE.Type is the destination. Under a pair type both operands are even, whatever the source's type (R42). -/
def execVcvt (d a : BitVec 8) (f : ElemType) (s : State) : Host.Outcome State Fault Refusal :=
  issue (.vcvt d a f) false (fun s =>
    let x := s.spl
    let ts := f.code
    let td := x.type
    let n := fun t => if isPair t then 1 else (tyOf t).n
    let e := max (n ts) (n td)
    if !(decide (td < 14) && s.within a.toNat (regsFor ts e) && s.within d.toNat (regsFor td e) &&
        (!(isPair ts || isPair td) || decide (a.toNat % 2 = 0)) && (!isPair td || decide (d.toNat % 2 = 0))) then .bad 0x01
    else
      let g := s.grp
      let r := fun l => (List.range e).map fun k => convert x ts td (runElem g ts a.toNat l k)
      let reg := fun (l j : Nat) =>
        if isPair td then BitVec.ofNat 32 (((r l)[j / 2]?.getD (okElem 0)).1 / 2 ^ (32 * (j % 2)))
        else BitVec.ofNat 32 (packRes td ((r l).drop (j * (tyOf td).n)))
      let u := s.modG fun g => (List.range (regsFor td e)).foldl (fun g j =>
        g.setVs (d.toNat + j) (lanesOf s.writeLanes) fun l => reg l j) g
      match arithTrap s none r with
      | some (c, info) => .trap c info u
      | none => .ok u) s

/-- The element format, the exponent of its largest magnitude and the width of its code (R52). -/
def mxFmt : MxFmt → Fmt
  | .mxe4m3 => e4m3
  | .mxe5m2 => e5m2
  | _ => e2m1
def mxEmax : MxFmt → Int
  | .mxe4m3 => 8
  | .mxe5m2 => 15
  | .mxe2m1 => 2
  | .mxint8 => 0

/-- QuantiseBlock (R52): the scale code and the element codes. -/
def quantise (m : MxFmt) (rm : Nat) (xs : List Num) : Nat × List Nat :=
  if xs.any fun x => x.isNaN || x.isInf then (255, xs.map fun _ => 0)
  else
    let amax := xs.foldl (fun a x => if ltN a x.abs then x.abs else a) (.fin false 0 0)
    if amax.isZero then (127, xs.map fun _ => 0)
    else
      let e := max (-127) (min 127 (ilog2 amax - mxEmax m))
      let code := fun (x : Num) =>
        match m, x with
        | .mxint8, .fin n k p => wrap 8 (sat 0 (roundInt rm n k (p + 6 - e)))
        | _, x => roundTo (mxFmt m) rm true (scaleN (-e) x)
      ((e + 127).toNat, xs.map code)

/-- VQUANT (R199): each beat of 32 lanes forms one block. -/
def execVquant (d a : BitVec 8) (m : MxFmt) (s : State) : Host.Outcome State Fault Refusal :=
  issue (.vquant d a m) false (fun s =>
    if vecOk [8] [d.toNat, a.toNat] s then
      let g := s.grp
      let ex := s.execLanes
      let block := fun (k : Nat) => quantise m s.spl.round ((List.range 32).map fun j =>
        if ex.getLsbD (32 * k + j) then decodeF fp32 (g.getV a.toNat (32 * k + j)).toNat else .fin false 0 0)
      .ok (s.modG fun g => g.setVs d.toNat (lanesOf s.writeLanes) fun l =>
        let b := block (l / 32)
        BitVec.ofNat 32 (b.1 * 2 ^ 16 + (b.2[l % 32]?).getD 0))
    else .bad 0x01) s

/-- The value of an MX element code under a scale code (R40). -/
def mxValue (m : MxFmt) (sc code : Nat) : Num :=
  if sc = 255 then .nan
  else scaleN ((sc : Int) - 127) (match m with
    | .mxint8 => scaleN (-6) (intN (signed 8 code))
    | .mxe2m1 => decodeF e2m1 (code % 16)
    | _ => decodeF (mxFmt m) code)

/-- VDEQ (R199, R53): RNE, whatever MODE.Round and FTZ hold. -/
def execVdeq (d a : BitVec 8) (m : MxFmt) (s : State) : Host.Outcome State Fault Refusal :=
  vecOp (.vdeq d a m) [6, 7, 8] [d.toNat, a.toNat] d.toNat (fun x g l =>
    let v := (g.getV a.toNat l).toNat
    pack x.type fun i => roundTo (tyFmt x.type) 0 false (mxValue m (v / 2 ^ 16 % 256) (v / 2 ^ (8 * i) % 256))) s

/-- VPACK (R200). -/
def execVpack (d a b : BitVec 8) (s : State) : Host.Outcome State Fault Refusal :=
  vecOp (.vpack d a b) [0, 1, 2, 3, 6, 7, 12, 13] [d.toNat, a.toNat, b.toNat] d.toNat (fun x g l =>
    let va := (g.getV a.toNat l).toNat
    let vb := (g.getV b.toNat l).toNat
    if (tyOf x.type).n = 2 then va % 2 ^ 16 + vb % 2 ^ 16 * 2 ^ 16
    else pack x.type fun i => elem x.type (if i % 2 = 0 then va else vb) (i / 2)) s

/-- One element of VUNPACK: an integer is extended by its type, a float converted exactly (R200). -/
def widen (t v : Nat) : Nat :=
  let dest := if (tyOf t).w = 16 then fp32 else fp16
  if (tyOf t).float then roundTo dest 0 false (decodeF (tyFmt t) v) else wrap (2 * (tyOf t).w) (ival t v)

def execVunpack (d a : BitVec 8) (h : Bool) (s : State) : Host.Outcome State Fault Refusal :=
  vecOp (.vunpack d a h) [0, 1, 2, 3, 6, 7, 12, 13] [d.toNat, a.toNat] d.toNat (fun x g l =>
    let v := (g.getV a.toNat l).toNat
    let k := if h then 1 else 0
    if (tyOf x.type).n = 2 then widen x.type (elem x.type v k)
    else widen x.type (elem x.type v (2 * k)) + 2 ^ 16 * widen x.type (elem x.type v (2 * k + 1))) s

/-- An element of VEXPAND as an E4M3 code (R201). -/
def expandE (f : ExpandFmt) (v : Nat) : Nat :=
  roundTo e4m3 0 false (match f with
    | .e2m1 => decodeF e2m1 v
    | .e2m3 => decodeF e2m3 v
    | .e3m2 => decodeF e3m2 v
    | .s4 => intN (signed 4 v)
    | .n4 => intN v)

def execVexpand (d a : BitVec 8) (f : ExpandFmt) (s : State) : Host.Outcome State Fault Refusal :=
  simple (.vexpand d a f) (fun s => s.modG fun g =>
    let old := g
    let ls := lanesOf s.writeLanes
    let w := match f with | .e2m3 | .e3m2 => 6 | _ => 4
    let reg := fun (j l : Nat) => BitVec.ofNat 32 ((List.range 4).foldl (fun acc i =>
      acc + expandE f ((old.getV a.toNat l).toNat / 2 ^ (w * (4 * j + i)) % 2 ^ w) * 2 ^ (8 * i)) 0)
    let g := g.setVs d.toNat ls (reg 0)
    if w = 4 then g.setVs (d.toNat + 1) ls (reg 1) else g) s

end Sys2Proof.Machine
end

