-- ==== Sys2Proof/Machine/Engine.lean ====
section
/-! DEFINITION. The stream engine (spec/09_memory_instructions.md R251 to R268; spec/01_describing_work.md R29 to R33): pattern
records, the commands and their sector writes, batches. The four queues of a group (R251) are the lists of Group.eng under the keys 0 to 3:
pushCmd enters a command at the end of one, only a queue's head takes a step (State.engStep), and a block whose queues are not empty does
not retire (State.drained). The engine's share of LXIN and LXOUT (R318) is here too. -/

namespace Sys2Proof.Machine

/-! ### Pattern records (R29 to R31) -/

/-- n bytes of a record from an offset, as a number. -/
def patNum (p : BitVec 512) (off n : Nat) : Nat := bits p.toNat (8 * (off + n) - 1) (8 * off)
def patCtl (p : BitVec 512) : Nat := patNum p 8 8
def patBytes (p : BitVec 512) : Nat := bits (patCtl p) 7 0
def patIndirect (p : BitVec 512) : Bool := bitOf (patCtl p) 8
def patDequant (p : BitVec 512) : Bool := bitOf (patCtl p) 9
def patTranspose (p : BitVec 512) : Bool := bitOf (patCtl p) 10
def patDims (p : BitVec 512) : Nat := bits (patCtl p) 12 11 + 1
def patCount (p : BitVec 512) (d : Nat) : Nat := patNum p (0x10 + 8 * d) 4
def patStride (p : BitVec 512) (d : Nat) : Int := signed 32 (patNum p (0x14 + 8 * d) 4)
def patTable (p : BitVec 512) : Nat := patNum p 0x30 8
def patIndex (p : BitVec 512) : Nat := patNum p 0x38 1
def patIndDim (p : BitVec 512) : Nat := bits (patNum p 0x38 8) 9 8

/-- N: the elements that the record visits (R31). -/
def patElems (p : BitVec 512) : Nat := (List.range (patDims p)).foldl (fun n d => n * patCount p d) 1

/-- Index d of the element visited as number n: dimension 0 is innermost (R31). -/
def patIdx (p : BitVec 512) (n d : Nat) : Nat :=
  n / (List.range d).foldl (fun m k => m * patCount p k) 1 % patCount p d

/-- The checks of PATLD (R33): the trap code, where a check fails. Of several that fail, ReservedEncoding comes before IllegalInstruction and
that before MisalignedAccess (DESIGN CHOICE, log 101). -/
def patCheck (p : BitVec 512) : Option Nat :=
  let c := patCtl p
  let ind := patIndirect p
  let deq := patDequant p
  let tr := patTranspose p
  let b := patBytes p
  let unused := (List.range 4).any fun d => decide (d ≥ patDims p) && decide (patNum p (0x10 + 8 * d) 8 ≠ 0)
  if bits c 63 20 ≠ 0 ∨ bits c 15 13 ≠ 0 ∨ unused ∨ (!ind ∧ !deq ∧ patNum p 0x30 16 ≠ 0) ∨ (deq ∧ patNum p 0x38 8 ≠ 0) ∨
      (ind ∧ patNum p 0x38 8 ≥ 2 ^ 10) then some 0x02
  else if !([1, 2, 4, 8, 16, 32].contains b) ∨ (ind ∧ patIndex p ≠ 4 ∧ patIndex p ≠ 8) ∨ (ind ∧ patIndDim p ≥ patDims p) ∨
      (tr ∧ (b > 8 ∨ ind)) ∨ (deq ∧ (bits c 19 16 ≠ 0xA ∨ b ≠ 16 ∨ ind)) then some 0x01
  else if patNum p 0 8 % b ≠ 0 ∨ ((List.range (patDims p)).any fun d => decide (patStride p d % (b : Int) ≠ 0)) ∨
      (ind ∧ patTable p % patIndex p ≠ 0) then some 0x03
  else none

/-! ### What the engine reads -/

/-- What stops a sector write before it is performed. -/
inductive EngStop where
  | fault (va reason acc : Nat) (poison : Bool)
  | protect (va : Nat)
  | fail (code va : Nat)
  | wait

/-- TRAPINFO of a failure of R260, and of a remote failure of an engine command (R377). -/
def engInfo (q va : Nat) (scr : Bool) : DWord :=
  BitVec.ofNat 64 (va % 2 ^ 56 + q * 2 ^ 56 + 2 ^ 62 + (if scr then 2 ^ 63 else 0))
def engRemoteInfo (q va : Nat) : DWord := BitVec.ofNat 64 (va % 2 ^ 56 + q * 2 ^ 56 + 2 ^ 63)

/-- Bytes in each plane of SXPOS (R257). -/
def planeBytes (n : Nat) : Nat := 32 * ((n + 255) / 256)

/-- T: the bytes that a command writes (R254, R263). -/
def EngKind.total (k : EngKind) (p : BitVec 512) : Nat :=
  match k with
  | .sdeq => 64 * patElems p
  | .sxpos => 8 * patBytes p * planeBytes (patElems p)
  | .lxin => 0
  | _ => patElems p * patBytes p

/-- The sector writes of a command (R258), or its elements where they go to global memory. -/
def EngCmd.steps (c : EngCmd) : Nat :=
  match c.kind with
  | .scpo | .sscat | .lxout => patElems c.pat
  | .lxin => if patElems c.pat = 0 then 0 else 1
  | _ => if c.bytes = 0 then 0 else (c.scr + c.bytes - 1) / 32 + 1 - c.scr / 32

/-- Bit j of element n of lists of bytes. -/
def elemBit (es : List (List Byte)) (n j : Nat) : Bool :=
  match es[n]? with
  | some e => bitOf (ofBytes e) j
  | none => false

/-- A list of bits as bytes, lowest first. -/
def laneBits (n : Nat) (f : Nat → Bool) : List Byte :=
  (List.range n).map fun i => BitVec.ofNat 8 ((List.range 8).foldl (fun a j => a + if f (8 * i + j) then 2 ^ j else 0) 0)

/-- Join runs of consecutive addresses. -/
def joinRuns (l : List (Nat × List Byte)) : List (Nat × List Byte) :=
  l.foldl (fun acc x => match acc.reverse with
    | y :: t => if y.1 + y.2.length = x.1 then (t.reverse ++ [(y.1, y.2 ++ x.2)]) else acc ++ [x]
    | [] => [x]) []

namespace State

/-- Change the command at the head of a queue. -/
def modCmd (s : State) (b g q : Nat) (f : EngCmd → EngCmd) : State :=
  s.modGrp b g fun x => { x with eng := x.eng.set q (match x.eng.get [] q with | c :: t => f c :: t | [] => []) }

/-- The head command of a queue has asked for an access, by its number, or has its answer. -/
def engAsk (s : State) (b g q key : Nat) : State := s.modCmd b g q fun c => { c with asked := c.asked ++ [key] }
def engGot (s : State) (b g q key : Nat) (bs : List Byte) : State := s.modCmd b g q fun c => { c with got := c.got.set key bs }

/-- Send a message of a queue's head command, under the number of its access (R371). -/
def engSend (s : State) (b g q key va pa : Nat) (req : RemoteOp) : State :=
  let gr := s.gridOf (s.blkOf b).grid
  let s := s.postRemote { op := none, blk := b, grp := g, lane := 0, va := va, ctx := gr.ctx, fn := gr.fn, pa := pa, req := req,
                          regs := [key], sb := none, retried := false, engine := some q, die := (s.blkOf b).die, far := false, behind := false }
  s.engAsk b g q key

/-- The engine reads n bytes, once for each access (R221, R231, R261). What lies in another module is asked for and waited for. -/
def engRead (s : State) (b g q : Nat) (c : EngCmd) (key va n : Nat) : State × Except EngStop (List Byte) :=
  if c.got.has key then (s, .ok (c.got.get [] key))
  else
  match s.reach (s.blkOf b) va n .engRead with
  | (s, .ok pa) => (s.tlpRead pa n, .ok (s.rd pa n))
  | (s, .remote pa) => (if c.asked.contains key then s else s.engSend b g q key va pa (.read n), .error .wait)
  | (s, .fault r) => (s, .error (.fault va r 4 false))
  | (s, .poison) => (s, .error (.fault va 0 4 true))
  | (s, .protect) => (s, .error (.protect va))
  | (s, .fail k) => (s, .error (.fail k va))
  | (s, .wait) => (s, .error .wait)

/-- The address of element n (R31): an index entry is read where its dimension is indirect. -/
def engAddr (s : State) (b g q : Nat) (c : EngCmd) (n : Nat) : State × Except EngStop Nat :=
  let p := c.pat
  let at_ := fun (e : Nat) => wrap 64 ((List.range (patDims p)).foldl (fun (a : Int) d =>
    a + (if patIndirect p && d == patIndDim p then e else patIdx p n d : Nat) * patStride p d) (patNum p 0 8))
  if patIndirect p then
    match s.engRead b g q c (4 * n + 1) (wrap 64 (patTable p + patIdx p n (patIndDim p) * patIndex p)) (patIndex p) with
    | (s, .ok e) => (s.engGot b g q (4 * n + 1) e, .ok (at_ (ofBytes e)))
    | (s, .error x) => (s, .error x)
  else (s, .ok (at_ 0))

/-- Element n itself. -/
def engElem (s : State) (b g q : Nat) (c : EngCmd) (n : Nat) : State × Except EngStop (List Byte) :=
  match s.engAddr b g q c n with
  | (s, .ok a) => s.engRead b g q c (4 * n) a (patBytes c.pat)
  | (s, .error x) => (s, .error x)

/-- Keep the elements from n on that have been read: a replay goes on from the element at which the command stopped (R231). -/
def engKeep (s : State) (b g q n : Nat) (es : List (List Byte)) : State :=
  let new : Tab (List Byte) := ((List.range es.length).zip es).map fun e => (4 * (n + e.1), e.2)
  s.modCmd b g q fun c => { c with got := new ++ c.got.filter fun e => !new.any fun x => x.1 == e.1 }

/-- k elements from n on, in visiting order; acc holds, latest first, those before n that have been read. -/
def engElems (s : State) (b g q : Nat) (c : EngCmd) : Nat → Nat → List (List Byte) → State × Except EngStop (List (List Byte))
  | 0, _, acc => (s, .ok acc.reverse)
  | k + 1, n, acc =>
    match s.engElem b g q c n with
    | (s, .error x) => (s.engKeep b g q (n - acc.length) acc.reverse, .error x)
    | (s, .ok e) => s.engElems b g q c k (n + 1) (e :: acc)

/-- The bytes of the next sector write to scratch, and their offset (R254, R256, R257, R258, R263). -/
def engScratch (s : State) (b g q : Nat) (c : EngCmd) : State × Except EngStop (Nat × List Byte) :=
  let lo := max c.scr (32 * (c.scr / 32 + c.done))
  let hi := min (c.scr + c.bytes) (32 * (c.scr / 32 + c.done) + 32)
  let o := lo - c.scr
  match c.kind with
  | .fill => (s, .ok (lo, (List.range (hi - lo)).map fun i => BitVec.ofNat 8 (c.fill.toNat / 2 ^ (8 * ((o + i) % 4)))))
  | .sdeq =>
    match s.engElem b g q c (o / 64) with
    | (s, .error x) => (s, .error x)
    | (s, .ok e) =>
      match s.engRead b g q c (4 * (o / 64) + 2) (wrap 64 (patTable c.pat + o / 64 : Nat)) 1 with
      | (s, .error x) => (s.engKeep b g q (o / 64) [e], .error x)
      | (s, .ok sc) =>
        (s, .ok (lo, (List.range 16).flatMap fun i =>
          let v := o % 64 / 2 + i
          toBytes 2 (roundTo bf16 0 false (mxValue .mxe2m1 (ofBytes sc) (bits (ofBytes e) (4 * v + 3) (4 * v))))))
  | .sxpos =>
    let n := patElems c.pat
    let p := planeBytes n
    let first := o % p * 8
    match s.engElems b g q c (min 256 (n - first)) first [] with
    | (s, .error x) => (s, .error x)
    | (s, .ok es) => (s, .ok (lo, laneBits 32 fun i => elemBit es i (o / p)))
  | _ =>
    let w := patBytes c.pat
    match s.engElems b g q c ((hi - lo) / w) (o / w) [] with
    | (s, .error x) => (s, .error x)
    | (s, .ok es) => (s, .ok (lo, es.flatten))

/-- The bytes of element n that a command takes to global memory: scratch (R254), or a field of a bay (R318). -/
def engSource (s : State) (b : Nat) (c : EngCmd) (n : Nat) : List Byte :=
  let w := patBytes c.pat
  if c.kind = .lxout then
    let f := (s.bayOf (s.blkOf b).die c.bay).field c.field
    laneBits w fun j => (f.bit j).getLsbD (c.scr + n)
  else s.scr b (c.scr + n * w) w

/-- The elements from n on that fall in the sector of element n: their addresses and bytes, for one sector write (R258). What a later one
waits for the whole sector waits for; a fault at a later one ends the gathering before it (R231; log 38). -/
def engGather (s : State) (b g q : Nat) (c : EngCmd) (sec : Option Nat) :
    Nat → Nat → State × Except EngStop (List (Nat × List Byte))
  | 0, _ => (s, .ok [])
  | k + 1, n =>
    match s.engAddr b g q c n with
    | (s, .error .wait) => (s, .error .wait)
    | (s, .error x) => (s, if sec.isNone then .error x else .ok [])
    | (s, .ok a) =>
      if sec.isSome && sec != some (a / 32) then (s, .ok [])
      else
        let e := (a, s.engSource b c n)
        match s.engGather b g q c (some (a / 32)) k (n + 1) with
        | (s, .ok t) => (s, .ok (e :: t))
        | (s, .error x) => (s, .error x)

/-- The sector write of runs in visiting order, relative to the lowest of them (R258): of two elements at one byte the later remains (R254). -/
def sectorReq (l : List (Nat × List Byte)) : RemoteOp :=
  let lo := l.foldl (fun m x => min m x.1) (l.headD (0, [])).1
  match l with
  | [x] => .write x.2
  | _ => .runs (l.map fun x => (x.1 - lo, x.2))

/-- One sector write to global memory (R258), of runs in visiting order. One to another module (R371), or to a held page (R344), is sent
to its home and waited for; a line that the host holds is called back (R379). -/
def engPut (s : State) (b g q : Nat) (l : List (Nat × List Byte)) : State × Except EngStop Unit :=
  let va := (l.headD (0, [])).1
  let lo := l.foldl (fun m x => min m x.1) va
  let fn := (s.gridOf (s.blkOf b).grid).fn
  match s.reach (s.blkOf b) va 1 .engWrite with
  | (s, .ok pa) =>
    let at_ := pa - (va - lo)
    if s.heldPage at_ then
      ((s.holdReq { pa := at_, op := sectorReq l, who := .engine b g q, fn := fn }).engAsk b g q 3, .error .wait)
    else if s.canWrite at_ then (((s.serve fn at_ (sectorReq l)).1).markMmio b g at_, .ok ())
    else (s.snoop at_, .error .wait)
  | (s, .remote pa) => (s.engSend b g q 3 va (pa - (va - lo)) (sectorReq l), .error .wait)
  | (s, .fault r) => (s, .error (.fault va r 5 false))
  | (s, .poison) => (s, .error (.fault va 0 5 true))
  | (s, .protect) => (s, .error (.protect va))
  | (s, .fail k) => (s, .error (.fail k va))
  | (s, .wait) => (s, .error .wait)

/-- LXIN over the whole field (R318): element n goes to lane scr + n. A plane written in part keeps its lost mark, and the failed rows of which not every lane is
written (R312). -/
def lxinPlanes (f : Bay) (c : EngCmd) (es : List (List Byte)) : Bay :=
  let e := 8 * patBytes c.pat
  let n := es.length
  let mask : Plane := BitVec.ofNat 262144 (2 ^ n - 1) <<< c.scr
  let plane := fun (j : Nat) =>
    let v : Nat := (es.zip (List.range n)).foldl (fun a x =>
      let bit := if j < e then bitOf (ofBytes x.1) j else fSigned c.field && bitOf (ofBytes x.1) (e - 1)
      a + if bit then 2 ^ x.2 else 0) 0
    (f.planes.get (fBase c.field + j) &&& ~~~mask) ||| (BitVec.ofNat 262144 v <<< c.scr)
  let out := f.put (fBase c.field) ((List.range (fWidth c.field)).map plane)
  if n = bayLanes then out else { out with lost := f.lost, bad := f.bad }.mend (fBase c.field) (fWidth c.field) (wholeRows c.scr n)

/-- One sector write of a command (R258): the state, the bytes written and the steps done. One that waits for its home holds the elements with
which it was sent. -/
def engSector (s : State) (b g q : Nat) (c : EngCmd) : State × Except EngStop (Nat × Nat) :=
  match c.kind with
  | .lxin =>
    match s.engElems b g q c (patElems c.pat) 0 [] with
    | (s, .error x) => (s, .error x)
    | (s, .ok es) => (s.modBay (s.blkOf b).die c.bay fun f => lxinPlanes f c es, .ok (0, 1))
  | .scpo | .sscat | .lxout =>
    if c.got.has 3 then (s, .ok (c.put * patBytes c.pat, c.put))
    else if c.asked.contains 3 then (s, .error .wait)
    else
      match s.engGather b g q c none (patElems c.pat - c.done) c.done with
      | (s, .error x) => (s, .error x)
      | (s, .ok es) =>
        match (s.modCmd b g q fun c => { c with put := es.length }).engPut b g q (joinRuns es) with
        | (s, .error x) => (s, .error x)
        | (s, .ok _) => (s, .ok (es.length * patBytes c.pat, es.length))
  | _ =>
    match s.engScratch b g q c with
    | (s, .error x) => (s, .error x)
    | (s, .ok (o, bs)) => (s.writeScr b o bs, .ok (bs.length, 1))

/-- Done of R264: every earlier batch, and every command of this one, has completed. -/
def settleN (cmds : List EngCmd) (closed : BitVec 16) : Nat → BitVec 16 → BitVec 16
  | 0, d => d
  | n + 1, d => if d = closed ∨ cmds.any (fun c => c.batch == d + 1) then d else settleN cmds closed n (d + 1)
def settle (s : State) (b g : Nat) : State :=
  s.modGrp b g fun x => { x with done := settleN (x.eng.flatMap (·.2)) x.closed 256 x.done }

/-- A command that SCANCELs waited for has stopped (R268). -/
def cmdStopped (s : State) (c : EngCmd) : State :=
  c.stop.foldl (fun s o => if s.ops.has o then { s with ops := s.ops.set o { s.opOf o with remote := (s.opOf o).remote - 1 } } else s) s

/-- Is the sector write of a command at its home, and not answered? -/
def engWriting (c : EngCmd) : Bool := c.asked.contains 3 && !c.got.has 3

/-- Take commands out of a group's queues: their messages are forgotten, the Loft operations among them end, batches may complete. -/
def dropCmds (s : State) (b g : Nat) (p : Nat → EngCmd → Bool) : State :=
  let gone := (s.grpOf b g).eng.flatMap fun e => e.2.filter fun c => p e.1 c
  let heads := ((s.grpOf b g).eng.filter fun e => match e.2 with | c :: _ => p e.1 c | [] => false).map (·.1)
  let s := s.dropRemotes fun r => r.2.blk == b && r.2.grp == g && (match r.2.engine with | some q => heads.contains q | none => false)
  let s := s.modGrp b g fun x =>
    let eng : Tab (List EngCmd) := x.eng.map fun e => (e.1, e.2.filter fun c => !p e.1 c)
    { x with eng := eng.filter fun e => !e.2.isEmpty,
             engPark := x.engPark.filter fun e => !p e.1 ((x.eng.get [] e.1).headD
               { id := 0, kind := .fill, pat := 0, scr := 0, word := none, fill := 0, bytes := 0, bay := 0, field := 0, batch := 0,
                 done := 0, fence := [], op := 0, asked := [], got := [] }) }
  let s := gone.foldl (fun s c => s.cmdStopped c) s
  let s := gone.foldl (fun s c => if c.kind = .lxin ∨ c.kind = .lxout then s.endJob (s.blkOf b).die c.op [] else s) s
  s.settle b g

/-- A command that stands in a queue has performed every sector write and credit: it completes (R264). -/
def engEnd (s : State) (b g q id : Nat) : State := s.dropCmds b g fun k x => k == q && x.id == id

/-- The same of the head command of a queue. -/
def engFinish (s : State) (b g q : Nat) : State :=
  match (s.grpOf b g).eng.get [] q with
  | c :: _ => s.engEnd b g q c.id
  | [] => s

/-- A failure of a queue (R260): the head command and the later ones, which have written nothing, stop and complete. A cancelled command
that only waited for its sector write stops without a trap (R268). -/
def engFail (s : State) (b g q code : Nat) (info : DWord) : State :=
  match (s.grpOf b g).eng.get [] q with
  | c :: _ => if !c.stop.isEmpty then s.engFinish b g q else (s.dropCmds b g fun k _ => k == q).failH b g code info
  | [] => s.failH b g code info

/-- The credit of a sector write to a command's barrier word (R259). -/
def engCredit (s : State) (b g q : Nat) (c : EngCmd) (n : Nat) : State :=
  match c.word with
  | none => s
  | some w =>
    match bwCredit (s.bwRead b true w) n with
    | .ok r => s.bwUpdate b true w r
    | .error _ => s.engFail b g q 0x17 (engInfo q w true)

/-- Do commands that an SQFENCE named before this one remain (R267)? -/
def fenced (s : State) (b g : Nat) (c : EngCmd) : Bool :=
  (s.grpOf b g).eng.any fun e => e.2.any fun x => c.fence.contains x.id

/-- May the head command of a queue go on: the block runs, the queue is not parked, nothing fences it? A Loft operation has to be the next of
its bay (R310), also where a halt does not stop it (R313, R317), and writes nothing more for a bay that is being reclaimed (R314). -/
def engMay (s : State) (b g q : Nat) (c : EngCmd) : Bool :=
  !(s.grpOf b g).engPark.has q && !s.fenced b g c &&
    (if c.kind != .lxin && c.kind != .lxout then (s.blkOf b).live
     else s.atHead (s.blkOf b).die c.bay c.op && (!(s.bayOf (s.blkOf b).die c.bay).reclaiming || engWriting c))

/-- Is the source field of an LXOUT lost, or does its parity fail (R312)? The state with what is lost, and TRAPINFO. -/
def engLost (s : State) (b : Nat) (c : EngCmd) : Option (State × DWord) :=
  if c.kind = .lxout then
    let d := (s.blkOf b).die
    match s.lostInfo d c.bay [c.field] with
    | some i => some (s, i)
    | none => (s.parityLost d c.bay [c.field] (rowsOf (c.scr + c.done) (patElems c.pat - c.done)) 0).map fun m =>
      (s.losePlanes d c.bay m, checkInfo c.bay m 0)
  else none

/-- What stopped a sector write: it waits, parks its queue (R231), or fails the command (R260). -/
def engStop (s : State) (b g q : Nat) : EngStop → State
  | .wait => s
  | .fault va r acc p =>
    let (id, s) := s.parkFor (.queue b g q) b acc [(va, r, p)] 0
    s.modGrp b g fun x => { x with engPark := x.engPark.set q id }
  | .protect va => s.engFail b g q 0x06 (BitVec.ofNat 64 va)
  | .fail k va => s.engFail b g q k (engRemoteInfo q va)

/-- The engine works on the head command of a queue, so that the commands of one queue are performed in order and those of different queues
are not ordered (R251): the group's earlier stores and atomics are performed before its first read, so that it sees them (R261, R398), then one sector write
as a whole (R258, R261) with its credit; a command with nothing left completes. -/
def engStep (s : State) (b g q : Nat) : State :=
  match (s.grpOf b g).eng.get [] q with
  | [] => s
  | c :: _ =>
    if !s.engMay b g q c then s
    else if c.done ≥ c.steps then s.engFinish b g q
    else
      let s := if c.done = 0 then s.drain b g else s
      if c.done = 0 && (!(s.grpOf b g).sb.isEmpty || s.atomsOut b g) then s
      else
        match s.engLost b c with
        | some (s, i) => (s.engFinish b g q).failH b g 0x0F i
        | none =>
          match s.engSector b g q c with
          | (s, .error x) => s.engStop b g q x
          | (s, .ok (n, k)) =>
            let s := s.modCmd b g q fun c => { c with done := c.done + k, asked := [], got := [] }
            let s := s.engCredit b g q c n
            if c.stop.isEmpty then s else s.engEnd b g q c.id

end State

/-- ENGINE_SECTOR_WRITE (R258). -/
def execEngineSectorWrite (b g q : Nat) (s : State) : Host.Outcome State Fault Refusal := .next (s.engStep b g q)

/-- ENGINE_COMMAND_COMPLETE (R264). -/
def execEngineCommandComplete (b g q : Nat) (s : State) : Host.Outcome State Fault Refusal :=
  .next (match (s.grpOf b g).eng.get [] q with
    | c :: _ => if s.engMay b g q c && decide (c.done ≥ c.steps) then s.engFinish b g q else s
    | [] => s)

/-! ### The commands (R252 to R257, R263) -/

/-- The commands that the group's engine queues hold; while they are 32, the next one does not issue at all (R252). -/
def engHeld (g : Group) : Nat := (g.eng.map fun e => e.2.length).foldl (· + ·) 0

/-- What an SQFENCE makes a new command of a queue wait for (R267). -/
def engFences (g : Group) (q : Nat) : List Nat := (g.engFence.filter fun e => bitOf e.1 q).flatMap (·.2)

/-- Enter a command into a queue of the issuing group; it joins the batch that the next SCLOSE closes (R264). -/
def pushCmd (c : EngCmd) (q : Nat) (s : State) : State :=
  let (id, s) := s.newId
  s.modG fun g =>
    let c := { c with id := id, batch := g.closed + 1, fence := engFences g q }
    { g with eng := g.eng.set q (g.eng.get [] q ++ [c]) }

/-- A command before it is entered. -/
def newCmd (k : EngKind) (p : BitVec 512) (scr : Nat) (word : Option Nat) (fill : Word) (bytes : Nat) : EngCmd :=
  { id := 0, kind := k, pat := p, scr := scr, word := word, fill := fill, bytes := bytes, bay := 0, field := 0, batch := 0,
    done := 0, fence := [], op := 0, asked := [], got := [] }

/-- The engine accepts a command, which then completes for its flag (R119). -/
def accept (s : State) : State := s.startOp { kind := .queue }

/-- The first element, of u bytes, of a scratch range that does not fit (R255). -/
def firstOut (a u limit : Nat) : Nat := a + (if limit ≤ a then 0 else (limit - a) / u * u)

/-- A data command (R252 to R255). need says what its record must have, u the bytes of an element on the scratch side. -/
def dataCmd (k : EngKind) (q : BitVec 2) (p : BitVec 3) (a b : BitVec 7) (need : BitVec 512 → Bool) (u : BitVec 512 → Nat)
    (s : State) : Eff :=
  let pat := s.grp.q.get p.toNat
  let scr := (s.getS a.toNat).toNat
  let w := (s.getS b.toNat).toNat
  let word := if w = 0xFFFFFFFF then none else some w
  let t := k.total pat
  let lim := s.scrBytes s.focus.blk
  if engHeld s.grp ≥ 32 then .later s
  else if patBytes pat = 0 ∨ !need pat then .bad 0x01
  else if patElems pat = 0 then .ok (accept s)
  else if scr % 32 ≠ 0 then .trap 0x03 (scratchInfo scr 0) s
  else if word.isSome ∧ w % 16 ≠ 0 then .trap 0x03 (scratchInfo w 0) s
  else if scr + t > lim then .trap 0x04 (scratchInfo (firstOut scr (u pat) lim) 0) s
  else if word.isSome ∧ w + 16 > lim then .trap 0x04 (scratchInfo w 0) s
  else .ok (accept (pushCmd (newCmd k pat scr word 0 t) q.toNat s))

def execScp (q : BitVec 2) (p : BitVec 3) (a b : BitVec 7) (s : State) : Host.Outcome State Fault Refusal :=
  issue (.scp q p a b) true
    (dataCmd .scp q p a b (fun r => !patIndirect r && !patTranspose r && !patDequant r) patBytes) s
def execScpo (q : BitVec 2) (p : BitVec 3) (a b : BitVec 7) (s : State) : Host.Outcome State Fault Refusal :=
  issue (.scpo q p a b) true
    (dataCmd .scpo q p a b (fun r => !patIndirect r && !patTranspose r && !patDequant r) patBytes) s
def execSgath (q : BitVec 2) (p : BitVec 3) (a b : BitVec 7) (s : State) : Host.Outcome State Fault Refusal :=
  issue (.sgath q p a b) true (dataCmd .sgath q p a b patIndirect patBytes) s
def execSscat (q : BitVec 2) (p : BitVec 3) (a b : BitVec 7) (s : State) : Host.Outcome State Fault Refusal :=
  issue (.sscat q p a b) true (dataCmd .sscat q p a b patIndirect patBytes) s
def execSdeq (q : BitVec 2) (p : BitVec 3) (a b : BitVec 7) (s : State) : Host.Outcome State Fault Refusal :=
  issue (.sdeq q p a b) true (dataCmd .sdeq q p a b patDequant (fun _ => 64)) s
def execSxpos (q : BitVec 2) (p : BitVec 3) (a b : BitVec 7) (s : State) : Host.Outcome State Fault Refusal :=
  issue (.sxpos q p a b) true (dataCmd .sxpos q p a b patTranspose (fun _ => 32)) s

/-- SFILL (R263). -/
def execSfill (d a b : BitVec 7) (s : State) : Host.Outcome State Fault Refusal :=
  issue (.sfill d a b) true (fun s =>
    let o := (s.getS a.toNat).toNat
    let n := (s.getS b.toNat).toNat
    let lim := s.scrBytes s.focus.blk
    if engHeld s.grp ≥ 32 then .later s
    else if o % 4 ≠ 0 ∨ n % 4 ≠ 0 then .trap 0x03 (scratchInfo o 0) s
    else if o + n > lim then .trap 0x04 (scratchInfo (firstOut o 4 lim) 0) s
    else if n = 0 then .ok (accept s)
    else .ok (accept (pushCmd (newCmd .fill 0 o none (s.getS d.toNat) n) 0 s))) s

/-! ### Engine control (R262 to R268) -/

/-- Read n bytes that one instruction needs before its split goes on: alignment, translation, parking; then k. What lies in another module
is asked for, and the word issues once it has been answered (R371). -/
def withRecord (acc : AccType) (n va : Nat) (k : State → List Byte → Eff) (s : State) : Eff :=
  if s.acqBusy then .later s
  else if va % n ≠ 0 then .trap 0x03 (globalInfo va 0) s
  else
    match s.reach s.blk va n acc with
    | (t, .ok pa) =>
      match drainHits (fun t => t.sbHit t.focus.blk t.focus.grp 96 false pa n) t with
      | (t, true) => k (t.tlpRead pa n) (t.rd pa n)
      | (t, false) => .later t
    | (t, .remote pa) =>
      match t.farLoad (.split t.focus.blk t.focus.grp t.focus.ent) t.blk.die t.fn pa n with
      | (t, some (0, bs)) => k t bs
      | (t, some (7, _)) =>
        match t.parkSplit acc [(va, 0, true)] 0 with
        | (id, u) => .park u id
      | (t, some (c, _)) => .ok (t.addFail t.focus.blk t.focus.grp { code := c, info := globalInfo va 0, stream := false })
      | (t, none) => .later t
    | (t, .protect) => .trap 0x06 (BitVec.ofNat 64 va) t
    | (t, .wait) => .later t
    | (t, .fail c) => .ok (t.addFail t.focus.blk t.focus.grp { code := c, info := globalInfo va 0, stream := false })
    | (t, .fault r) =>
      match t.parkSplit acc [(va, r, false)] 0 with
      | (id, u) => .park u id
    | (t, .poison) =>
      match t.parkSplit acc [(va, 0, true)] 0 with
      | (id, u) => .park u id

/-- PATLD (R262, R33): the split's next word does not issue before qP is written. -/
def execPatld (p : BitVec 3) (a : BitVec 7) (s : State) : Host.Outcome State Fault Refusal :=
  issue (.patld p a) true (fun s =>
    let va := (s.getP a.toNat).toNat
    withRecord .read 64 va (fun s bs =>
      let r := BitVec.ofNat 512 (ofBytes bs)
      match patCheck r with
      | some 0x03 => .trap 0x03 (globalInfo va 0) s
      | some c => .bad c
      | none => .ok (s.modG fun g => { g with q := g.q.set p.toNat r })) s) s

/-- SCLOSE (R264). -/
def execSclose (d : BitVec 7) (s : State) : Host.Outcome State Fault Refusal :=
  issue (.sclose d) true (fun s =>
    if (s.grp.closed - s.grp.done).toNat ≥ 255 then .later s
    else
      let c := s.grp.closed + 1
      let s := (s.modG fun g => { g with closed := c }).settle s.focus.blk s.focus.grp
      .ok (s.startOp { kind := .queue, sres := [(d.toNat, c.zeroExtend 32)] })) s

/-- SWAIT (R265). -/
def execSwait (a : BitVec 7) (s : State) : Host.Outcome State Fault Refusal :=
  issue (.swait a) false (fun s =>
    let n : BitVec 16 := (s.getS a.toNat).truncate 16
    if (s.grp.closed - n).toNat ≥ 2 ^ 15 then .bad 0x01
    else if (s.grp.done - n).toNat < 2 ^ 15 then .ok s
    else .later s) s

/-- SQFENCE (R267): later commands of the named queues wait for the commands that these queues hold now. -/
def execSqfence (m : BitVec 4) (s : State) : Host.Outcome State Fault Refusal :=
  issue (.sqfence m) true (fun s =>
    let ids := (s.grp.eng.filter fun (e : Nat × List EngCmd) => bitOf m.toNat e.1).flatMap fun e => e.2.map (·.id)
    let all := s.grp.eng.flatMap fun e => e.2.map (·.id)
    .ok (accept (s.modG fun g =>
      { g with engFence := (g.engFence.filter fun e => e.2.any fun i => all.contains i) ++
          (if ids.isEmpty then [] else [(m.toNat, ids)]) }))) s

/-- SCANCEL (R268): a command stops at once where it stands between sector writes; one whose sector write is at its home stops when that has
been answered and credited, and the SCANCEL completes after it. The parkings of the queues are void. -/
def execScancel (m : BitVec 4) (s : State) : Host.Outcome State Fault Refusal :=
  issue (.scancel m) true (fun s =>
    let parks := (s.grp.engPark.filter fun (e : Nat × Nat) => bitOf m.toNat e.1).map (·.2)
    let s := { s with parks := s.parks.filter fun e => !parks.contains e.1 }
    let named := s.grp.eng.flatMap fun e => if bitOf m.toNat e.1 then e.2 else []
    let s := s.startOp { kind := .queue, remote := (named.filter State.engWriting).length }
    let mark := fun (c : EngCmd) => if State.engWriting c then { c with stop := s.lastOp :: c.stop } else c
    let s := s.modG fun g => { g with eng := g.eng.map fun e => if bitOf m.toNat e.1 then (e.1, e.2.map mark) else e }
    .ok (s.dropCmds s.focus.blk s.focus.grp fun q c => bitOf m.toNat q && !State.engWriting c)) s

end Sys2Proof.Machine
end

