-- ==== Sys2Proof/Machine/Names.lean ====
section
/-! DEFINITION. The vector registers that a word names whatever MODE holds: the first of each run and its length (R103, R115). -/

namespace Sys2Proof.Machine

/-- The runs of vector registers that an instruction names. Under a pair type a run is longer: the instruction itself checks
that (R42). -/
def vnames : Instr → List (Nat × Nat)
  | .vadd d a b => [(d.toNat, 1), (a.toNat, 1), (b.toNat, 1)]
  | .vsub d a b => [(d.toNat, 1), (a.toNat, 1), (b.toNat, 1)]
  | .vmul d a b => [(d.toNat, 1), (a.toNat, 1), (b.toNat, 1)]
  | .vmulh d a b => [(d.toNat, 1), (a.toNat, 1), (b.toNat, 1)]
  | .vmad d a b => [(d.toNat, 1), (a.toNat, 1), (b.toNat, 1)]
  | .vmadh d a b => [(d.toNat, 1), (a.toNat, 1), (b.toNat, 1)]
  | .vdiv d a b => [(d.toNat, 1), (a.toNat, 1), (b.toNat, 1)]
  | .vrem d a b => [(d.toNat, 1), (a.toNat, 1), (b.toNat, 1)]
  | .vdivm d a b => [(d.toNat, 1), (a.toNat, 1), (b.toNat, 1)]
  | .vand d a b => [(d.toNat, 1), (a.toNat, 1), (b.toNat, 1)]
  | .vor d a b => [(d.toNat, 1), (a.toNat, 1), (b.toNat, 1)]
  | .vxor d a b => [(d.toNat, 1), (a.toNat, 1), (b.toNat, 1)]
  | .vshl d a b => [(d.toNat, 1), (a.toNat, 1), (b.toNat, 1)]
  | .vshr d a b => [(d.toNat, 1), (a.toNat, 1), (b.toNat, 1)]
  | .vsra d a b => [(d.toNat, 1), (a.toNat, 1), (b.toNat, 1)]
  | .vrot d a b => [(d.toNat, 1), (a.toNat, 1), (b.toNat, 1)]
  | .vmin d a b => [(d.toNat, 1), (a.toNat, 1), (b.toNat, 1)]
  | .vmax d a b => [(d.toNat, 1), (a.toNat, 1), (b.toNat, 1)]
  | .vbfe d a b => [(d.toNat, 1), (a.toNat, 1), (b.toNat, 1)]
  | .vbfi d a b => [(d.toNat, 1), (a.toNat, 1), (b.toNat, 1)]
  | .vsel d a b => [(d.toNat, 1), (a.toNat, 1), (b.toNat, 1)]
  | .vaddc d a b => [(d.toNat, 2), (a.toNat, 1), (b.toNat, 1)]
  | .vsad d a b => [(d.toNat, 1), (a.toNat, 1), (b.toNat, 1)]
  | .vdp4 d a b => [(d.toNat, 1), (a.toNat, 1), (b.toNat, 1)]
  | .vlut3 d a _ => [(d.toNat, 1), (a.toNat, 2)]
  | .vmovi d _ => [(d.toNat, 1)]
  | .vmov d a => [(d.toNat, 1), (a.toNat, 1)]
  | .vnot d a => [(d.toNat, 1), (a.toNat, 1)]
  | .vabs d a => [(d.toNat, 1), (a.toNat, 1)]
  | .vneg d a => [(d.toNat, 1), (a.toNat, 1)]
  | .vclz d a => [(d.toNat, 1), (a.toNat, 1)]
  | .vpopc d a => [(d.toNat, 1), (a.toNat, 1)]
  | .vbrev d a => [(d.toNat, 1), (a.toNat, 1)]
  | .vlane d => [(d.toNat, 1)]
  | .vbcast d _ => [(d.toNat, 1)]
  | .vcmpEq _ a b => [(a.toNat, 1), (b.toNat, 1)]
  | .vcmpNe _ a b => [(a.toNat, 1), (b.toNat, 1)]
  | .vcmpLt _ a b => [(a.toNat, 1), (b.toNat, 1)]
  | .vcmpLe _ a b => [(a.toNat, 1), (b.toNat, 1)]
  | .vcmpGt _ a b => [(a.toNat, 1), (b.toNat, 1)]
  | .vcmpGe _ a b => [(a.toNat, 1), (b.toNat, 1)]
  | .vfadd d a b => [(d.toNat, 1), (a.toNat, 1), (b.toNat, 1)]
  | .vfsub d a b => [(d.toNat, 1), (a.toNat, 1), (b.toNat, 1)]
  | .vfmul d a b => [(d.toNat, 1), (a.toNat, 1), (b.toNat, 1)]
  | .vfma d a b => [(d.toNat, 1), (a.toNat, 1), (b.toNat, 1)]
  | .vfmin d a b => [(d.toNat, 1), (a.toNat, 1), (b.toNat, 1)]
  | .vfmax d a b => [(d.toNat, 1), (a.toNat, 1), (b.toNat, 1)]
  | .vfdiv d a b => [(d.toNat, 1), (a.toNat, 1), (b.toNat, 1)]
  | .vfldexp d a b => [(d.toNat, 1), (a.toNat, 1), (b.toNat, 1)]
  | .vdot2 d a b => [(d.toNat, 1), (a.toNat, 1), (b.toNat, 1)]
  | .vfcmpEq _ a b => [(a.toNat, 1), (b.toNat, 1)]
  | .vfcmpNe _ a b => [(a.toNat, 1), (b.toNat, 1)]
  | .vfcmpLt _ a b => [(a.toNat, 1), (b.toNat, 1)]
  | .vfcmpLe _ a b => [(a.toNat, 1), (b.toNat, 1)]
  | .vfcmpGt _ a b => [(a.toNat, 1), (b.toNat, 1)]
  | .vfcmpGe _ a b => [(a.toNat, 1), (b.toNat, 1)]
  | .vfcmpUn _ a b => [(a.toNat, 1), (b.toNat, 1)]
  | .vfcmpOrd _ a b => [(a.toNat, 1), (b.toNat, 1)]
  | .vfabs d a => [(d.toNat, 1), (a.toNat, 1)]
  | .vfneg d a => [(d.toNat, 1), (a.toNat, 1)]
  | .vrcp d a => [(d.toNat, 1), (a.toNat, 1)]
  | .vrsq d a => [(d.toNat, 1), (a.toNat, 1)]
  | .vsqrt d a => [(d.toNat, 1), (a.toNat, 1)]
  | .vexp2 d a => [(d.toNat, 1), (a.toNat, 1)]
  | .vlog2 d a => [(d.toNat, 1), (a.toNat, 1)]
  | .vsin d a => [(d.toNat, 1), (a.toNat, 1)]
  | .vcos d a => [(d.toNat, 1), (a.toNat, 1)]
  | .vtanh d a => [(d.toNat, 1), (a.toNat, 1)]
  | .vfrc d a => [(d.toNat, 1), (a.toNat, 1)]
  | .vfrnd d a => [(d.toNat, 1), (a.toNat, 1)]
  | .vfgexp d a => [(d.toNat, 1), (a.toNat, 1)]
  | .vfclass d a => [(d.toNat, 1), (a.toNat, 1)]
  | .vact d a _ => [(d.toNat, 1), (a.toNat, 1)]
  | .vcvt d a _ => [(d.toNat, 1), (a.toNat, 1)]
  | .vquant d a _ => [(d.toNat, 1), (a.toNat, 1)]
  | .vdeq d a _ => [(d.toNat, 1), (a.toNat, 1)]
  | .vpack d a b => [(d.toNat, 1), (a.toNat, 1), (b.toNat, 1)]
  | .vunpack d a _ => [(d.toNat, 1), (a.toNat, 1)]
  | .vexpand d a f => [(d.toNat, (match f with | .e2m3 => 1 | .e3m2 => 1 | _ => 2)), (a.toNat, 1)]
  | .qswapx d a => [(d.toNat, 1), (a.toNat, 1)]
  | .qswapy d a => [(d.toNat, 1), (a.toNat, 1)]
  | .qbcast d a _ => [(d.toNat, 1), (a.toNat, 1)]
  | .qdiff d a _ => [(d.toNat, 1), (a.toNat, 1)]
  | .vshfl d a b => [(d.toNat, 1), (a.toNat, 1), (b.toNat, 1)]
  | .vshflup d a _ => [(d.toNat, 1), (a.toNat, 1)]
  | .vshfldn d a _ => [(d.toNat, 1), (a.toNat, 1)]
  | .vshflx d a _ => [(d.toNat, 1), (a.toNat, 1)]
  | .vmatch d a _ => [(d.toNat, 3), (a.toNat, 1)]
  | .vredi d a _ => [(d.toNat, 1), (a.toNat, 1)]
  | .vsumf d a => [(d.toNat, 1), (a.toNat, 1)]
  | .vscan d a _ _ => [(d.toNat, 1), (a.toNat, 1)]
  | .ldG32 d v _ _ => [(d.toNat, 1), (v.toNat, 1)]
  | .ldG64 d v _ _ => [(d.toNat, 2), (v.toNat, 1)]
  | .ldG128 d v _ _ => [(d.toNat, 4), (v.toNat, 1)]
  | .stG32 d v _ _ => [(d.toNat, 1), (v.toNat, 1)]
  | .stG64 d v _ _ => [(d.toNat, 2), (v.toNat, 1)]
  | .stG128 d v _ _ => [(d.toNat, 4), (v.toNat, 1)]
  | .lds d v _ z => [(d.toNat, accBytes z / 4), (v.toNat, 1)]
  | .sts d v _ z => [(d.toNat, accBytes z / 4), (v.toNat, 1)]
  | .ldc d v _ z => [(d.toNat, accBytes z / 4), (v.toNat, 1)]
  | .ldAcq d v _ _ => [(d.toNat, 1), (v.toNat, 1)]
  | .stRel d v _ _ => [(d.toNat, 1), (v.toNat, 1)]
  | .atom d a o p w _ => [(d.toNat, (if w then 2 else 1) * (if o = .cas then 2 else 1)), (a.toNat, if p then 1 else 2)]
  | .red d a o p w _ => [(d.toNat, (if w then 2 else 1) * (if o = .cas then 2 else 1)), (a.toNat, if p then 1 else 2)]
  | .scatadd d a o p w _ => [(d.toNat, (if w then 2 else 1) * (if o = .cas then 2 else 1)), (a.toNat, if p then 1 else 2)]
  | .pref v _ _ => [(v.toNat, 1)]
  | .kvxRd d a => [(d.toNat, 2), (a.toNat, 2)]
  | .kvxWr d a => [(d.toNat, 2), (a.toNat, 2)]
  | .kvpin d a => [(d.toNat, 1), (a.toNat, 1)]
  | .kvrel d a => [(d.toNat, 1), (a.toNat, 1)]
  | _ => []

/-- Must the word be the last of its clause (R117)? -/
def isTransfer : Instr → Bool
  | .bra _ | .brx _ | .call _ | .callx _ | .ret | .exit | .rteRetry | .rteCont | .msjmp _ | .msloop _ _ | .msrestart _
  | .msend => true
  | _ => false

end Sys2Proof.Machine
end

