-- ==== Sys2Proof/Machine/Issue.lean ====
section
/-! DEFINITION. Fetching a word and checking it (R113, R137, R138), and which agent issues next (R104 to R107). -/

namespace Sys2Proof.Machine

/-- What a fetch ends with. -/
inductive Fetched where
  | instr (i : Instr)
  | trap (code : Nat) (info : DWord)
  | park (reason : Nat) (poison : Bool) (va : Nat)
  | fail (code : Nat) (va : Nat)
  | wait
  deriving DecidableEq, Repr

/-- Steps 2 to 9 of R138 for a fetched word. stream: is it the matrix stream's; left: the words left in the clause, 0 where a
header is required; within: the allotment check of R103. -/
def checkWord (stream : Bool) (left pc : Nat) (within : Nat → Nat → Bool) (w : Word) : Fetched :=
  let bad := fun c => Fetched.trap c (wordInfo w pc)
  if decide (prim w ≥ 0xF0) != (left == 0) then bad 0x01
  else if prim w ≥ 0xF0 then
    match decodeHeader (w &&& ~~~1) with
    | .ok i =>
      if !i.wf then bad 0x01
      else if bit w 0 || (stream && decide (w.toNat / 2 ^ 16 % 2 ^ 12 ≠ 0 ∨ w.toNat / 2 ^ 8 % 256 ≠ 255 ∨ w.toNat / 2 % 8 ≠ 0)) then
        bad 0x02
      else .instr i
    | .error _ => bad 0x02
  else if (decide (0xD0 ≤ prim w ∧ prim w ≤ 0xDF)) != stream then bad 0x01
  else
    match decode w with
    | .error .reserved => bad 0x02
    | .error _ => bad 0x01
    | .ok i =>
      if !i.wf || !((vnames i).all fun r => within r.1 r.2) then bad 0x01
      else if isTransfer i && left != 1 then bad 0x01
      else .instr i

namespace State

/-- Fetch the word at a PC of a block (R113, R138 step 1, R231); no clause header, and no word, lies at an offset that is not a multiple of 4
(R24, R113). Of a code word that is rewritten while its grid runs the value in memory is read, one of the two that R25 allows (DESIGN
CHOICE, log 72). -/
def fetch (s : State) (b : Nat) (stream : Bool) (left pc : Nat) (within : Nat → Nat → Bool) : State × Fetched :=
  let x := s.blkOf b
  let gr := s.gridOf x.grid
  if pc % 4 ≠ 0 ∨ pc + 4 > gr.codeBytes then
    let (w, s) := s.fresh 32
    (s, .trap 0x01 (wordInfo w pc))
  else
    match gr.codeCopy with
    | some c => (s, checkWord stream left pc within (BitVec.ofNat 32 (getNum c pc 4)))
    | none =>
    match s.reach x (gr.code + pc) 4 .fetch with
    | (s, .ok pa) => (s, checkWord stream left pc within (BitVec.ofNat 32 (s.rdNum pa 4)))
    | (s, .remote pa) =>
      match s.farLoad (if stream then .stream b else .fetch b s.focus.grp s.focus.ent) x.die gr.fn pa 4 with
      | (s, some (0, bs)) => (s, checkWord stream left pc within (BitVec.ofNat 32 (ofBytes bs)))
      | (s, some (7, _)) => (s, .park 0 true (gr.code + pc))
      | (s, some (c, _)) => (s, .fail c (gr.code + pc))
      | (s, none) => (s, .wait)
    | (s, .fault r) => (s, .park r false (gr.code + pc))
    | (s, .poison) => (s, .park 0 true (gr.code + pc))
    | (s, .protect) => (s, .trap 0x06 (BitVec.ofNat 64 (gr.code + pc)))
    | (s, .fail c) => (s, .fail c (gr.code + pc))
    | (s, .wait) => (s, .wait)

/-- May the split's next word be tried: the split is ready and the word was not found held back in this epoch, or it leaves a merge point
(R104, R148, R156)? -/
def canTry (s : State) (b g e : Nat) : Bool :=
  let x := s.splOf b g e
  match x.status with
  | .waiting (.merge t) =>
    x.held != some s.epoch && ((s.grpOf b g).entries.all (fun y => y.1 == e || !s.isReady y.2) || decide (s.clock ≥ t + 1024))
  | _ => s.isReady x && x.held != some s.epoch && x.loads.isNone

/-- Is the split mid-clause (R106)? -/
def midClause (s : State) (b g e : Nat) : Bool := (s.splOf b g e).left != 0

/-- The cores that have a pending pre-emption request (R104). -/
def pendingCores (s : State) : List (Nat × Nat) :=
  (s.blocks.filter fun e => e.2.preempt.isSome).map fun e => (e.2.die, e.2.core)

/-- May the split issue? Under a pending pre-emption request of its core no clause header does (R104). -/
def mayWith (s : State) (pend : List (Nat × Nat)) (b g e : Nat) : Bool :=
  (s.blkOf b).live && s.canTry b g e && (!pend.contains ((s.blkOf b).die, (s.blkOf b).core) || s.midClause b g e)
def splitMay (s : State) (b g e : Nat) : Bool := s.mayWith s.pendingCores b g e

/-- May the matrix stream of a block issue? -/
def streamMay (s : State) (b : Nat) : Bool :=
  let x := s.blkOf b
  x.live && x.hasMs && !x.ms.ended && !x.ms.halted && x.ms.parked.isNone && !s.pendingCores.contains (x.die, x.core)

/-- Role priority (R105). -/
def rolePrio : Nat → Nat
  | 1 => 3
  | 2 => 2
  | 4 => 1
  | _ => 0

/-- The key by which R105 orders a ready group whose split e would issue, least first: under a pre-emption deadline, overdue, role priority,
last issue, where a clause completed with its Yield bit counts as an issue in the current cycle. -/
def groupKey (s : State) (pend : List (Nat × Nat)) (b : Nat) (g : Group) (x : Split) : List Nat :=
  let late := g.overdue || decide (s.clock ≥ g.lastIssue + 2048)
  let deadline := pend.contains ((s.blkOf b).die, (s.blkOf b).core) && x.left != 0
  [if deadline then 0 else 1, if late then 0 else 1, if late then 0 else 3 - rolePrio g.code,
   if g.yielded && !late then s.clock else g.lastIssue, g.lastIssue]

/-- Of splits, the first of those that issued latest. -/
def latest : List (Nat × Split) → Option (Nat × Split)
  | [] => none
  | e :: t => some (t.foldl (fun (m : Nat × Split) y => if m.2.lastIssue < y.2.lastIssue then y else m) e)

/-- The split that a group takes (R106): the one in mid-clause that issued last, else the one that issued least recently, the lowest entry among
equals. After a YIELD, or a clause with the Yield bit, that is another than the one that issued last, if another is ready (R105, R166). While a split
waits or is parked in mid-clause, another one of its group may open a clause, and keeps the issue to that clause's end (DESIGN CHOICE, log 95). -/
def pickSplit (s : State) (pend : List (Nat × Nat)) (b g : Nat) : Option (Nat × Split) :=
  let x := s.grpOf b g
  let may := x.entries.filter fun e => s.mayWith pend b g e.1
  match latest (may.filter fun e => e.2.left != 0) with
  | some e => some e
  | none =>
    let last := x.entries.foldl (fun m e => max m e.2.lastIssue) 0
    let others := may.filter fun e => !(e.2.yieldBit && e.2.lastIssue == last)
    match if others.isEmpty then may else others with
    | [] => none
    | e :: t => some (t.foldl (fun (m : Nat × Split) y => if y.2.lastIssue < m.2.lastIssue then y else m) e)

/-- A sub-partition of a core, which has a group scheduler of its own (R5). -/
structure Port where
  die : Nat
  core : Nat
  part : Nat
  deriving DecidableEq, Repr

/-- A group that may issue: its scheduler, its key and the split. -/
structure Candidate where
  port : Port
  key : List Nat
  focus : Focus

/-- The groups that may issue, in block order. -/
def candidates (s : State) : List Candidate :=
  let pend := s.pendingCores
  s.blocks.flatMap fun e => if !e.2.live then [] else e.2.groups.filterMap fun g =>
    (s.pickSplit pend e.1 g.1).map fun n =>
      { port := { die := e.2.die, core := e.2.core, part := g.2.part }, key := s.groupKey pend e.1 g.2 n.2,
        focus := { blk := e.1, grp := g.1, ent := n.1 } }

/-- The first of a list in the order of R105. -/
def firstOf : List Candidate → Option Candidate
  | [] => none
  | c :: t => some (t.foldl (fun m y => if y.key < m.key then y else m) c)

/-- What a group scheduler issues next (R105). -/
def portPick (s : State) (p : Port) : Option Focus := (firstOf (s.candidates.filter fun c => c.port == p)).map (·.focus)

/-- The scheduler of a group. -/
def portOf (s : State) (b g : Nat) : Port := { die := (s.blkOf b).die, core := (s.blkOf b).core, part := (s.grpOf b g).part }

/-- Is a split the one that its group scheduler issues next (R105, R106)? -/
def isNext (s : State) (b g e : Nat) : Bool := s.portPick (s.portOf b g) == some { blk := b, grp := g, ent := e }

/-- When a scheduler last issued. -/
def portLast (s : State) (p : Port) : Nat :=
  s.blocks.foldl (fun m e => if e.2.die = p.die ∧ e.2.core = p.core then
    e.2.groups.foldl (fun m g => if g.2.part = p.part then max m g.2.lastIssue else m) m else m) 0

/-- The agent that issues when the agenda names none. The schedulers work side by side; one step issues one word, of the scheduler that issued
least recently, and the words of the matrix streams, which have an issue port of their own, alternate with theirs (log 59). -/
def pickAgent (s : State) : Option Focus :=
  let stream := ((s.blocks.find? fun e => decide (s.focus.blk < e.1) && s.streamMay e.1 && !e.2.ms.waiting).orElse
    fun _ => s.blocks.find? fun e => s.streamMay e.1 && !e.2.ms.waiting).map fun e => ({ blk := e.1, stream := true } : Focus)
  let cs := s.candidates
  let group := match dedup (cs.map (·.port)) with
    | [] => none
    | p :: t =>
      let best := t.foldl (fun m y => if s.portLast y < s.portLast m then y else m) p
      (firstOf (cs.filter fun c => c.port == best)).map (·.focus)
  if s.focus.stream then group.orElse fun _ => stream else stream.orElse fun _ => group

/-- The trap, parking or wait of a fetch of the focused split (R138, R231). -/
def fetchEnd (s : State) : Fetched → State
  | .instr _ => s
  | .trap c i => tookIssue s (s.takeTrap s.focus.blk s.focus.grp s.focus.ent c i { frameOf s.spl with word := lo32 i })
  | .park r p va =>
    let (id, t) := s.parkSplit .fetch [(va, r, p)] 0
    t.modS fun x => { x with status := .parked id }
  | .fail c va => s.failH s.focus.blk s.focus.grp c (globalInfo va 0)
  | .wait => s.modS fun x => { x with held := some s.epoch }

/-- The same for the matrix stream of the focused block (R231, R273). -/
def fetchEndMs (s : State) : Fetched → State
  | .instr _ => s
  | .trap c i => s.streamTrap s.focus.blk c i
  | .park r p va =>
    let (id, t) := s.parkFor (.stream s.focus.blk) s.focus.blk 3 [(va, r, p)] 0
    t.modM fun m => { m with parked := some id }
  | .fail c va => s.streamTrap s.focus.blk c (globalInfo va 0)
  | .wait => s.modM fun m => { m with waiting := true }

/-- What the focused agent fetches: the state after the fetch and what came of it. -/
def fetchFocus (s : State) : State × Fetched :=
  if s.focus.stream then s.fetch s.focus.blk true s.ms.left s.ms.pc (fun _ _ => true)
  else s.fetch s.focus.blk false s.spl.left s.spl.pc s.within

/-- A failure that waits is taken before the header that the focused split is about to issue (R412), but for a header to which an RTE has just
returned: that one issues first (R173). -/
def takesH (s : State) : Bool :=
  !s.focus.stream && s.spl.left == 0 && !s.grp.fails.isEmpty && s.spl.frame.isNone && s.spl.atH.isNone

end State

end Sys2Proof.Machine
end

