-- ==== Sys2Proof/Machine/Complete.lean ====
section
/-! DEFINITION. Operations that come to their ends (R119, R180, R239, R177, R156, R105, R412), the governor's windows (R109), and
ACTLD, whose load of an activation table ends as an operation of its own (spec/07_scalar_vector.md R195, R196). -/

namespace Sys2Proof.Machine

/-! ### ACTLD (R196) -/

/-- The mark of a parked ACTLD: its replay does not find its own load in the way. -/
def ownLoad : LaneMask := BitVec.allOnes 96

/-- Set the state of an activation table of the focused block. -/
def State.setAct (s : State) (k : Nat) (t : ActTable) : State := s.modB fun b => { b with act := b.act.set k t }

/-- ACTLD (R196), steps 1 to 3: the table becomes loading, and the split, which stays ready, issues no word before the load has ended (R104).
The word is complete, for the PC and SIG, when it has. It accesses no memory before an acquire is answered (R397). -/
def execActld (a : BitVec 7) (n : BitVec 3) (s : State) : Host.Outcome State Fault Refusal :=
  let w := encode (.actld a n)
  let k := n.toNat
  let va := (s.getP a.toNat).toNat
  .next (
    if (s.actTab k).st = 1 ∧ s.spl.replay.isNone then endOf w false s (.trap 0x0D (BitVec.ofNat 64 k) (startWord w s))
    else if va % 64 ≠ 0 then endOf w false s (.trap 0x03 (globalInfo va 0) (startWord w s))
    else if s.acqBusy then endOf w false s (.later s)
    else
      let t := (s.setAct k { st := 1, addr := va }).modS fun x =>
        { x with loads := some (a.toNat, k), replay := none, lastIssue := s.clock }
      (t.modG fun g => { g with lastIssue := s.clock, overdue := false, yielded := false }).tickCore s.focus.blk)

/-- What the read of a table's bytes ends with. -/
inductive ActRead where
  | ok (bs : List Byte)
  | stop (va : Nat) (r : Reach)

namespace State

/-- Read n bytes for an ACTLD, page by page (R221, R227): what another module holds is asked for (R371), and what the group's store buffer
holds is performed first. -/
def readTable (s : State) : Nat → Nat → Nat → State × ActRead
  | 0, _, _ => (s, .ok [])
  | k + 1, va, n =>
    if n = 0 then (s, .ok [])
    else
      let m := min n (4096 - va % 4096)
      match s.reach s.blk va m .read with
      | (s, .ok pa) =>
        let s := if s.sbHit s.focus.blk s.focus.grp 96 false pa m then s.drain s.focus.blk s.focus.grp else s
        if s.sbHit s.focus.blk s.focus.grp 96 false pa m then (s, .stop va .wait)
        else
          match s.readTable k (va + m) (n - m) with
          | (s, .ok t) => ((s.tlpRead pa m), .ok (s.rd pa m ++ t))
          | (s, .stop v r) => (s, .stop v r)
      | (s, .remote pa) =>
        match s.farDo s.fn pa (.read m) with
        | (s, some (0, bs)) =>
          match s.readTable k (va + m) (n - m) with
          | (s, .ok t) => (s, .ok (bs ++ t))
          | (s, .stop v r) => (s, .stop v r)
        | (s, some (7, _)) => (s, .stop va .poison)
        | (s, some (c, _)) => (s, .stop va (.fail c))
        | (s, none) => (s, .stop va .wait)
      | (s, r) => (s, .stop va r)

end State

/-- Steps 4 and 5 of R196: the checks, and the table; the trap code where a check fails. -/
def checkTable (va : Nat) (bs : List Byte) : Except Nat ActTable :=
  let t : ActTable := { st := 2, data := putBytes [] 0 bs, addr := va }
  let lo := t.f32 0
  let hi := t.f32 4
  if (getBytes t.data 0x10 0x30).any fun b => b != 0 then .error 0x02
  else if lo.isNaN || lo.isInf || hi.isNaN || hi.isInf || !ltN lo hi then .error 0x01
  else .ok { t with w := BitVec.ofNat 32 (roundTo fp32 0 false (divN (intN 256) (sumN 0 [hi, lo.neg]))) }

/-- The load of table k ends for the focused split, whose ACTLD names register a (R196). -/
def endLoad (a k : Nat) (s : State) : State :=
  let w := encode (.actld (BitVec.ofNat 7 a) (BitVec.ofNat 3 k))
  let va := (s.actTab k).addr
  let unload := fun (t : State) => t.modS fun x => { x with loads := none }
  let fin := fun (t : State) (e : ActTable) (f : State → State) => endWord false (f (startWord w (unload (t.setAct k e))))
  let trap := fun (t : State) (c : Nat) (i : DWord) => endOf w false s (.trap c i (startWord w (unload (t.setAct k {}))))
  match s.readTable 3 va 3136 with
  | (t, .ok bs) =>
    match checkTable va bs with
    | .ok e => fin t e id
    | .error c => trap t c (wordInfo w s.spl.pc)
  | (t, .stop v r) =>
    match r with
    | .fault c =>
      match t.parkSplit .read [(v, c, false)] ownLoad with
      | (id, u) => u.modS fun x => { x with status := .parked id }
    | .poison =>
      match t.parkSplit .read [(v, 0, true)] ownLoad with
      | (id, u) => u.modS fun x => { x with status := .parked id }
    | .protect => trap t 0x06 (BitVec.ofNat 64 v)
    | .fail c => fin t {} fun u => u.addFail u.focus.blk u.focus.grp { code := c, info := globalInfo v 0, stream := false }
    | _ => t

/-- ACTLD_LOAD_END (R196). -/
def execActldLoadEnd (b g e : Nat) (s : State) : Host.Outcome State Fault Refusal :=
  .next (match (s.splOf b g e).loads with
    | some (a, k) =>
      if (s.blkOf b).live && (s.splOf b g e).status == .ready then
        { s with focus := { blk := b, grp := g, ent := e } }.farRun (.split b g e) (s.blkOf b).die (endLoad a k)
      else s
    | none => s)

/-! ### Operations that complete -/

/-- May an operation complete: its kind is among those given, every message of it has been answered, and its block runs? -/
def State.opDone (s : State) (ks : List OpKind) (op : Nat) : Bool :=
  s.ops.has op && ks.contains (s.opOf op).kind && (s.opOf op).remote == 0 && (s.blkOf (s.opOf op).blk).live

/-- LOAD_COMPLETE (R119): of a load, or of the acceptance of an engine command, a queue submission or a batch number. -/
def execLoadComplete (op : Nat) (s : State) : Host.Outcome State Fault Refusal :=
  .next (if s.opDone [.load, .queue] op then s.finishOp op else s)

/-- ATOMIC_COMPLETE (R119, R246). -/
def execAtomicComplete (op : Nat) (s : State) : Host.Outcome State Fault Refusal :=
  .next (if s.opDone [.atomic] op then s.finishOp op else s)

/-- DIVIDER_COMPLETE (R180). -/
def execDividerComplete (op : Nat) (s : State) : Host.Outcome State Fault Refusal :=
  .next (if s.opDone [.divide] op then s.finishOp op else s)

/-- STORE_ACK (R239): the oldest entry of a group's store buffer that is not yet performed is performed, if it can be. -/
def execStoreAck (b g : Nat) (s : State) : Host.Outcome State Fault Refusal :=
  .next (if (s.blkOf b).live then s.drainN b g 1 else s)

/-! ### Waits that end -/

/-- SLEEP_EXPIRE (R177). -/
def execSleepExpire (b g e : Nat) (s : State) : Host.Outcome State Fault Refusal :=
  .next (match (s.splOf b g e).status with
    | .waiting (.sleep t) => if s.clock ≥ t then s.modSplOf b g e fun x => { x with status := .ready } else s
    | _ => s)

/-- MERGE_WAIT_TIMEOUT (R156): after 1024 cycles the split goes on without merging. -/
def execMergeWaitTimeout (b g e : Nat) (s : State) : Host.Outcome State Fault Refusal :=
  .next (match (s.splOf b g e).status with
    | .waiting (.merge t) =>
      if s.clock ≥ t + 1024 then s.modSplOf b g e fun x => { x with status := .ready, merged := true } else s
    | _ => s)

/-- GROUP_OVERDUE (R105): a ready group that has not issued for 2048 cycles. -/
def execGroupOverdue (b g : Nat) (s : State) : Host.Outcome State Fault Refusal :=
  .next (if decide (s.clock ≥ (s.grpOf b g).lastIssue + 2048) && (List.range 4).any fun e => s.splitMay b g e then
    s.modGrp b g fun x => { x with overdue := true } else s)

/-- TRAP_DELIVERY_H (R412): a split about to issue a header takes the oldest failure that waits in its group. -/
def execTrapDeliveryH (b g e : Nat) (s : State) : Host.Outcome State Fault Refusal :=
  .next (if s.splitMay b g e && !s.midClause b g e && (s.splOf b g e).atH.isNone then s.deliverH b g e else s)

/-! ### The issue-budget governor (R108, R109) -/

/-- A window of a core starts: its credit, and the MMAs that it held are tried again. -/
def State.windowStart (d c : Nat) (s : State) : State :=
  let s := s.modCore d c fun x => { x with credit := min (x.credit + 8 * x.b) (8 * x.b) }
  { s with blocks := s.blocks.map fun (e : Nat × Block) =>
      (e.1, if e.2.die = d ∧ e.2.core = c ∧ e.2.ms.heldOnce then { e.2 with ms := { e.2.ms with waiting := false } } else e.2) }

/-- GOVERNOR_WINDOW_START. -/
def execGovernorWindowStart (d c : Nat) (s : State) : Host.Outcome State Fault Refusal := .next (s.windowStart d c)

/-- GOVERNOR_WINDOW_END: the budget rises by a granted raise or falls, and stays between Floor and Max. -/
def execGovernorWindowEnd (d c : Nat) (s : State) : Host.Outcome State Fault Refusal :=
  .next (
    let x := s.coreOf d c
    let y := s.dieOf d
    let up := x.heldWin && decide (x.b < y.govMax) && decide (y.stock > 0)
    let b := if up then x.b + 1 else if !x.heldWin && !x.issuedWin then x.b - 1 else x.b
    let s := s.modDie d fun y => if up then { y with stock := y.stock - 1, grant := c } else y
    s.modCore d c fun x => { x with b := max y.govFloor (min b y.govMax), heldWin := false, issuedWin := false })

/-- GOVERNOR_PERIOD: the die's stock of grants. -/
def execGovernorPeriod (d : Nat) (s : State) : Host.Outcome State Fault Refusal :=
  .next (s.modDie d fun y =>
    let n := bits y.govctl.toNat 7 0
    { y with stock := if n = 0 then 96 else n })

/-- GOVCTL_WRITE (R108): in force at each core's next window end, on idle cores too. -/
def execGovctlWrite (d v : Nat) (s : State) : Host.Outcome State Fault Refusal :=
  .next (((List.range 96).foldl (fun s c => s.modCore d c id) s).modDie d fun y => { y with govctl := BitVec.ofNat 32 v &&& 0x000FF0FF })

end Sys2Proof.Machine
end

