-- ==== Sys2Proof/Machine/Save.lean ====
section
/-! DEFINITION. A context's save area (spec/16_interruption.md R424, R425): the room in it, what a save writes there and what a resume reads
back. Its layout is private to the device: the bytes written, and what bytes mean that this module did not write, are left open (log 7). -/

namespace Sys2Proof.Machine

/-- Bytes of register file of a group (R91); 0 vregs means 256. -/
def groupBytes (v : Nat) : Nat := 384 * if v = 0 then 256 else v

namespace State

/-- The size of a block's save (R425), in whole pages of 4 KiB. -/
def saveBytes (s : State) (b : Nat) : Nat :=
  let x := s.blkOf b
  let rf := (x.groups.map fun g => groupBytes g.2.vregs).foldl (· + ·) 0
  let n := rf + s.scrBytes b + 81920 * x.groups.length + 65536 + (if x.hasMs then 348160 else 0)
  4096 * ((n + 4095) / 4096)

/-- The save area of a context: its base, and its pages of 4 KiB (R425). -/
def areaBase (s : State) (fn ctx : Nat) : Nat := bits (s.ctxOf fn ctx).save.toNat 55 12 * 4096
def areaPages (s : State) (fn ctx : Nat) : Nat := bits (s.ctxOf fn ctx).save.toNat 11 0 * 4096

/-- Is a block one of a context? -/
def ofCtx (s : State) (fn ctx : Nat) (b : Block) : Bool := (s.gridOf b.grid).fn == fn && (s.gridOf b.grid).ctx == ctx

/-- The pages of a save area that hold a record: a block's while it is saved, a grid's from its save to its resume. -/
def usedPages (s : State) (fn ctx : Nat) : List Nat :=
  (s.blocks.filter fun e => e.2.life == .saved && s.ofCtx fn ctx e.2).flatMap (fun e => e.2.pages) ++
    (s.grids.filter fun e => !e.2.retired && e.2.fn == fn && e.2.ctx == ctx).flatMap fun e => e.2.pages

/-- The lowest n pages of a save area that hold nothing; some of them may lie beyond its end. -/
def freePages (s : State) (fn ctx n : Nat) : List Nat :=
  let used := s.usedPages fn ctx
  ((List.range (n + used.length)).filter fun p => !used.contains p).take n

/-- The pages that a context's area has left for another block: each unretired grid takes one (R425), and the blocks that have been asked to halt
take theirs. -/
def roomPages (s : State) (fn ctx : Nat) : Nat :=
  let asked := s.blocks.filter fun e => (e.2.life == .running || e.2.life == .carved) && e.2.preempt.isSome && s.ofCtx fn ctx e.2 &&
    !(s.gridOf e.2.grid).restartable
  let grids := (s.ctxGrids fn ctx).filter fun g => (s.gridOf g).pages.isEmpty
  s.areaPages fn ctx - ((s.usedPages fn ctx).length + (asked.map fun e => s.saveBytes e.1 / 4096).sum + grids.length)

/-- Write a record page by page: whether it could be written. -/
def writePages (s : State) (die fn ctx base : Nat) : List Nat → List Byte → State × Bool
  | [], _ => (s, true)
  | p :: t, bs =>
    match s.devWrite die fn ctx (base + 4096 * p) (bs.take 4096) with
    | (s, true) => s.writePages die fn ctx base t (bs.drop 4096)
    | (s, false) => (s, false)

/-- Read n bytes of a record page by page; what cannot be read ends it. -/
def readPages (s : State) (die fn ctx base : Nat) : List Nat → Nat → State × List Byte
  | [], _ => (s, [])
  | p :: t, n =>
    match s.devRead die fn ctx (base + 4096 * p) (min n 4096) with
    | (s, none) => (s, [])
    | (s, some bs) =>
      match s.readPages die fn ctx base t (n - 4096) with
      | (s, more) => (s, bs ++ more)

/-- Write a record of n pages to a context's area: the pages and the bytes; none where it does not fit, or cannot be written. -/
def saveRecord (s : State) (die fn ctx n : Nat) : Option (State × List Nat × List Byte) :=
  let ps := s.freePages fn ctx n
  if ps.any fun p => decide (p ≥ s.areaPages fn ctx) then none
  else
    let image := (Config.saveImage s.tick).take (4096 * n)
    match s.writePages die fn ctx (s.areaBase fn ctx) ps image with
    | (s, true) => some ({ s with tick := s.tick + 1 }, ps, image)
    | (_, false) => none

/-- What a record of a resumed group holds whose bytes are not those that were saved: the group keeps its identity and its allotment, and none of what
names a physical place or an operation under way (R12, R424). -/
def openedGroup (kept : Group) (x : Group) : Group :=
  { x with gid := kept.gid, slot := kept.slot, code := kept.code, index := kept.index, vregs := kept.vregs, lanes := kept.lanes, part := kept.part,
           splits := x.splits.map fun e => (e.1 % 4, if e.2.status == .empty then e.2 else { e.2 with status := .ready, loads := none }),
           sb := [], unacked := 0, eng := [], engPark := [], engFence := [], fails := [], commit := none, mmioDirty := [] }

/-- A block as the record in its context's area gives it: as it was saved, or, where software has changed the record, what the device makes of
those bytes (R12, R424; DESIGN CHOICE, log 7). -/
def takeBack (s : State) (b d : Nat) : State × Block :=
  let x := s.blkOf b
  let g := s.gridOf x.grid
  match s.readPages d g.fn g.ctx (s.areaBase g.fn g.ctx) x.pages x.image.length with
  | (s, bs) =>
    if bs = x.image then (s, x)
    else
      let y := (Config.openBlock bs).getD {}
      (s, { x with
        groups := x.groups.map fun (e : Nat × Group) => (e.1, openedGroup e.2 (y.groups.get {} e.1))
        scratch := y.scratch, act := y.act, bars := y.bars, msHeld := y.msHeld
        ms := { y.ms with halted := false, parked := none, waiting := false, commit := none } })

/-- The record of a grid, as a resume reads it: where software has changed it, the device makes of those bytes the spans still to be placed and the
signal (R12, R424; log 7). -/
def gridBack (s : State) (g d : Nat) : State :=
  let x := s.gridOf g
  match s.readPages d x.fn x.ctx (s.areaBase x.fn x.ctx) x.pages x.record.length with
  | (s, bs) =>
    if bs = x.record then s.modGrid g fun x => { x with pages := [], record := [] }
    else
      let y := (Config.openGrid bs).getD {}
      s.modGrid g fun x => { x with pages := [], record := [], signal := y.signal, signalValue := y.signalValue,
                                    extra := x.extra.set 4 (((x.extra.get [] 4).zip (y.extra.get [] 4)).map fun e => e.1) }

end State
end Sys2Proof.Machine
end

