-- ==== Sys2Proof/Machine/Launch.lean ====
section
/-! DEFINITION. Launching a grid and placing its blocks (spec/01_describing_work.md R13 to R28; spec/03_launching.md R83, R84, R88;
spec/04_placement.md R90 to R103): the checks of a DISPATCH, what a core can hold, choosing a core, carving and release. -/

namespace Sys2Proof.Machine

/-! ### Fit (R91, R92) -/

/-- The groups of a grid's blocks in block order (R17): slot, index in the role, entry, vregs and code. -/
def Grid.groupList (g : Grid) : List (Nat × Nat × Nat × Nat × Nat) :=
  ((List.range g.roles.length).zip g.roles).flatMap fun r =>
    (List.range r.2.2.1).map fun i => (r.1, i, r.2.1, r.2.2.2.1, r.2.2.2.2)

/-- What a core holds: blocks, blocks with a matrix stream, scratch, and per sub-partition groups and free bytes. -/
structure Occ where
  blocks : Nat := 0
  matrix : Nat := 0
  scratch : Nat := 0
  parts : List (Nat × Nat) := [(0, 393216), (0, 393216), (0, 393216), (0, 393216)]

/-- The sub-partition for a group of n bytes: most free bytes, lowest number among equals. -/
def Occ.pick (o : Occ) (n : Nat) : Option Nat :=
  let c := ((List.range 4).zip o.parts).filter fun p => decide (p.2.1 < 16 ∧ n ≤ p.2.2)
  match c with
  | [] => none
  | x :: t => some (t.foldl (fun (m : Nat × Nat × Nat) y => if y.2.2 > m.2.2 then y else m) x).1

/-- Put a group of n bytes into a sub-partition. -/
def Occ.add (o : Occ) (p n : Nat) : Occ :=
  { o with parts := ((List.range 4).zip o.parts).map fun e => if e.1 = p then (e.2.1 + 1, e.2.2 - n) else e.2 }

/-- Assign groups one by one. -/
def Occ.assign (o : Occ) : List Nat → Option (List Nat × Occ)
  | [] => some ([], o)
  | v :: t =>
    match o.pick (groupBytes v) with
    | none => none
    | some p => ((o.add p (groupBytes v)).assign t).map fun r => (p :: r.1, r.2)

/-- Fits (R92): the sub-partition of each group, and what the core holds then. -/
def Occ.fits (o : Occ) (g : Grid) : Option (List Nat × Occ) :=
  let ms := if g.matrix.isSome then 1 else 0
  if o.blocks + 1 > 8 ∨ o.matrix + ms > 1 ∨ o.scratch + g.scratchBytes > 3145728 then none
  else
    ({ o with blocks := o.blocks + 1, matrix := o.matrix + ms, scratch := o.scratch + g.scratchBytes }).assign
      (g.groupList.map fun (x : Nat × Nat × Nat × Nat × Nat) => x.2.2.2.1)

/-- The copies of a block that fit on a core, n at most (R92). -/
def Occ.copies (o : Occ) (g : Grid) : Nat → Nat
  | 0 => 0
  | n + 1 =>
    match o.fits g with
    | none => 0
    | some r => 1 + r.2.copies g n

/-- The physical lanes of a sub-partition of a core that pass the built-in test of the last reset, ascending, of its 34; column c is served by the
c-th of them, which no program sees (R14, R445). -/
def passing (reset d c p : Nat) : List Nat := (List.range 34).filter fun l => Config.lanePasses reset d c p l
def columnLane (reset d c p col : Nat) : Option Nat := (passing reset d c p)[col]?

/-- Has every sub-partition of a core the 32 lanes that it needs (R445)? The cores of a die that neither the fuses nor the test disable (R92). -/
def State.corePasses (s : State) (d c : Nat) : Bool :=
  (List.range 4).all fun p => decide ((passing s.boots d c p).length ≥ 32)
def State.coresOf (s : State) (d : Nat) : List Nat := (List.range 96).filter fun c => Config.fusedCore d c && s.corePasses d c

/-! ### Launch checks (R28, R84, R92) -/

/-- A role slot of a DISPATCH: entry, groups, vregs, code. -/
def roleOf (b : List Byte) (r : Nat) : Nat × Nat × Nat × Nat :=
  (pk b (0x30 + 8 * r) 4, pk b (0x34 + 8 * r) 1, pk b (0x35 + 8 * r) 1, pk b (0x36 + 8 * r) 1)

/-- Is a reserved field of a DISPATCH nonzero (R83)? -/
def dispatchReserved (b : List Byte) : Bool :=
  let p := pk b 4 1
  decide (pk b 1 1 ≥ 16) || bitOf p 7 || pk b 0x2C 4 != 0 || pk b 0x78 8 != 0 ||
    (List.range 4).any (fun r => pk b (0x37 + 8 * r) 1 != 0) || (!bitOf p 4 && bits p 6 5 != 0) ||
    (!pkFlag b 9 && pk b 0x64 4 != 0)

/-- The grid that a DISPATCH and an image header describe (R22, R23, R83). -/
def gridOfPacket (b h : List Byte) : Grid :=
  let p := pk b 4 1
  { prio := p % 16, pin := if bitOf p 4 then some (bits p 6 5) else none, phase := BitVec.ofNat 8 (pk b 5 1),
    spanSize := if pk b 6 2 = 0 then 1 else pk b 6 2, image := pk b 8 8, code := pk b 8 8 + pk h 8 4, codeBytes := pk h 0xC 4,
    scratchBytes := pk b 0x1C 4, dimX := pk b 0x20 4, dimY := pk b 0x24 4, dimZ := pk b 0x28 4,
    roles := (List.range 4).map (roleOf b),
    descs := (List.range 4).map fun r => (pk h (0x20 + 16 * r) 4, BitVec.ofNat 32 (pk h (0x24 + 16 * r) 4), pk h (0x28 + 16 * r) 1),
    matrix := if pk b 0x50 4 = 0xFFFFFFFF then none else some (pk b 0x50 4), msRestart := pk h 0x60 4,
    msMask := BitVec.ofNat 32 (pk h 0x64 4), restartable := pkFlag b 10, sigEn := pkFlag b 11, restartBytes := pk b 0x54 4,
    restartRec := pk b 0x58 8, trapEntry := if pk b 0x60 4 = 0xFFFFFFFF then none else some (pk b 0x60 4), signal := pk b 0x68 8,
    signalValue := BitVec.ofNat 64 (pk b 0x70 8) }

/-- Minimum vregs of a descriptor (R23). -/
def minVregs (h : List Byte) (r : Nat) : Nat := if bitOf (pk h (0x2A + 16 * r) 1) 7 then 256 else pk h (0x29 + 16 * r) 1

/-- The checks of R28 and R84 that the packet, the image header and the queue decide, in order of their numbers: the number of
the first that fails. -/
def launchCheck (b h : List Byte) (cls : Nat) (openGang : Option Gang) : Option Nat :=
  let used := (List.range 4).filter fun r => (roleOf b r).2.1 != 0
  let code := pk h 0xC 4
  let flags := pk h 6 2
  let vr := fun r => if (roleOf b r).2.2.1 = 0 then 256 else (roleOf b r).2.2.1
  let inCode := fun (x : Nat) => decide (x % 4 = 0 ∧ x < code)
  let args := pk b 0x18 4
  let roleBad := fun r =>
    let x := roleOf b r
    if x.2.1 = 0 then x != (0, 0, 0, 0)
    else !inCode x.1 || decide (x.2.1 > 16 ∨ x.2.2.1 % 8 ≠ 0 ∨ x.2.2.2 = 0 ∨ x.2.2.2 > 4 ∨ vr r < minVregs h r)
  let descBad := fun r =>
    let m := pk h (0x29 + 16 * r) 1
    let f := pk h (0x2A + 16 * r) 1
    decide (f % 128 ≠ 0 ∨ pk h (0x2B + 16 * r) 5 ≠ 0 ∨ pk h (0x28 + 16 * r) 1 > 96 ∨ m > 248 ∨ m % 8 ≠ 0 ∨ (f ≥ 128 ∧ m ≠ 0))
  let g := gridOfPacket b h
  let checks : List (Nat × Bool) := [
    (1, pk h 0 4 == 0x31345657 && pk h 4 2 == 1),
    (2, pk b 0x10 8 % 16 == 0 && args % 4 == 0 && decide (args ≤ 4096 ∧ pk h 0x1C 2 ≤ args)),
    (3, !(List.range 4).any roleBad),
    (4, let n := (used.map fun r => (roleOf b r).2.1).foldl (· + ·) 0; decide (1 ≤ n ∧ n ≤ 16)),
    (5, decide ((used.map fun r => (roleOf b r).2.1 * 384 * vr r).foldl (· + ·) 0 ≤ 1572864)),
    (6, pk b 0x50 4 == 0xFFFFFFFF || (inCode (pk b 0x50 4) && bitOf flags 1)),
    (7, decide (g.scratchBytes % 64 = 0 ∧ g.scratchBytes ≤ 3145728 ∧ pk h 0x18 4 ≤ g.scratchBytes)),
    (8, decide (pk b 6 2 ≤ 768)),
    (9, !pkFlag b 10 || (bitOf flags 0 && used.all (fun r => pk h (0x20 + 16 * r) 4 != 0xFFFFFFFF) &&
        (!bitOf flags 1 || pk h 0x60 4 != 0xFFFFFFFF) && pk b 0x58 8 % 64 == 0 && decide (2 * g.copyBytes ≤ pk b 0x54 4))),
    (10, decide (flags < 8) && pk h 0x1E 2 == 0 && pk h 0x67 1 == 0 && pk h 0x68 24 == 0 && !used.any descBad),
    (11, decide (pk b 4 1 % 16 ≤ cls / 16)),
    (12, pk b 0x60 4 == 0xFFFFFFFF || inCode (pk b 0x60 4)),
    (13, !pkFlag b 11 || bitOf flags 2),
    (14, pk b 0x68 8 % 8 == 0),
    (15, pkFlag b 10 || (pk b 0x58 8 == 0 && pk b 0x54 4 == 0)),
    (16, !pkFlag b 9 || (match openGang with | some k => k.id == pk b 0x64 4 | none => false))]
  (checks.find? fun c => !c.2).map (·.1)

/-- Checks 17 to 20 (R92), for a grid whose gang is the open one. -/
def placeCheck (s : State) (g : Grid) (openGang : Option Gang) (receives : Nat → Bool) : Option Nat :=
  let copies := ({} : Occ).copies g 8
  let dieExists := fun p => decide (p < if s.isExpander then 1 else 4)
  let pinOk := match g.pin with | some p => dieExists p | none => true
  let gangOk := match openGang with
    | some k => decide (g.spanSize ≤ k.cores * copies) && (match g.pin with | some p => k.mask.getLsbD p | none => true)
    | none => true
  if copies = 0 then some 17
  else if (List.range 4).any fun d => dieExists d && receives d && decide (g.spanSize > (s.coresOf d).length * copies) then some 18
  else if !(pinOk && gangOk) then some 19
  else if g.dimX * g.dimY * g.dimZ > 0xFFFFFFFF then some 20
  else none

/-- The error of a failed check: 0x10 for the priority, 0x0C for the gang, otherwise 0x04 with the check's number (R84). -/
def checkError (n : Nat) : Nat × Nat := if n = 11 then (0x10, 0) else if n = 16 then (0x0C, 0) else (0x04, n)

namespace State

/-- The grid that submitted the packet whose first slot is at the head of a device-side queue (R88). -/
def parentOf (s : State) (q : Nat) : Option Nat :=
  let x := s.queueOf q
  if bitOf x.cls 2 then ((x.submits.find? fun v => decide (v.1 > errorSlot x)).map (·.2)) else none

/-- Read the image and check a launch (R27, R28, R84, R92) for the function, context, die, queue, slot, gang and parent of a grid: the error,
or the grid with its arguments and constants. The arguments are copied once for all dies, at issue (DESIGN CHOICE, log 102); 0x0C for a child with
the gang flag comes before the checks of the image, and 0x0E after them and before the copy (DESIGN CHOICE, log 75). -/
def checkLaunchAs (s : State) (x : Grid) (cls : Nat) (gang : Option Gang) (b : List Byte) : State × Except (Nat × Nat) Grid :=
  let die := x.die
  if dispatchReserved b then (s, .error (0x03, 0))
  else if bitOf cls 2 ∧ pkFlag b 9 then (s, .error (0x0C, 0))
  else if pk b 8 8 % 128 ≠ 0 then (s, .error (0x04, 1))
  else
    match s.devRead die x.fn x.ctx (pk b 8 8) 128 with
    | (s, none) => (s, .error (0x09, 0))
    | (s, some h) =>
      match launchCheck b h cls gang with
      | some n => (s, .error (checkError n))
      | none =>
        let depth := match x.parent with | some p => (s.gridOf p).depth + 1 | none => 0
        let g := { gridOfPacket b h with fn := x.fn, ctx := x.ctx, die := die, queue := x.queue, slot := x.slot, codeCopy := x.codeCopy,
                                         expander := x.expander, gang := if pkFlag b 9 then x.gang else none, parent := x.parent,
                                         depth := depth }
        match placeCheck s g (if pkFlag b 9 then gang else none) (fun d => decide (0 < s.spansOn g d)) with
        | some n => (s, .error (checkError n))
        | none =>
          if depth > 8 then (s, .error (0x0E, 0))
          else
            match s.devRead die x.fn x.ctx (pk b 0x10 8) (pk b 0x18 4) with
            | (s, none) => (s, .error (0x09, 0))
            | (s, some a) =>
              match s.devRead die x.fn x.ctx (pk b 8 8 + pk h 0x10 4) (pk h 0x14 4) with
              | (s, none) => (s, .error (0x09, 0))
              | (s, some c) => (s, .ok { g with args := putBytes (putBytes [] 0 a) 0x1000 c, blocksLeft := gridSize g })

/-- The same for a DISPATCH of a queue. -/
def checkLaunch (s : State) (q : Nat) (b : List Byte) : State × Except (Nat × Nat) Grid :=
  let x := s.queueOf q
  s.checkLaunchAs { fn := x.fn, ctx := x.ctx, die := q / 1024, queue := q, slot := errorSlot x, gang := x.gang, parent := s.parentOf q } x.cls
    (x.gang.map s.gangOf) b

/-- Hand a grid to the distributors under a packet (R83, R90): its number and the state. -/
def handOver (s : State) (g : Grid) (kind : Nat) : State :=
  let (id, s) := s.newId
  let (p, s) := s.newId
  let s := { s with grids := s.grids.set id { g with packet := p, order := id },
                    pkts := s.pkts.set p { die := g.queue / 1024, queue := g.queue % 1024, slot := g.slot, kind := kind } }
  match g.parent with
  | some k => s.modGrid k fun y => { y with children := y.children + 1 }
  | none => s

end State

/-- DISPATCH (R83): a DISPATCH without the gang flag closes the queue's gang (R87). -/
def execDispatchPacket (d l : Nat) (s : State) : Host.Outcome State Fault Refusal :=
  .next (s.fwIssue d l 1 fun s q b =>
    match s.checkLaunch q b with
    | (s, .error e) => s.queueErr q e.1 e.2
    | (s, .ok g) =>
      let s := s.handOver g 1
      let s := if pkFlag b 9 then s else s.modQueue q fun x => { x with gang := none }
      s.passPacket d l q 2)

/-! ### Choosing a core and carving (R93 to R98, R102) -/

namespace State

/-- Is a block resident (R91)? -/
def resident (b : Block) : Bool := b.life == .carved || b.life == .running

/-- What a core holds. -/
def occOf (s : State) (d c : Nat) : Occ :=
  s.blocks.foldl (fun (o : Occ) (e : Nat × Block) =>
    let b := e.2
    if resident b && b.die == d && b.core == c then
      let gr := s.gridOf b.grid
      let o := { o with blocks := o.blocks + 1, matrix := o.matrix + (if b.hasMs then 1 else 0), scratch := o.scratch + gr.scratchBytes }
      b.groups.foldl (fun o g => o.add g.2.part (groupBytes g.2.vregs)) o
    else o) {}

/-- The groups that a core holds. -/
def groupsOn (s : State) (d c : Nat) : Nat := ((s.occOf d c).parts.map (·.1)).foldl (· + ·) 0

/-- Cores set aside for a reservation class: from the highest enabled core downwards, class by class (R97). -/
def setAside (s : State) (d cls : Nat) : List Nat :=
  let reg := fun k => ((s.dieOf d).gangres.get k).toNat
  let n := fun k => if bitOf (reg k) 0 then bits (reg k) 22 16 else 0
  let before := ((List.range 15).filter fun k => decide (k + 1 < cls)).map fun k => n (k + 1)
  ((s.coresOf d).reverse.drop (before.foldl (· + ·) 0)).take (n cls)
def anyAside (s : State) (d c : Nat) : Bool := (List.range 15).any fun k => (s.setAside d (k + 1)).contains c
/-- The function that owns a class. -/
def classFn (s : State) (d cls : Nat) : Nat := bits ((s.dieOf d).gangres.get cls).toNat 13 8

/-- Is a core chosen or held by a gang (R99)? -/
def gangCore (s : State) (d c : Nat) : Option Nat := s.gangs.find fun _ k => k.chosen.contains (d, c)

/-- The cores of a die that a block of a grid may take (R94, R97, R98, R101). -/
def coresFor (s : State) (d : Nat) (g : Grid) : List Nat :=
  match g.gang with
  | some k => (s.coresOf d).filter fun c => (s.gangOf k).held.contains (d, c)
  | none => (s.coresOf d).filter fun c => (s.gangCore d c).isNone

/-- The core with the fewest groups among those that a block fits, the lowest among equals, with its sub-partitions (R94). -/
def chooseCore (s : State) (d : Nat) (g : Grid) : Option (Nat × List Nat) :=
  let fit := (s.coresFor d g).filterMap fun c => ((s.occOf d c).fits g).map fun r => (c, r.1)
  match fit with
  | [] => none
  | x :: t => some (t.foldl (fun m y => if s.groupsOn d y.1 < s.groupsOn d m.1 then y else m) x)

/-- The groups of a fresh block (R17 to R21, R102). -/
def freshGroups (g : Grid) (parts : List Nat) : Tab Group :=
  let gs := g.groupList
  ((List.range gs.length).zip gs).map fun e =>
    let (slot, idx, entry, v, code) := e.2
    let role := (g.roles[slot]?).getD (0, 0, 0, 0)
    let n := ((g.descs[slot]?).getD (0, 0, 0)).2.2
    let lanes := if idx + 1 = role.2.1 ∧ n ≠ 0 then n else 96
    let m := lowLanes lanes
    let sp : Split := { status := .ready, pc := entry, live := m, exec := m, execCopy := m,
                        mode := if g.sigEn then 0x4004 else 0x4000, sig := 0xFFFFFFFF }
    let gr : Group := { gid := e.1, slot := slot, code := code, index := idx, vregs := v, lanes := lanes, splits := [(0, sp)],
                        part := (parts[e.1]?).getD 0 }
    (e.1, gr)

/-- A core of which nothing has been recorded comes into use: while its windows passed idle its budget fell to Floor and its credit was refilled to 8
times that (R109). -/
def wakeCore (s : State) (d c : Nat) : State :=
  if s.cores.has (coreKey d c) || s.window == 0 then s
  else s.modCore d c fun x => { x with b := (s.dieOf d).govFloor, credit := 8 * (s.dieOf d).govFloor }

/-- Carve a core for a block (R102, steps 1 to 5). -/
def carve (s : State) (d c gid lin span : Nat) (parts : List Nat) : State :=
  let (id, s) := s.newId
  let g := s.gridOf gid
  let aside := (List.range 15).any fun k => (s.setAside d (k + 1)).contains c &&
    !(match g.gang with | some x => (s.queueOf (s.gangOf x).queue).gangClass == k + 1 | none => false)
  let b : Block := { life := .carved, die := d, core := c, grid := gid, lin := lin, span := span, groups := freshGroups g parts,
                     hasMs := g.matrix.isSome, ms := { pc := g.matrix.getD 0 }, opportunistic := aside }
  (s.wakeCore d c).setBlk id b

/-- Place the blocks of a span in ascending order: none where some block finds no core (R94). -/
def placeBlocks (s : State) (d gid span : Nat) : Nat → Nat → Option State
  | 0, _ => some s
  | n + 1, lin =>
    match s.chooseCore d (s.gridOf gid) with
    | none => none
    | some (c, parts) => (s.carve d c gid lin span parts).placeBlocks d gid span n (lin + 1)

/-- The number of a die's k-th span (R90). -/
def spanNumber (s : State) (g : Grid) (d k : Nat) : Nat :=
  if g.pin.isSome ∨ s.isExpander then k
  else
    let dies := match g.gang with
      | some x => (List.range 4).filter fun i => (s.gangOf x).mask.getLsbD i
      | none => [0, 1, 2, 3]
    (dies.findIdx? (· == d)).getD 0 + dies.length * k

/-- Place a grid's lowest-numbered span of those that a die has still to place: its own next one, or one that an evacuation
handed to it (R93, R435). -/
def placeSpan (s : State) (d gid : Nat) : Option State :=
  let g := s.gridOf gid
  let k := g.next.get 0 d
  let own := if k < s.spansOn g d then some (s.spanNumber g d k) else none
  let moved := (g.extra.get [] d).head?
  let pick := ((moved.filter fun b => !own.any fun a => decide (a ≤ b)).map fun b => (b, false)).orElse fun _ =>
    own.map fun a => (a, true)
  match pick with
  | none => none
  | some (n, mine) =>
    let size := min g.spanSize (gridSize g - n * g.spanSize)
    (s.placeBlocks d gid n size (n * g.spanSize)).map fun t => t.modGrid gid fun g =>
      { g with next := if mine then g.next.set d (k + 1) else g.next,
               extra := if mine then g.extra else g.extra.set d ((g.extra.get [] d).drop 1),
               placed := g.placed + size, passedAt := g.passedAt.del d, starving := g.starving.filter (· != d) }

/-- The grids that a distributor holds, in the order of R93. -/
def gridOrder (s : State) (d : Nat) : List Nat :=
  (s.unplacedOn d).mergeSort fun a b =>
    let x := s.gridOf a
    let y := s.gridOf b
    decide (x.prio > y.prio ∨ (x.prio = y.prio ∧ x.order ≤ y.order))

/-- Try the grids in order: the first span that fits ends the step, and those before it are passed over (R93, R95). -/
def tryGrids (s : State) (d : Nat) : List Nat → State
  | [] => s
  | g :: t =>
    match s.placeSpan d g with
    | some u => u
    | none =>
      (s.modGrid g fun x => if x.passedAt.has d then x else { x with passedAt := x.passedAt.set d s.clock }).tryGrids d t

/-- The placement of new spans: while a span is starving, only it (R95). -/
def placeNew (s : State) (d : Nat) : State :=
  let l := s.gridOrder d
  let hungry := l.filter fun g => (s.gridOf g).starving.contains d
  s.tryGrids d (if hungry.isEmpty then l else hungry)

end State

/-- SPAN_STARVING (R95). -/
def execSpanStarving (d gid : Nat) (s : State) : Host.Outcome State Fault Refusal :=
  .next (
    let g := s.gridOf gid
    if g.passedAt.has d && decide (s.clock ≥ g.passedAt.get 0 d + 65536) && (s.unplacedOn d).contains gid && !g.starving.contains d then
      s.modGrid gid fun x => { x with starving := x.starving ++ [d] }
    else s)

/-- GANGRES_WRITE (R97): takes effect at the next placement step. -/
def execGangresWrite (d cls v : Nat) (s : State) : Host.Outcome State Fault Refusal :=
  .next (if 1 ≤ cls ∧ cls ≤ 15 then
    s.modDie d fun x => { x with gangres := x.gangres.set cls (BitVec.ofNat 32 v &&& 0x7F3F01) }
  else s)

/-! ### Gangs (R87, R97 to R101) -/

namespace State

/-- The cores of a die that a gang may take, in order, whoever holds them (R99). -/
def gangEligible (s : State) (k : Gang) (d : Nat) : List Nat :=
  let cls := (s.queueOf k.queue).gangClass
  let own := if cls ≠ 0 ∧ bitOf ((s.dieOf d).gangres.get cls).toNat 0 ∧ s.classFn d cls = k.fn then (s.setAside d cls).reverse else []
  let rest := ((s.coresOf d).filter fun c => !s.anyAside d c).mergeSort fun a b =>
    decide (s.groupsOn d a < s.groupsOn d b ∨ (s.groupsOn d a = s.groupsOn d b ∧ a ≤ b))
  own ++ rest

/-- Candidates on a die for a gang, in order (R99). -/
def gangCandidates (s : State) (k : Gang) (d : Nat) : List Nat := (s.gangEligible k d).filter fun c => (s.gangCore d c).isNone

/-- The key of a gang (R100). -/
def gangKey (k : Gang) : Nat := k.fn * 2 ^ 32 + k.id

/-- A message of a gang's member or coordinator, in its function's fabric partition: 0 HELD, 1 UNHELD, 2 COMMIT, 3 ABORT with the error of
the member from which it comes (R101, R372). -/
def gangSay (s : State) (k : Gang) (kind err : Nat) : State :=
  s.emit (.gang (k.queue / 1024) kind k.fn k.id k.index err (s.partition k.fn))

/-- A gang gives up its holds on a die to the gang with a lower key; a member that had reported tells the coordinator (R100, R101). -/
def dropHolds (s : State) (id d key : Nat) : State :=
  let k := s.gangOf id
  let s := { s with gangs := s.gangs.set id { k with
    chosen := k.chosen.filter fun c => c.1 != d, held := k.held.filter fun c => c.1 != d, reported := false, yielded := k.yielded.set d key } }
  if k.reported then s.gangSay k 1 0 else s

/-- Is a span asked to halt (R422, R425)? One that is not restartable, by a gang hold or a save, only where its save fits. -/
def asks (s : State) (k : PreemptCause) (sp : Nat × Nat) : Bool :=
  let g := s.gridOf sp.1
  let new := s.blocks.filter fun e => resident e.2 && (e.2.grid, e.2.span) == sp && e.2.preempt.isNone
  k == .evacuation || g.restartable || decide ((new.map fun e => s.saveBytes e.1 / 4096).sum ≤ s.roomPages g.fn g.ctx)

/-- Of two requests the one that counts: an evacuation before a save, a save before a gang hold (DESIGN CHOICE, log 97). -/
def stronger : PreemptCause → PreemptCause → PreemptCause
  | .evacuation, _ | _, .evacuation => .evacuation
  | .contextSave, _ | _, .contextSave => .contextSave
  | .gangHold, .gangHold => .gangHold

/-- Ask the cores to pre-empt a span. -/
def askSpan (s : State) (k : PreemptCause) (sp : Nat × Nat) : State :=
  if s.asks k sp then
    { s with blocks := s.blocks.map fun (e : Nat × Block) =>
        (e.1, if resident e.2 && (e.2.grid, e.2.span) == sp then
          { e.2 with preempt := some (match e.2.preempt with | some x => stronger x k | none => k) } else e.2) }
  else s

/-- Ask the cores to pre-empt the resident blocks that satisfy p, and the rest of their spans with them (R96, R422): of a span of which a gang hold
needs some blocks that are opportunistic the others go with those, opportunistic or not (DESIGN CHOICE, log 96). -/
def askPreempt (s : State) (k : PreemptCause) (p : Block → Bool) : State :=
  (dedup ((s.blocks.filter fun e => resident e.2 && p e.2).map fun e => (e.2.grid, e.2.span))).foldl (fun s sp => s.askSpan k sp) s

/-- A block takes ViralContainment: in its first group that has not ended. -/
def viralBlock (s : State) (b : Nat) : State :=
  match (s.blkOf b).groups.find? fun g => !g.2.ended with
  | some g => s.addFail b g.1 { code := 0x15, info := 0, stream := false }
  | none => s.failBlock b 0x15 0 0

/-- A gang chooses cores on a die until it has as many as its packet asks for; the opportunistic blocks on them are
pre-empted, each with the rest of its span (R96, R98, R99). -/
def topUp (s : State) (id d : Nat) : State :=
  let k := s.gangOf id
  let need := k.cores - (k.chosen.filter fun c => c.1 == d).length
  let new := (s.gangCandidates k d).take need
  { s with gangs := s.gangs.set id { k with chosen := k.chosen ++ new.map fun c => (d, c) } }.askPreempt .gangHold fun b =>
    b.opportunistic && b.die == d && new.contains b.core

/-- Does a gang still leave a die to the gang to which it gave its holds up: one that has neither committed nor aborted (R100)? -/
def yields (s : State) (k : Gang) (d : Nat) : Bool :=
  k.yielded.has d && s.gangs.any fun e => !e.2.committed && gangKey e.2 == k.yielded.get 0 d

/-- Hold cores on a die; where there are too few because other uncommitted gangs hold cores that it could take, the lower key keeps its holds
(R100). A gang that has a lower one beside it gives its own up and leaves those of the higher ones where they are (DESIGN CHOICE, log 94). -/
def holdOn (s : State) (id d : Nat) : State :=
  if s.yields (s.gangOf id) d then s
  else
    let s := s.topUp id d
    let k := s.gangOf id
    if (k.chosen.filter fun c => c.1 == d).length ≥ k.cores then s
    else
      let could := s.gangEligible k d
      let taken := fun (e : Nat × Gang) => (e.2.chosen.filter fun c => c.1 == d && could.contains c.2).length
      let others := s.gangs.filter fun e => gangKey e.2 != gangKey k && !e.2.committed && decide (taken e ≠ 0)
      let lower := others.filter fun e => decide (gangKey e.2 < gangKey k)
      if (k.chosen.filter fun c => c.1 == d).length + (others.map taken).sum < k.cores then s
      else
      match lower with
      | l :: t => s.dropHolds id d (t.foldl (fun m e => min m (gangKey e.2)) (gangKey l.2))
      | [] => (others.foldl (fun s e => s.dropHolds e.1 d (gangKey k)) s).topUp id d

/-- Once a gang has committed or aborted, those that gave their holds up to it begin them again (R100). -/
def rehold (s : State) (key : Nat) : State :=
  s.gangs.foldl (fun s e => (e.2.yielded.filter fun y => y.2 == key).foldl (fun s y =>
    { s with gangs := s.gangs.set e.1 { s.gangOf e.1 with yielded := (s.gangOf e.1).yielded.del y.1 } }.holdOn e.1 y.1) s) s

/-- Is a gang of this module one of the members that an identity names: its GANG has not issued, or it is the gang that its queue has open
(R87, R99)? A GANG at the head replaces the gang that its own queue has open. -/
def isMember (s : State) (fn id : Nat) (e : Nat × Gang) : Bool :=
  e.2.fn == fn && e.2.id == id && (!s.pkts.has e.1 || ((s.queueOf e.2.queue).gang == some e.1 && (s.queueOf e.2.queue).pendGang.isNone))

/-- The members of a gang on this module with, where given, an index; the one with index 0 coordinates (R101). -/
def gangsOf (s : State) (fn id : Nat) (index : Option Nat) : List (Nat × Gang) :=
  s.gangs.filter fun e => s.isMember fn id e && (match index with | some i => e.2.index == i | none => true)

/-- Every member of a gang on this module releases its holds and stops its queue with the error of the member from which it comes (R101). One
whose GANG has issued holds nothing any more; it keeps its place until its grids have retired. -/
def abortGang (s : State) (fn id err : Nat) : State :=
  let s := (s.gangsOf fn id none).foldl (fun s e =>
    let s := { s with gangs := if s.pkts.has e.1 then s.gangs.set e.1 { e.2 with chosen := [], held := [], members := [] } else s.gangs.del e.1 }
    let s := s.modQueue e.2.queue fun x => { x with pendGang := if x.pendGang = some e.1 then none else x.pendGang,
                                                    gang := if x.gang = some e.1 then none else x.gang }
    s.queueErr e.2.queue err 0) s
  s.rehold (fn * 2 ^ 32 + id)

/-- A member ends its gang with an error: the coordinator is told, and tells the others (R101). -/
def endGang (s : State) (k : Gang) (err : Nat) : State :=
  let c := (s.gangsOf k.fn k.id (some 0)).head?
  let s := (s.abortGang k.fn k.id err).gangSay k 3 err
  match c with
  | some e => if k.index = 0 then s else s.gangSay e.2 3 err
  | none => s

end State

/-- GANG_HOLD_START (R99): the GANG at the head of a lane's issue stage opens its reservation, or goes on with it. -/
def execGangHoldStart (d l : Nat) (s : State) : Host.Outcome State Fault Refusal :=
  .next (match s.laneHead d l, (s.laneOf d l).queue with
    | .pkt b, some i =>
      let q := 1024 * d + i
      if pkType b ≠ 2 ∨ (s.packetError q b).isSome then s
      else
        let x := s.queueOf q
        match x.pendGang with
        | some id => ((List.range 4).filter fun e => (s.gangOf id).mask.getLsbD e).foldl (fun s e => s.holdOn id e) s
        | none =>
          let (id, s) := s.newId
          let k : Gang := { queue := q, fn := x.fn, id := pk b 4 4, count := pk b 8 2, index := pk b 10 2, cores := pk b 12 2,
                            mask := BitVec.ofNat 4 (pk b 14 1), since := s.clock, timeout := pk b 16 4 }
          let s := s.modQueue q fun x => { x with pendGang := some id }
          let clash := (s.gangsOf k.fn k.id none).any fun e => e.2.index == k.index || e.2.count != k.count
          let s := { s with gangs := s.gangs.set id k }
          if clash then s.endGang k 0x0C
          else ((List.range 4).filter fun e => k.mask.getLsbD e).foldl (fun s e => s.holdOn id e) s
    | _, _ => s)

/-- CORE_HELD (R99): a chosen core is held once no block is resident on it; when all are, the member sends HELD (R101). -/
def execCoreHeld (d c : Nat) (s : State) : Host.Outcome State Fault Refusal :=
  .next (match s.gangCore d c with
    | none => s
    | some id =>
      let k := s.gangOf id
      if (s.occOf d c).blocks ≠ 0 ∨ k.held.contains (d, c) then s
      else
        let held := k.held ++ [(d, c)]
        let full := (List.range 4).all fun e => !k.mask.getLsbD e || decide ((held.filter fun x => x.1 == e).length ≥ k.cores)
        let s := { s with gangs := s.gangs.set id { k with held := held, reported := k.reported || full } }
        if full && !k.reported then s.gangSay k 0 0 else s)

/-- Is a gang message delivered: it comes from this module, or from a function of another one with the partition of its own (R372)? -/
def State.gangHears (s : State) (f : GangFn) : Bool := match f.partition with | none => true | some p => p == s.partition f.vf

/-- HELD at the coordinator, the member with index 0 (R101): a member of this module must have reported. Two members with one index, members whose
counts differ, and an index that the count does not admit are error 0x0C (R99). -/
def execGangHeld (f : GangFn) (gang : Nat) (m : GangMember) (s : State) : Host.Outcome State Fault Refusal :=
  .next (if !s.gangHears f then s else
    match s.gangsOf f.vf gang (some 0) with
    | (id, k) :: _ =>
      let here := s.gangsOf f.vf gang (some m.index)
      let bad := decide (m.index ≥ k.count ∨ m.count ≠ k.count) ||
        (if f.partition.isSome then !here.isEmpty || k.members.contains m.index else here.isEmpty)
      if bad then s.endGang k 0x0C
      else if here.all (fun x => x.2.reported) && !k.members.contains m.index then
        let s := { s with gangs := s.gangs.set id { k with members := k.members ++ [m.index] } }
        if (List.range k.count).all fun i => i == m.index || k.members.contains i then s.gangSay k 2 0 else s
      else s
    | [] => s)

/-- UNHELD at the coordinator (R101). -/
def execGangUnheld (f : GangFn) (gang : Nat) (m : GangMember) (s : State) : Host.Outcome State Fault Refusal :=
  .next (if !s.gangHears f then s else
    match s.gangsOf f.vf gang (some 0) with
    | (id, k) :: _ =>
      if (s.gangsOf f.vf gang (some m.index)).any fun x => x.2.reported then s
      else { s with gangs := s.gangs.set id { k with members := k.members.filter (· != m.index) } }
    | [] => s)

/-- COMMIT (R101): of the coordinator on this module, once it has counted every member, or, over a link, of one on another module. -/
def execGangCommit (f : GangFn) (gang : Nat) (s : State) : Host.Outcome State Fault Refusal :=
  .next (
    let mine := s.gangsOf f.vf gang (some 0)
    let ok := if f.partition.isSome then mine.isEmpty && s.gangHears f
      else !mine.isEmpty && mine.all fun e => (List.range e.2.count).all fun i => e.2.members.contains i
    if ok then
      { s with gangs := s.gangs.map fun (e : Nat × Gang) =>
          (e.1, if e.2.fn = f.vf ∧ e.2.id = gang ∧ e.2.reported then { e.2 with committed := true } else e.2) }.rehold
        (f.vf * 2 ^ 32 + gang)
    else s)

/-- ABORT (R101): where the coordinator is on this module, it forwards it to every member. -/
def execGangAbort (f : GangFn) (gang err : Nat) (s : State) : Host.Outcome State Fault Refusal :=
  .next (if !s.gangHears f then s else
    match (s.gangsOf f.vf gang (some 0)).head? with
    | some e => (s.abortGang f.vf gang err).gangSay e.2 3 err
    | none => s.abortGang f.vf gang err)

/-- GANG_TIMEOUT (R87): error 0x0D, and ABORT to the other members. -/
def execGangTimeout (d l : Nat) (s : State) : Host.Outcome State Fault Refusal :=
  .next (match (s.laneOf d l).queue with
    | some i =>
      match (s.queueOf (1024 * d + i)).pendGang with
      | some id =>
        let k := s.gangOf id
        if k.timeout ≠ 0 ∧ !k.committed ∧ s.clock ≥ k.since + 1024 * k.timeout then s.endGang k 0x0D else s
      | none => s
    | none => s)

/-- GANG (R87): issues once its reservation is committed; it replaces the gang that the queue had open. -/
def execGangPacket (d l : Nat) (s : State) : Host.Outcome State Fault Refusal :=
  .next (s.fwIssue d l 2 fun s q _ =>
    match (s.queueOf q).pendGang with
    | none => s
    | some id =>
      let slot := State.errorSlot (s.queueOf q)
      let s := { s with pkts := s.pkts.set id { die := d, queue := q % 1024, slot := slot, kind := 2 } }
      let s := s.modQueue q fun x => { x with gang := some id, pendGang := none }
      s.passPacket d l q 1)

end Sys2Proof.Machine
end

