-- ==== Sys2Proof/Machine/Fabric.lean ====
section
/-! DEFINITION. Messages between modules (spec/14_links.md R370 to R377, R385, R437, R438): the home that admits and performs
them, held requests (R344), and the source that takes their answers. -/

namespace Sys2Proof.Machine
namespace State

/-! ### At the home -/

/-- What a request needs of an import entry's flags (R372). -/
def reqFlag : RemoteOp → Nat
  | .read _ => 0
  | .write _ | .runs _ => 1
  | _ => 2
def reqReads : RemoteOp → Bool
  | .write _ | .runs _ => false
  | _ => true
def reqWrites : RemoteOp → Bool
  | .read _ => false
  | _ => true

/-- The import entry that admits a message: the lowest-numbered (R372). -/
def admits (s : State) (m : RemoteMsg) : Option Nat :=
  (List.range 256).find? fun i =>
    let a := s.fab 8 8 + 32 * i
    let fl := s.rdNum (a + 0x14) 1
    let b := s.rdNum a 8
    bitOf fl 0 && s.rdNum (a + 0x10) 2 == m.srcModule && s.rdNum (a + 0x12) 1 == m.partition && bitOf fl (reqFlag m.op) &&
      decide (b ≤ m.offset ∧ m.offset + reqBytes m.op ≤ b + s.rdNum (a + 8) 8)

/-- Count a message that waits at its home for its function, or count it down (R437). -/
def countMsg (s : State) (pa fn : Nat) (up : Bool) : State :=
  s.modDie (pa / 2 ^ 37) fun d =>
    let v := d.migctl.get fn
    { d with migctl := d.migctl.set fn (if up then v + 0x10000 else v - 0x10000) }

/-- The atomics in the hold buffer of the unit whose channel holds a page (R344). -/
def holdCount (s : State) (pa : Nat) : Nat :=
  (s.cells.flatMap fun e => e.2.held.filter fun r =>
    reqFlag r.op == 2 && (match r.who with | .msg _ _ => true | _ => false) && s.unitOf r.pa == s.unitOf pa && s.homeDie r.pa == s.homeDie pa).length

/-- An answer to a message goes back to its source module, in a flit (R365, R371). -/
def answerTo (s : State) (pa src : Nat) (o : Out) : State := (s.emit o).flitsTo (0x4000000000000 + src * 2 ^ 40 + pa) (answerBytes o)

/-- A lane of an atomic, or of a load, has its answer: it becomes results of the operation (R240, R246). -/
def laneDone (s : State) (op lane : Nat) (regs : List Nat) (bs : List Byte) : State :=
  if s.ops.has op then { s with ops := s.ops.set op ({ s.opOf op with remote := (s.opOf op).remote - 1 }.result lane regs bs) } else s

/-- A write of a COPY that waited has been performed; with the last one its packet completes, or its queue stops on the fault that ended
it (R79, R87, R344). -/
def copyDone (s : State) (pkt : Nat) : State :=
  let waits := fun (r : HeldReq) => match r.who with | .copy p => p == pkt | _ => false
  match s.dies.findSome? fun d => (d.2.copies.find? fun e => e.1 == pkt).map fun e => (d.1, e.2) with
  | some (d, j) =>
    if s.snoopHeld.any waits || s.cells.any fun e => e.2.held.any waits then s
    else
      match j.ended with
      | none => s
      | some ok =>
        let s := { s with pkts := s.pkts.del pkt }.modDie d fun y => { y with copies := y.copies.del pkt }
        if ok then s
        else s.stopCopy { j with ended := none }
  | none => s

/-- Tell who asked that a request has been performed at its home, with the bytes that it answers. -/
def tell (s : State) (r : HeldReq) (bs : List Byte) : State :=
  match r.who with
  | .nobody | .inbound => s
  | .msg id src => (s.countMsg r.pa r.fn false).answerTo r.pa src (.answer id (.done bs))
  | .store b g tok => s.endWrite b g tok none
  | .lane op lane regs => s.laneDone op lane regs bs
  | .engine b g q => s.modCmd b g q fun c => if c.asked.contains 3 then { c with got := c.got.set 3 [] } else c
  | .record fn die idx => s.recordDone fn die idx
  | .signal pkt fn vec =>
    let s := { s with pkts := s.pkts.del pkt }
    match vec with
    | some v => s.raise fn v
    | none => s
  | .copy pkt => s.copyDone pkt

/-- May a request be performed at its home: the channel serves it (R340), and the host holds no copy of a line that it writes (R379)? -/
def homeReady (s : State) (r : HeldReq) : Bool :=
  !s.chanBusy r.pa && !(reqWrites r.op && s.hostShared.contains (r.pa / 128) && !(r.who == .inbound && r.fn == 64))

/-- Must a request keep behind one that waits: both are messages of a module to one line (R373), or inbound writes (R380)? The model keeps the
inbound writes of all requesters in order (DESIGN CHOICE, log 88). -/
def sameStream (r x : HeldReq) : Bool :=
  match r.who, x.who with
  | .msg _ a, .msg _ b => a == b && r.pa / 128 == x.pa / 128
  | .inbound, .inbound => true
  | _, _ => false

/-- Does such an earlier request wait at its home? -/
def hasAhead (s : State) (r : HeldReq) : Bool := s.snoopHeld.any (sameStream r) || s.cells.any fun e => e.2.held.any (sameStream r)

/-- A request waits where the earlier one waits. -/
def waitBehind (s : State) (r : HeldReq) : State :=
  match s.cells.find? fun e => e.2.held.any (sameStream r) with
  | some e => { s with cells := s.cells.set e.1 { e.2 with held := e.2.held ++ [r] } }
  | none => { s with snoopHeld := s.snoopHeld ++ [r] }

/-- The host has written bytes of memory: a context that has been disabled is enabled again where its entry, now with Valid set, lies there
(log 84). -/
def reEnable (s : State) (pa n : Nat) : State :=
  { s with fns := s.fns.map fun (f : Nat × Fn) =>
      (f.1, { f.2 with ctxs := f.2.ctxs.map fun (c : Nat × Context) =>
        let hit := f.2.cfg.any fun d =>
          let a := d.2.ctxTable + 16 * c.1
          decide (a < pa + n ∧ pa < a + 16) && bitOf (s.rdNum a 8) 7
        (c.1, if c.2.torn && hit then { c.2 with torn := false } else c.2) }) }

/-- The bytes with which a request is answered; none for a message that reads a poisoned sector (R385). -/
def serveHeld (s : State) (r : HeldReq) : State :=
  match r.who with
  | .msg id src =>
    if reqReads r.op && s.poisoned r.pa (reqBytes r.op) then (s.countMsg r.pa r.fn false).answerTo r.pa src (.answer id .poisoned)
    else
      match s.serve r.fn r.pa r.op with
      | (s, bs) => s.tell r bs
  | .inbound => (s.serve r.fn r.pa r.op).1.reEnable r.pa (reqBytes r.op)
  | _ =>
    match s.serve r.fn r.pa r.op with
    | (s, bs) => s.tell r bs

/-- Perform a request at its home, or leave it there: behind an earlier one with which it keeps its order (R373, R380), on a held page (R344), on
a busy channel (R340), behind a line of the host's (R379). -/
def runHeld (s : State) (r : HeldReq) : State :=
  if s.hasAhead r then s.waitBehind r
  else if reqWrites r.op && s.heldPage r.pa then s.holdReq r
  else if s.homeReady r then s.serveHeld r
  else
    let s := { s with snoopHeld := s.snoopHeld ++ [r] }
    if reqWrites r.op then s.snoop r.pa else s

/-- Take up again, in their order of arrival, the requests that waited for a channel or for a line; one that has to wait for more stays. -/
def settleHeld (s : State) : State :=
  s.snoopHeld.foldl (fun s r =>
    match s.farTry .home (s.homeDie r.pa) fun t => t.runHeld r with
    | (t, true) => t
    | (t, false) => { t with snoopHeld := t.snoopHeld ++ [r] }) { s with snoopHeld := [] }

/-- A message that is admitted for a function (R344, R372, R373, R379, R437). -/
def takeMsg (s : State) (m : RemoteMsg) (fn : Nat) : State :=
  let pa := m.offset
  let r : HeldReq := { pa := pa, op := m.op, who := .msg m.id m.srcModule, fn := fn }
  if ((s.dieOf (pa / 2 ^ 37)).migctl.get fn).getLsbD 0 then s.answerTo pa m.srcModule (.retry m.id)
  else if reqFlag m.op = 2 ∧ s.heldPage pa ∧ s.holdCount pa ≥ 64 then s.answerTo pa m.srcModule (.retry m.id)
  else (s.countMsg pa fn true).runHeld r

/-! ### At the source -/

def remoteOf (s : State) (id : Nat) : Remote :=
  s.remotes.get { op := none, blk := 0, grp := 0, lane := 0, va := 0, ctx := 0, fn := 0, pa := 0, req := .read 0, regs := [],
                  sb := none, retried := false, engine := none, die := 0, far := false, behind := false } id

/-- A message has had its final answer: the next ones of the die to the line go out (R373). -/
def closeRemote (s : State) (id : Nat) : State :=
  let r := s.remoteOf id
  { s with remotes := s.remotes.del id }.sendNext r

/-- Is a message parked on a poisoned answer (R385)? -/
def accessParked (s : State) (id : Nat) : Bool := (s.remoteOf id).poisoned || s.parks.any fun e => e.2.who == .access id

/-- A parking. -/
def parkOf (s : State) (id : Nat) : Park := s.parks.get { fn := 0, die := 0, who := .stream 0, poison := false, va := 0, lanes := 0 } id

/-- The split that a parking holds, where it holds one: the one that parked, or the one whose message met poison (R385). -/
def parkedSplit (s : State) (id : Nat) : Option (Nat × Nat × Nat) :=
  match (s.parkOf id).who with
  | .split b g e => if (s.splOf b g e).status = .parked id then some (b, g, e) else none
  | .access m =>
    let r := s.remoteOf m
    ((s.grpOf r.blk r.grp).splits.find? fun e => e.2.status == .parked id).map fun e => (r.blk, r.grp, e.1)
  | _ => none

/-- Does the group that sent a message still exist? -/
def hasGroup (s : State) (b g : Nat) : Bool := (s.blkOf b).groups.has g

/-- Keep the failure of the lowest lane (R377). -/
def lowerFail (o : Op) (lane code : Nat) (info : DWord) : Op :=
  match o.fail with
  | some f => if lane < bits f.2.toNat 62 56 then { o with fail := some (code, info) } else o
  | none => { o with fail := some (code, info) }

/-- The write of an event record to another module has been performed, or has failed: the event is then discarded (R65). -/
def recordWritten (s : State) : Asker → State
  | .record fn die idx => s.recordDone fn die idx
  | _ => s
def recordFails (s : State) : Asker → State
  | .record fn die idx => (s.modEvq fn die fun q => { q with unwritten := q.unwritten.filter (· != idx) }).dropEvent fn die
  | _ => s

/-- A message fails (R376): its lane's destinations keep their values, its store buffer entry is freed with its last write, an engine command
fails, an agent of a die learns the code. -/
def failAccess (s : State) (id code : Nat) (info : DWord) : State :=
  let r := s.remoteOf id
  let s := s.closeRemote id
  if r.far then (s.farEnd id code []).recordFails r.who
  else if !s.hasGroup r.blk r.grp then s
  else
    match r.op, r.sb, r.engine with
    | some o, _, _ => if s.ops.has o then { s with ops := s.ops.set o (lowerFail { s.opOf o with remote := (s.opOf o).remote - 1 } r.lane code info) } else s
    | none, some _, _ => s.endWrite r.blk r.grp id (some (r.lane, code, info))
    | none, none, some q => s.engFail r.blk r.grp q code (engRemoteInfo q r.va)
    | none, none, none => s

/-- A message is answered: the data of a load or an atomic become results, a store is acknowledged, the engine or an agent of a die has
its bytes. -/
def endAccess (s : State) (id : Nat) (bs : List Byte) : State :=
  let r := s.remoteOf id
  let s := s.closeRemote id
  if r.far then (s.farEnd id 0 bs).recordWritten r.who
  else if !s.hasGroup r.blk r.grp then s
  else
    match r.op, r.sb, r.engine with
    | some o, _, _ => s.laneDone o r.lane r.regs bs
    | none, some _, _ => s.endWrite r.blk r.grp id none
    | none, none, some q =>
      let k := r.regs.headD 0
      s.modCmd r.blk r.grp q fun c => if c.asked.contains k then { c with got := c.got.set k bs } else c
    | none, none, none => s

/-- The access type of a request. -/
def reqAcc (r : Remote) : AccType :=
  match r.req with
  | .read _ => if r.engine.isSome then .engRead else .read
  | .write _ => if r.engine.isSome then .engWrite else .write
  | _ => .atomic

/-- The engine asks again for what a message was to bring. -/
def askAgain (s : State) (id : Nat) : State :=
  let r := s.remoteOf id
  let s := s.closeRemote id
  match r.engine with
  | some q =>
    if s.hasGroup r.blk r.grp then s.modCmd r.blk r.grp q fun c => { c with asked := c.asked.filter (· != r.regs.headD 0) } else s
  | none => s

/-- The entry of the split that a message belongs to: one that holds its operation, or the one that issued it. -/
def splitOf (s : State) (r : Remote) : Nat :=
  match r.op with
  | some o => (((s.grpOf r.blk r.grp).splits.find? fun e => e.2.holdsOp o).map (·.1)).getD r.ent
  | none => r.ent

/-- A message that met poison is given up: its lane's destinations keep their values, its write is done with (R376, R385). -/
def giveUp (s : State) (id : Nat) : State :=
  let r := s.remoteOf id
  let s := s.closeRemote id
  match r.op, r.sb with
  | some o, _ => if s.ops.has o then { s with ops := s.ops.set o { s.opOf o with remote := (s.opOf o).remote - 1 } } else s
  | none, some _ => s.endWrite r.blk r.grp id none
  | none, none => s

/-- A poisoned answer (R230, R385): an engine command parks its queue; the split of a lane's access parks with kind 0x06, where it is parked already
as soon as that is resolved (DEDUCED, log 82); an agent of a die has no bytes, and nobody parks for a block that has been torn down. -/
def poisonAccess (s : State) (id : Nat) : State :=
  let r := s.remoteOf id
  if r.far then ((s.closeRemote id).farEnd id 7 []).recordFails r.who
  else
    match r.engine, r.op, r.sb with
    | some q, _, _ => (s.askAgain id).engStop r.blk r.grp q (.fault r.va 0 (reqAcc r).code true)
    | none, none, none => s.closeRemote id
    | none, _, _ =>
      let e := s.splitOf r
      match (s.splOf r.blk r.grp e).status with
      | .parked _ => { s with remotes := s.remotes.set id { r with poisoned := true } }
      | st =>
        match s.parkIn (.access id) r.blk r.ctx (fun _ => (reqAcc r).code) [(r.va, 0, true)] 0 with
        | (p, s) => if st == .empty then s else s.modSplOf r.blk r.grp e fun x => { x with status := .parked p }

/-- The messages that met poison while their splits were parked: those of splits that are parked no more park them. -/
def poisonTurn (s : State) : State :=
  (s.remotes.filter fun e => e.2.poisoned).foldl (fun s e =>
    match (s.splOf e.2.blk e.2.grp (s.splitOf e.2)).status with
    | .parked _ => s
    | _ => { s with remotes := s.remotes.set e.1 { e.2 with poisoned := false } }.poisonAccess e.1) s

/-- Who a message belongs to, where what it asks turns out to be local (R438). -/
def askerOf (r : Remote) (id : Nat) : Asker :=
  match r.op, r.sb with
  | some o, _ => .lane o r.lane r.regs
  | none, some _ => .store r.blk r.grp id
  | none, none => .nobody

/-- The write of an event record whose translation has been invalidated is made afresh (R65, R438). -/
def rewrite (s : State) (fn die idx : Nat) : RemoteOp → State
  | .write bs =>
    let q := s.evqOf fn die
    match s.devStore die fn 0 (q.base + 32 * (idx % 2 ^ q.z)) bs (.record fn die idx) with
    | (s, true, true) => s.recordDone fn die idx
    | (s, true, false) => s
    | (s, false, _) => s.recordFails (.record fn die idx)
  | _ => s

/-- Send a message again (R375). One whose translation has been invalidated meanwhile is translated afresh and sent where its page then is
(R438), where it keeps behind the earlier ones to that line; an agent of a die asks afresh for what it waits for. Any other one keeps its address
(R239). -/
def resend (s : State) (id : Nat) : State :=
  let r := s.remoteOf id
  if !r.stale then { s with remotes := s.remotes.set id { r with retried := false } }.sendMsg id r.pa r.fn r.req
  else if r.far then
    match r.who with
    | .record fn die idx => (s.closeRemote id).rewrite fn die idx r.req
    | _ => { s with far := s.far.filter fun x => x.msg != id }.closeRemote id
  else
    let prot := fun (s : State) => s.failAccess id 0x06 (infoAt r.va r.lane)
    match s.translate r.die (if s.hasGroup r.blk r.grp then some (s.blkOf r.blk).core else none) r.fn r.ctx r.va (reqAcc r) with
    | (s, .error _) => prot s
    | (s, .ok pa) =>
      if r.engine.isSome then s.askAgain id
      else
        match s.reachPa r.fn pa (reqBytes r.req) (reqReads r.req) with
        | .remote pa =>
          let r' := { r with pa := pa, retried := false, stale := false }
          let behind := s.lineBusy r' id
          let s : State := { s with remotes := s.remotes.set id { r' with behind := behind } }
          (if behind then s else s.sendMsg id pa r.fn r.req).sendNext r
        | .ok pa => (s.closeRemote id).runHeld { pa := pa, op := r.req, who := askerOf r id, fn := r.fn }
        | .poison => s.poisonAccess id
        | .wait => s
        | .fail c => s.failAccess id c (infoAt r.va r.lane)
        | _ => prot s

end State

/-- REMOTE_MESSAGE (R371, R372): for another module it is forwarded; otherwise it is admitted or refused. An expander, which has no Itroth ports,
receives none (R4). -/
def execRemoteMessage (m : RemoteMsg) (s : State) : Host.Outcome State Fault Refusal :=
  .next (
    if s.isExpander then s
    else if m.dest ≠ s.moduleNo then
      let pa := 0x4000000000000 + m.dest * 2 ^ 40 + m.offset
      match s.routePort pa with
      | some p => (s.emit (.forward m p)).flitsTo pa (messageBytes m)
      | none => s
    else
      match s.admits m with
      | none => s.answerTo m.offset m.srcModule (.answer m.id .refused)
      | some i => s.takeMsg m (s.rdNum (s.fab 8 8 + 32 * i + 0x13) 1))

/-- REMOTE_RESPONSE (R373, R376, R381, R385). -/
def execRemoteResponse (id : Nat) (a : RemoteResp) (s : State) : Host.Outcome State Fault Refusal :=
  let r := s.remoteOf id
  .next (
    if !s.remotes.has id || r.retried || r.behind || s.accessParked id then s
    else
      match a with
      | .done bs => s.endAccess id bs
      | .refused => s.failAccess id 0x06 (infoAt r.va r.lane)
      | .unsupported abort => s.failAccess id 0x12 (infoAt r.va r.lane ||| if abort then 1#64 <<< 63 else 0)
      | .poisoned => s.poisonAccess id)

/-- REMOTE_RETRY (R375). -/
def execRemoteRetry (id : Nat) (s : State) : Host.Outcome State Fault Refusal :=
  .next (if s.remotes.has id && !(s.remoteOf id).behind then { s with remotes := s.remotes.set id { s.remoteOf id with retried := true } } else s)

/-- REMOTE_RESEND (R375, R438): later messages of the die to the line wait behind it. What a saved block sends again waits for its resume. -/
def execRemoteResend (id : Nat) (s : State) : Host.Outcome State Fault Refusal :=
  let r := s.remoteOf id
  .next (if s.remotes.has id && r.retried && (r.far || (s.blkOf r.blk).life != .saved) then s.resend id else s)

/-- REMOTE_TIMEOUT (R375): the count does not run while the port trains, and a Retry restarts it. -/
def execRemoteTimeout (id : Nat) (s : State) : Host.Outcome State Fault Refusal :=
  let r := s.remoteOf id
  let p := (s.routePort r.pa).getD 0
  .next (if !s.remotes.has id || r.retried || r.behind || s.accessParked id || s.linkTrains (p / 4) (p % 4) then s
         else s.failAccess id 0x13 (infoAt r.va r.lane))

/-- BACK_INVALIDATION_SNOOP_RESPONSE (R379): the line is the module's, and what waited for it is performed. -/
def execBackInvalidationSnoopResponse (line : Nat) (s : State) : Host.Outcome State Fault Refusal :=
  .next (
    if s.snoops.contains line then
      { s with snoops := s.snoops.filter (· != line), hostShared := s.hostShared.filter (· != line) }.settleHeld
    else s)

/-- BACK_INVALIDATION_FROM_EXPANDER (R383): what the caches hold of the line goes back, which no program sees, and the snoop is
answered. -/
def execBackInvalidationFromExpander (line : Nat) (s : State) : Host.Outcome State Fault Refusal :=
  .next (s.emit (.snoopDone line))

end Sys2Proof.Machine
end

