-- ==== Sys2Proof/Machine/Loft.lean ====
section
/-! DEFINITION. The Loft in compute mode (spec/11_loft_compute.md R303 to R326): the checks at issue, the operations on their bays,
LBAY, LFREE, reclaims. -/

namespace Sys2Proof.Machine

/-! ### Issue (R309) -/

/-- What a form names: its bay word, its destination field, its source fields, and a further check of its entry. -/
structure LoftForm where
  bayWord : Word
  dst : Option Word
  src : List Word
  extra : Bool := true

/-- The lost mask of the issuing context on its die (R314). -/
def lostKey (s : State) : Nat := s.fn * 64 + s.ctx
def State.lostOf (s : State) : BitVec 64 := (s.dieOf s.blk.die).lostMask.get 0 (lostKey s)

/-- LoftBayLost is delivered once: the mask is cleared with it (R314). -/
def withLost (f : State → Eff) (s : State) : Eff :=
  if s.lostOf ≠ 0 then
    .trap 0x0E s.lostOf (s.modDie s.blk.die fun d => { d with lostMask := d.lostMask.set (lostKey s) 0 })
  else f s

/-- Does the context own the bay in compute mode (R304)? -/
def State.ownsBay (s : State) (b : Nat) : Bool :=
  let x := s.bayOf s.blk.die b
  x.mode == 2 && x.fn == s.fn && x.ctx == s.ctx

/-- Checks 2 to 5 of R309. -/
def loftChecks (f : LoftForm) (planes : Bool) (k : State → Nat → Eff) : State → Eff :=
  withLost fun s =>
    let fields := f.dst.toList ++ f.src
    let b := f.bayWord.toNat
    if b ≥ 64 ∨ fields.any fReserved then .bad 0x02
    else if !s.ownsBay b then .trap 0x06 (BitVec.ofNat 64 (b + 2 ^ 62)) s
    else if planes && ((fields.any fun w => decide (fBase w + fWidth w > 512)) ||
        (match f.dst with | some d => f.src.any (fOverlap d) | none => false) || !f.extra) then .bad 0x01
    else k s b

/-- Send an operation to its bay: the operands are captured (R309, R310). -/
def sendJob (form : Instr) (b : Nat) (f : LoftForm) (mask : Word) (scalar : DWord) (sreg : Nat) (s : State) : State :=
  let s := s.startOp { kind := .loft }
  let j : LoftJob := { op := s.lastOp, blk := s.focus.blk, grp := s.focus.grp, die := s.blk.die, fn := s.fn, ctx := s.ctx, bay := b,
                       form := form, dst := f.dst.getD 0, srcA := f.src.getD 0 0, srcB := f.src.getD 1 0, mask := mask,
                       scalar := scalar, sreg := sreg }
  s.modDie s.blk.die fun d => { d with loft := d.loft ++ [j] }

/-- A form that sends one operation. -/
def loftOp (i : Instr) (form : State → LoftForm) (mask : State → Word) (scalar : State → DWord) (sreg : Nat) (s : State) :
    Host.Outcome State Fault Refusal :=
  issue i true (fun s => loftChecks (form s) true (fun t b => .ok (sendJob i b (form s) (mask s) (scalar s) sreg t)) s) s

/-- The bay word of a form whose first source is sA. -/
def bayWordOf (s : State) (a : BitVec 7) : Word := s.getS (a.toNat + 1)

def execLop (o : LoftOp) (d a b : BitVec 7) (s : State) : Host.Outcome State Fault Refusal :=
  loftOp (.lop o d a b) (fun s => ⟨bayWordOf s a, some (s.getS d.toNat),
    s.getS a.toNat :: (if o = .not then [] else [s.getS b.toNat]), true⟩) (fun _ => 0) (fun _ => 0) 0 s
def execLops (o : LoftOp) (d a b : BitVec 7) (s : State) : Host.Outcome State Fault Refusal :=
  loftOp (.lops o d a b) (fun s => ⟨bayWordOf s a, some (s.getS d.toNat), [s.getS a.toNat], true⟩) (fun _ => 0)
    (fun s => if o = .not then 0 else s.getP b.toNat) 0 s
def execLcmp (c : LoftCc) (d a b : BitVec 7) (s : State) : Host.Outcome State Fault Refusal :=
  loftOp (.lcmp c d a b) (fun s => ⟨bayWordOf s a, some (s.getS d.toNat), [s.getS a.toNat, s.getS b.toNat],
    fWidth (s.getS d.toNat) == 1⟩) (fun _ => 0) (fun _ => 0) 0 s
def execLcmps (c : LoftCc) (d a b : BitVec 7) (s : State) : Host.Outcome State Fault Refusal :=
  loftOp (.lcmps c d a b) (fun s => ⟨bayWordOf s a, some (s.getS d.toNat), [s.getS a.toNat],
    fWidth (s.getS d.toNat) == 1⟩) (fun _ => 0) (fun s => s.getP b.toNat) 0 s
def execLpop (d a : BitVec 7) (s : State) : Host.Outcome State Fault Refusal :=
  loftOp (.lpop d a) (fun s => ⟨bayWordOf s a, some (s.getS d.toNat), [s.getS a.toNat], true⟩) (fun _ => 0) (fun _ => 0) 0 s
def execLsel (d a b : BitVec 7) (s : State) : Host.Outcome State Fault Refusal :=
  loftOp (.lsel d a b) (fun s => ⟨bayWordOf s a, some (s.getS d.toNat),
    [s.getS a.toNat, s.getS b.toNat, s.getS (d.toNat + 1)], fWidth (s.getS (d.toNat + 1)) == 1⟩)
    (fun s => s.getS (d.toNat + 1)) (fun _ => 0) 0 s
def execLsrch (d a b : BitVec 7) (s : State) : Host.Outcome State Fault Refusal :=
  loftOp (.lsrch d a b) (fun s => ⟨bayWordOf s a, none, [s.getS a.toNat], true⟩) (fun _ => 0) (fun s => s.getP b.toNat) d.toNat s
def execLshift (d a b : BitVec 7) (s : State) : Host.Outcome State Fault Refusal :=
  loftOp (.lshift d a b) (fun s => ⟨bayWordOf s a, some (s.getS d.toNat), [s.getS a.toNat], true⟩) (fun _ => 0)
    (fun s => (s.getS b.toNat).signExtend 64) 0 s

/-- LFREE (R317): check 5 does not apply. -/
def execLfree (a : BitVec 7) (s : State) : Host.Outcome State Fault Refusal :=
  issue (.lfree a) true (fun s =>
    loftChecks ⟨s.getS a.toNat, none, [], true⟩ false (fun t b => .ok (sendJob (.lfree a) b ⟨0, none, [], true⟩ 0 0 0 t)) s) s

/-- LBAY (R316): bay 64 stands for a request for any bay. -/
def execLbay (d a : BitVec 7) (s : State) : Host.Outcome State Fault Refusal :=
  issue (.lbay d a) true (withLost fun s =>
    let r := (s.getS a.toNat).toNat
    if r ≥ 64 ∧ r ≠ 0xFFFFFFFF then .bad 0x02
    else .ok (sendJob (.lbay d a) (min r 64) ⟨0, none, [], true⟩ 0 0 d.toNat s)) s

/-- LXIN and LXOUT (R318): a command of the stream engine that is also an operation of the bay. -/
def lxCmd (i : Instr) (k : EngKind) (d a : BitVec 7) (q : BitVec 2) (p : BitVec 3) (s : State) :
    Host.Outcome State Fault Refusal :=
  issue i true (fun s =>
    let pat := s.grp.q.get p.toNat
    let f := s.getS d.toNat
    let l0 := (s.getS a.toNat).toNat
    let form : LoftForm := ⟨bayWordOf s a, if k = .lxin then some f else none, if k = .lxin then [] else [f],
      patBytes pat != 0 && patTranspose pat && decide (l0 + patElems pat ≤ bayLanes)⟩
    loftChecks form true (fun s b =>
      if engHeld s.grp ≥ 32 then .later s
      else if patElems pat = 0 then .ok (accept s)
      else
        let s := sendJob i b form 0 0 0 s
        let c : EngCmd := { newCmd k pat l0 none 0 0 with bay := b, field := f, op := s.lastOp }
        .ok (pushCmd c q.toNat s)) s) s

def execLxin (d a : BitVec 7) (q : BitVec 2) (p : BitVec 3) (s : State) : Host.Outcome State Fault Refusal :=
  lxCmd (.lxin d a q p) .lxin d a q p s
def execLxout (d a : BitVec 7) (q : BitVec 2) (p : BitVec 3) (s : State) : Host.Outcome State Fault Refusal :=
  lxCmd (.lxout d a q p) .lxout d a q p s

/-- LWAIT (R325): it waits for every Loft operation that the group issued before; a LoftDataError is delivered at it. -/
def execLwait (s : State) : Host.Outcome State Fault Refusal :=
  issue .lwait false (withLost fun s =>
    if s.groupBusy s.focus.blk s.focus.grp [.loft] then .later s
    else
      match s.grp.fails.find? fun f => f.code == 0x0F with
      | some f => if s.spl.frame.isNone then .trap 0x0F f.info (s.modG fun g => { g with fails := g.fails.erase f }) else .ok s
      | none => .ok s) s

/-! ### Performing an operation (R310, R312, R319 to R324) -/

/-- The planes that an operation writes to its destination of width n. -/
def loftResult (j : LoftJob) (bay : Bay) (n : Nat) : List Plane :=
  let a := bay.field j.srcA
  let b := bay.field j.srcB
  let k := scalarWide (fSigned j.srcA) j.scalar
  let arith := fun (o : LoftOp) (y : Wide) =>
    match o with
    | .add => addPlanes a.bit y.bit n 0 0
    | .sub => addPlanes a.bit (fun i => ~~~y.bit i) n 0 (BitVec.allOnes 262144)
    | .mul => mulPlanes n a y n 0 (planesOf n fun _ => 0)
    | .and => planesOf n fun i => a.bit i &&& y.bit i
    | .or => planesOf n fun i => a.bit i ||| y.bit i
    | .xor => planesOf n fun i => a.bit i ^^^ y.bit i
    | .andn => planesOf n fun i => a.bit i &&& ~~~y.bit i
    | .not => planesOf n fun i => ~~~a.bit i
  let comp := fun (c : LoftCc) (y : Wide) =>
    match c with
    | .eq => eqPlane a y
    | .lt => ltPlane a y
    | .le => ~~~ltPlane y a
    | .gt => ltPlane y a
    | .ge => ~~~ltPlane a y
  match j.form with
  | .lop o _ _ _ => arith o b
  | .lops o _ _ _ => arith o k
  | .lcmp c _ _ _ => [comp c b]
  | .lcmps c _ _ _ => [comp c k]
  | .lpop _ _ => (List.range (fWidth j.srcA)).foldl (fun acc i =>
      addPlanes (fun m => (acc[m]?).getD 0) (fun m => if m = 0 then a.bit i else 0) n 0 0) (planesOf n fun _ => 0)
  | .lsel _ _ _ =>
    let m := bay.planes.get (fBase j.mask)
    planesOf n fun i => (a.bit i &&& m) ||| (b.bit i &&& ~~~m)
  | .lshift _ _ _ =>
    let sh := j.scalar.toInt
    planesOf n fun i => if sh < 0 then a.bit i >>> sh.natAbs else a.bit i <<< sh.toNat
  | _ => []

/-- LSRCH (R323): how many lanes match, and the lowest of them. -/
def searchResult (j : LoftJob) (bay : Bay) : Word × Word :=
  let p := (eqPlane (bay.field j.srcA) (scalarWide (fSigned j.srcA) j.scalar)).toNat
  (BitVec.ofNat 32 (popc bayLanes p),
   match (List.range bayLanes).find? fun l => bitOf p l with
   | some l => BitVec.ofNat 32 l
   | none => 0xFFFFFFFF)

namespace State

/-- The source fields of an operation. -/
def jobSources (j : LoftJob) : List Word :=
  match j.form with
  | .lop o _ _ _ => if o = .not then [j.srcA] else [j.srcA, j.srcB]
  | .lcmp _ _ _ _ => [j.srcA, j.srcB]
  | .lsel _ _ _ => [j.srcA, j.srcB, j.mask]
  | _ => [j.srcA]

/-- The destination planes of an operation, and whether its residues are checked (R312). -/
def jobPlanes (j : LoftJob) : BitVec 512 := match j.form with | .lsrch _ _ _ => 0 | _ => fieldPlanes j.dst
def jobResidue (j : LoftJob) : Bool :=
  match j.form with
  | .lop o _ _ _ => o == .add || o == .sub || o == .mul
  | .lops o _ _ _ => o == .add || o == .sub || o == .mul
  | _ => false

/-- The planes that the checks of an operation declare lost, with the cause (R312). -/
def jobErrors (s : State) (j : LoftJob) : Option (BitVec 512 × Nat) :=
  match s.parityLost j.die j.bay (jobSources j) (BitVec.allOnes 128) (jobPlanes j) with
  | some m => some (m, 0)
  | none => if jobResidue j && (s.bayOf j.die j.bay).resid then some (jobPlanes j, 1) else none

/-- Perform an operation on its bay; a lost source plane leaves the destination unchanged, and an operation with a failed check leaves
its planes lost (R312). -/
def runJob (s : State) (j : LoftJob) : State :=
  let bay := s.bayOf j.die j.bay
  match s.lostInfo j.die j.bay (jobSources j) with
  | some i => (s.endJob j.die j.op []).failH j.blk j.grp 0x0F i
  | none =>
  match s.jobErrors j with
  | some (m, c) =>
    let s := (s.losePlanes j.die j.bay m).modBay j.die j.bay fun b => if c = 1 then { b with resid := false } else b
    (s.endJob j.die j.op []).failH j.blk j.grp 0x0F (checkInfo j.bay m c)
  | none =>
    match j.form with
    | .lsrch _ _ _ =>
      let r := searchResult j bay
      s.endJob j.die j.op [(j.sreg, r.1), (j.sreg + 1, r.2)]
    | _ =>
      (s.modBay j.die j.bay fun x => x.put (fBase j.dst) (loftResult j bay (fWidth j.dst))).endJob j.die j.op []

/-- What LBAY answers, and the bay it takes (R316). -/
def lbayAnswer (s : State) (j : LoftJob) : Word × Option Nat :=
  let d := s.dieOf j.die
  let bay := fun b => s.bayOf j.die b
  let anyBay := (List.range 64).find? fun b => (bay b).mode == 0
  let own := (bay j.bay).mode == 2 && (bay j.bay).fn == j.fn && (bay j.bay).ctx == j.ctx && !(bay j.bay).reclaiming
  if j.bay < 64 ∧ own then (BitVec.ofNat 32 j.bay, none)
  else if j.bay < 64 ∧ (bay j.bay).mode = 1 then (0x80000001, none)
  else if j.bay < 64 ∧ (bay j.bay).mode = 2 then (0x80000002, none)
  else if j.bay = 64 ∧ anyBay.isNone then (0x80000005, none)
  else if ((List.range 64).filter fun b => (bay b).mode == 2).length ≥ d.computeMax then (0x80000003, none)
  else if ((List.range 64).filter fun b => (bay b).mode == 2 && (bay b).fn == j.fn).length ≥ (s.fnBlock j.fn j.die).maxBays then
    (0x80000004, none)
  else
    let b := if j.bay < 64 then j.bay else anyBay.getD 0
    (BitVec.ofNat 32 b, some b)

/-- LBAY ends: a bay it takes is zeroed and owned, and sD receives the answer. -/
def runLbay (s : State) (j : LoftJob) : State :=
  match s.lbayAnswer j with
  | (w, some b) =>
    let bad := (s.bayOf j.die b).badPlanes (BitVec.allOnes 128)
    let s := (s.modBay j.die b fun _ => { mode := 2, fn := j.fn, ctx := j.ctx, lost := bad }).endJob j.die j.op [(j.sreg, w)]
    if bad = 0 then s else s.failH j.blk j.grp 0x0F (checkInfo b bad 0)
  | (w, none) => s.endJob j.die j.op [(j.sreg, w)]

/-- LFREE ends: the bay returns to cache mode (R317), unless the context has lost it since. -/
def runLfree (s : State) (j : LoftJob) : State :=
  (if s.jobOwns j then s.modBay j.die j.bay fun _ => {} else s).endJob j.die j.op []

/-- The engine queue that holds the command of a Loft operation, and its work on it (R318). -/
def runLx (s : State) (j : LoftJob) : State :=
  match (s.grpOf j.blk j.grp).eng.find? fun e => e.2.any fun c => c.op == j.op && (c.kind = .lxin || c.kind = .lxout) with
  | some e => s.engStep j.blk j.grp e.1
  | none => s

/-- An operation whose context has lost its bay since it issued: it is not performed, and its group takes ProtectionFault under R309 at its next
header (DESIGN CHOICE, log 83). -/
def strayJob (s : State) (j : LoftJob) : State :=
  let s := s.dropCmds j.blk j.grp fun _ c => c.op == j.op && (c.kind = .lxin || c.kind = .lxout)
  (s.endJob j.die j.op []).failH j.blk j.grp 0x06 (BitVec.ofNat 64 (j.bay % 64 + 2 ^ 62))

/-- Does a command of the engine have a sector write of a bay's planes at its home? -/
def lxWriting (s : State) (d b : Nat) : Bool :=
  (s.dieOf d).loft.any fun j => j.bay == b && (s.grpOf j.blk j.grp).eng.any fun e => match e.2 with
    | c :: _ => c.op == j.op && (c.kind = .lxin || c.kind = .lxout) && engWriting c
    | [] => false

/-- A reclaim of a bay in compute mode ends (R314). -/
def reclaimBay (s : State) (d b : Nat) : State :=
  let x := s.bayOf d b
  if x.mode ≠ 2 then s
  else
    let jobs := (s.dieOf d).loft.filter fun j => j.bay == b && (match j.form with | .lbay _ _ => false | _ => true)
    let s := jobs.foldl (fun s j =>
      let s := s.dropCmds j.blk j.grp fun _ c => c.op == j.op && (c.kind = .lxin || c.kind = .lxout)
      s.endJob d j.op []) s
    let s := s.modBay d b fun _ => {}
    let key := x.fn * 64 + x.ctx
    let s := s.modDie d fun y => { y with lostMask := y.lostMask.set key (y.lostMask.get 0 key ||| (1 <<< b)) }
    s.event x.fn d 0x07 b 0 0 x.fn 0 x.ctx

/-- A reclaim of a bay starts; it is in progress while a sector write of its planes is at its home (R314, R315). -/
def startReclaim (s : State) (d b : Nat) : State :=
  if (s.bayOf d b).mode ≠ 2 then s
  else if s.lxWriting d b then s.modBay d b fun x => { x with reclaiming := true }
  else s.reclaimBay d b

/-- The next operation of a bay, whatever its form; or the end of a reclaim of the bay. -/
def loftEnd (s : State) (d bay : Nat) : State :=
  if (s.bayOf d bay).reclaiming && !s.lxWriting d bay then s.reclaimBay d bay
  else
    match s.bayHead d bay with
    | none => s
    | some j =>
      if !s.jobMoves j then s
      else
        match j.form with
        | .lbay _ _ => s.runLbay j
        | .lfree _ => s.runLfree j
        | .lxin _ _ _ _ | .lxout _ _ _ _ => if s.jobOwns j then s.runLx j else s.strayJob j
        | _ => if s.jobOwns j then s.runJob j else s.strayJob j

/-- The bays of a context, or of a whole function, return to cache mode without a LoftBayLost (R314). -/
def freeBays (s : State) (fn : Nat) (ctx : Option Nat) : State :=
  let mine := fun (x : Bay) => x.mode == 2 && x.fn == fn && (match ctx with | some c => x.ctx == c | none => true)
  { s with dies := s.dies.map fun (e : Nat × Die) => (e.1, { e.2 with
      bays := e.2.bays.map fun (b : Nat × Bay) => if mine b.2 then (b.1, {}) else b
      lostMask := e.2.lostMask.filter fun k => !(k.1 / 64 == fn && (match ctx with | some c => k.1 % 64 == c | none => true)) }) }

end State

/-- LOFT_OPERATION_END (R310). -/
def execLoftOperationEnd (d bay : Nat) (s : State) : Host.Outcome State Fault Refusal := .next (s.loftEnd d bay)

/-- LBAY_COMPLETE (R316). -/
def execLbayComplete (op : Nat) (s : State) : Host.Outcome State Fault Refusal :=
  .next (match s.dies.findSome? fun (e : Nat × Die) => e.2.loft.find? fun j => j.op == op with
    | some j =>
      match j.form with
      | .lbay _ _ => if s.atHead j.die j.bay op && s.jobMoves j then s.runLbay j else s
      | _ => s
    | none => s)

/-- LFREE_COMPLETE (R317). -/
def execLfreeComplete (op : Nat) (s : State) : Host.Outcome State Fault Refusal :=
  .next (match s.dies.findSome? fun (e : Nat × Die) => e.2.loft.find? fun j => j.op == op with
    | some j =>
      match j.form with
      | .lfree _ => if s.atHead j.die j.bay op then s.runLfree j else s
      | _ => s
    | none => s)

/-- LOFT_RECLAIM: a write to LOFTRECL (R315). -/
def execLoftReclaim (d v : Nat) (s : State) : Host.Outcome State Fault Refusal :=
  .next (if bitOf v 31 then s.startReclaim d (v % 64) else s)

end Sys2Proof.Machine
end

