-- ==== Sys2Proof/Machine/Interrupt.lean ====
section
/-! DEFINITION. Interruption (spec/16_interruption.md R416 to R438): block errors, lane deaths, pre-emption, saving and resuming
blocks, context commands, evacuation, and the distributor's step, which resumes before it places (spec/04_placement.md R93). -/

namespace Sys2Proof.Machine

namespace State

/-! ### Halting and saving a block (R422 to R425) -/

/-- Do the groups of a block stand at instruction boundaries: no split inside a clause can issue (R104, R423)? -/
def atBoundary (s : State) (b : Nat) : Bool :=
  (s.blkOf b).groups.all fun g => (List.range 4).all fun e => !(s.midClause b g.1 e && s.canTry b g.1 e)

/-- Is a store buffer write of a block at its home, or is its message not answered (R423)? -/
def storeSent (s : State) (b : Nat) : Bool :=
  (s.blkOf b).groups.any fun g => g.2.sb.any fun e => e.writes.any fun w => match w.tok with
    | some id => !s.accessParked id
    | none => false

/-- Has everything that was sent been answered, so that the block can halt (R423)? With drain, has the rest run to its end as well
(R427)? -/
def canHalt (s : State) (b : Nat) (drain : Bool) : Bool :=
  let x := s.blkOf b
  s.atBoundary b && !s.storeSent b && s.remotes.all (fun r => r.2.blk != b || r.2.far || s.accessParked r.1) &&
    (x.groups.all fun g => g.2.eng.all fun e => e.2.all fun c => !engWriting c) &&
    (s.ops.all fun o => o.2.blk != b || o.2.remote == 0 || s.remotes.any fun r => r.2.op == some o.1) &&
    (!drain || (x.groups.all (fun g => g.2.sb.isEmpty && g.2.eng.isEmpty) && s.dies.all fun d => d.2.loft.all fun j => j.blk != b))

/-- A split that goes back to the word of a frame. -/
def backTo (x : Split) (f : Frame) : Split :=
  { x with pc := f.pc, hdr := f.hdr, left := f.left, ll := f.ll, flagA := f.flagA, flagB := f.flagB, mode := f.mode, sig := f.sig }

/-- A split at the halt (R423): parkings are void, waits are abandoned; it will issue its word again, in the lanes not yet performed, that of a message
which met poison in its lane (R229), and wait again in a SLEEP or a WAITF. -/
def haltSplit (s : State) (x : Split) : Split :=
  match x.status with
  | .parked id =>
    let m := (s.parkOf id).lanes
    let y := { x with status := .ready, loads := none }
    match (s.parkOf id).who with
    | .access r =>
      let l := (s.remoteOf r).lane
      { (match (s.remoteOf r).frame with | some f => backTo y f | none => y) with replay := if l < 96 then some (1 <<< l) else none }
    | _ => { y with replay := if m = 0 then x.replay else if m = BitVec.allOnes 96 then none else some m }
  | .waiting (.sleep _) | .waiting (.mask _) =>
    { (match x.last with | some f => backTo x f | none => x) with status := .ready, loads := none }
  | .waiting _ => { x with status := .ready, loads := none }
  | _ => { x with loads := none }

/-- An engine command at the halt (R313, R423): one of the Loft, which its halt stops, will start anew; the others go on from the next
element. -/
def haltCmd (s : State) (die : Nat) (c : EngCmd) : EngCmd :=
  if (s.dieOf die).loft.any fun j => j.op == c.op && j.stopped && (c.kind == .lxin || c.kind == .lxout) then
    { c with done := 0, asked := [], got := [] }
  else c

/-- A BARW on a word that is abandoned lowers Waiters by one (R410). -/
def leaveWord (s : State) (b : Nat) (x : Split) : State :=
  match x.status with
  | .waiting (.barWord scr a) =>
    let w := s.bwRead b scr a
    s.bwWrite b scr a (setBits w 95 88 (bwWaiters w - 1))
  | _ => s

/-- The messages of a block that met poison and for which a split of it is parked: they are given up at its halt, since it issues its word again. -/
def poisonHolds (s : State) (b : Nat) : List Nat :=
  s.parks.filterMap fun e => match e.2.who, s.parkedSplit e.1 with
    | .access m, some (x, _, _) => if x = b then some m else none
    | _, _ => none

/-- Halt a block at an instruction boundary (R423). -/
def haltBlock (s : State) (b : Nat) : State :=
  let die := (s.blkOf b).die
  let given := s.poisonHolds b
  let s := s.stopLoft b
  let s := (s.blkOf b).groups.foldl (fun s g => g.2.splits.foldl (fun s e => s.leaveWord b e.2) s) s
  let s := s.modBlk b fun x => { x with
    groups := x.groups.map fun (g : Nat × Group) =>
      (g.1, { g.2 with splits := g.2.splits.map fun (e : Nat × Split) => (e.1, s.haltSplit e.2), engPark := [],
                       eng := g.2.eng.map fun (e : Nat × List EngCmd) => (e.1, e.2.map (s.haltCmd die)) })
    act := x.act.filter fun (a : Nat × ActTable) => a.2.st == 2
    ms := { x.ms with parked := none, waiting := false, old := [] } }
  let s := given.foldl (fun s m => s.giveUp m) s
  let s : State := { s with
    remotes := s.remotes.map fun (r : Nat × Remote) =>
      (r.1, if r.2.blk = b ∧ !r.2.far then { r.2 with retried := true, poisoned := false } else r.2)
    far := s.far.filter fun e => match e.who with | .split x _ _ | .fetch x _ _ | .stream x | .word x _ _ | .words x => x != b | _ => true }
  let mine := (s.ops.filter fun e => e.2.blk == b && e.2.remote == 0 &&
    (e.2.kind == .load || e.2.kind == .atomic || e.2.kind == .pantry || e.2.kind == .queue)).map (·.1)
  let s := mine.foldl (fun s id => s.finishOp id) s
  { s with parks := s.parks.filter fun (e : Nat × Park) => match e.2.who with
      | .split x _ _ => x != b | .queue x _ _ => x != b | .stream x => x != b | .access i => (s.remoteOf i).blk != b }

/-- Save a block whole to its context's area (R424, R425): none where it does not fit, or cannot be written. -/
def saveBlock (s : State) (b cause : Nat) (dies : BitVec 4) : Option State :=
  let x := s.blkOf b
  let gr := s.gridOf x.grid
  match s.saveRecord x.die gr.fn gr.ctx (s.saveBytes b / 4096) with
  | none => none
  | some (s, ps, image) =>
    some (((s.haltBlock b).profileAdd b).modBlk b fun y =>
      { y with life := .saved, cause := cause, preempt := none, resumeOn := dies, pages := ps, image := image })

/-- The rollback cause, or the cause kept with a saved block, of a pre-emption (R422, R431). -/
def causeOf : PreemptCause → Nat
  | .gangHold => 1
  | .evacuation => 4
  | .contextSave => 5

/-- Is a save with drain of a context in progress, and has it not drained yet (R427)? -/
def drains (s : State) (fn ctx : Nat) : Bool := (s.fnOf fn).ctxCmds.any fun c => c.op == 1 && c.ctx == ctx && c.drain
def draining (s : State) (fn ctx : Nat) : Bool := (s.fnOf fn).ctxCmds.any fun c => c.op == 1 && c.ctx == ctx && c.drain && !c.drained

/-- The resident blocks of a block's span: they are pre-empted together (R96). -/
def spanMates (s : State) (b : Nat) : List Nat :=
  let x := s.blkOf b
  (s.blocks.filter fun e => resident e.2 && e.2.grid == x.grid && e.2.span == x.span).map (·.1)

/-- Save blocks one after the other: none where one does not fit (R425). -/
def saveAll (s : State) (k : PreemptCause) : List Nat → Option State
  | [] => some s
  | b :: t =>
    match s.saveBlock b (causeOf k) (if k = .gangHold then 1 <<< (s.blkOf b).die else 0) with
    | some u => u.saveAll k t
    | none => none

/-- A block that an evacuation finds: saved, or where it does not fit torn down, and its context fails with code 0xFF (R425, R435). -/
def saveOrFail (s : State) (b : Nat) : State :=
  let x := s.blkOf b
  let gr := s.gridOf x.grid
  match s.saveBlock b (causeOf .evacuation) 0 with
  | some t => t
  | none => (s.tearDown b).failContext gr.fn gr.ctx x.grid 0xFF x.die x.core 0 0

/-- Blocks that are not restartable stand at their halt (R422, R425, R435): they are saved together, or run on together where one does not
fit. -/
def saveSpan (s : State) (b : Nat) (k : PreemptCause) (mates : List Nat) : State :=
  let gr := s.gridOf (s.blkOf b).grid
  match s.saveAll k mates, k with
  | some t, _ => t
  | none, .evacuation => mates.foldl (fun s b => if resident (s.blkOf b) then s.saveOrFail b else s) s
  | none, .gangHold => mates.foldl (fun s b => (s.reissueLoft b).modBlk b fun y => { y with preempt := none }) s
  | none, .contextSave =>
    (mates.foldl (fun s b => (s.reissueLoft b).modBlk b fun y => { y with preempt := none }) s).modFn gr.fn fun f =>
      { f with ctxCmds := f.ctxCmds.map fun c => if c.op = 1 ∧ c.ctx = gr.ctx then { c with small := true } else c }

/-- A requested pre-emption comes about (R96, R422, R425, R435): every block of the span halts at an instruction boundary, once what was sent
has been answered, and a save with drain has drained (R427); its Loft operations stop, and what they leave running ends first (R313). Then the span is
rolled back, once its store buffers are empty (R431), or saved. -/
def preemptSpan (s : State) (b : Nat) (k : PreemptCause) : State :=
  let gr := s.gridOf (s.blkOf b).grid
  let mates := s.spanMates b
  if (k == .contextSave && s.draining gr.fn gr.ctx) || !mates.all fun m => s.canHalt m (k == .contextSave && s.drains gr.fn gr.ctx) then s
  else
    let s := mates.foldl (fun s m => s.stopLoft m) s
    if mates.any fun m => s.loftRuns m then s
    else if gr.restartable then
      let s := mates.foldl (fun s m => s.drainAll m) s
      if mates.any fun m => (s.blkOf m).groups.any fun g => !g.2.sb.isEmpty then s
      else mates.foldl (fun s m => (s.haltBlock m).rollBack m (causeOf k) 0) s
    else s.saveSpan b k mates

/-! ### Resuming (R426, R432) -/

/-- Is a message that a block sent before it was rolled back still to be performed (R431)? -/
def sentBefore (s : State) (b : Nat) : Bool := s.remotes.any fun r => r.2.blk == b && !r.2.far

/-- Does a saved or rolled back block wait to be resumed on a die (R314, R426, R427)? -/
def waitsOn (s : State) (d id : Nat) (b : Block) : Bool :=
  let gr := s.gridOf b.grid
  let owns := (s.dieOf b.die).bays.any fun x => x.2.mode == 2 && x.2.fn == gr.fn && x.2.ctx == gr.ctx
  (b.life == .saved || (b.life == .rolledBack && !s.sentBefore id)) && b.resumeOn != 0 && !s.ctxShut gr.fn gr.ctx &&
    (if owns && b.life == .saved then b.die == d else b.resumeOn.getLsbD d)

/-- The scalar registers of a resumed group, from the words of its record (R428, R432): the registers, and the words left. -/
def takeRegs (mask : Word) (ws : List Word) : Cells 32 × List Word :=
  let rs := liveRegs mask
  ((rs.zip ws).foldl (fun (m : Cells 32) r => m.set r.1 r.2) [], ws.drop rs.length)

/-- The groups of a block resumed from its record, in block order. -/
def resumeGroups (g : Grid) (has : Bool) (info : DWord) : List (Nat × Group) → List Word → List (Nat × Group) × List Word
  | [], ws => ([], ws)
  | (k, x) :: t, ws =>
    let desc := (g.descs[x.slot]?).getD (0, 0, 0)
    let (regs, rest) := if has then takeRegs desc.2.1 ws else ([], ws)
    let sp : Split := x.splits.get {} 0
    let sp : Split := { sp with pc := if has then desc.1 else sp.pc, s := regs, trapCode := 0x1B, trapInfo := info }
    let y : Group := { x with splits := [(0, sp)] }
    let (more, left) := resumeGroups g has info t rest
    ((k, y) :: more, left)

/-- The matrix stream of a block resumed from its record. -/
def resumeStream (g : Grid) (has : Bool) (ws : List Word) : Stream :=
  if !has then { pc := g.matrix.getD 0 }
  else
    let ks := (List.range 8).filter fun i => g.msMask.getLsbD i
    let ds := (List.range 16).filter fun i => g.msMask.getLsbD (i + 8)
    let rest := ws.drop ks.length
    { pc := g.msRestart,
      k := (ks.zip ws).foldl (fun (m : Cells 32) r => m.set r.1 r.2) [],
      d := ((List.range ds.length).zip ds).foldl (fun (m : Cells 128) r =>
        m.set r.2 (BitVec.ofNat 128 ((List.range 4).foldl (fun a j => a + ((rest[4 * r.1 + j]?).getD 0).toNat * 2 ^ (32 * j)) 0))) [] }

/-- The record that a rolled back block is resumed from (R428, R432): its words from 0x40; none where it cannot be read or its
Check does not match. -/
def readRecord (s : State) (b d : Nat) : State × Option (List Word) :=
  let x := s.blkOf b
  let gr := s.gridOf x.grid
  match s.devRead d gr.fn gr.ctx (s.copyAt b (x.recGen % 2)) gr.copyBytes with
  | (s, none) => (s, none)
  | (s, some bs) =>
    let ws := (List.range (gr.copyBytes / 4)).map fun i => BitVec.ofNat 32 (ofBytes ((bs.drop (4 * i)).take 4))
    let chk := (ws.take 2 ++ ws.drop 4).foldl crc32c 0xFFFFFFFF
    (s, if ws[3]? = some chk then some (ws.drop 16) else none)

/-- TRAPINFO of a resume from a record (R432). -/
def resumeInfo (x : Block) : DWord :=
  BitVec.ofNat 64 (x.recN % 2 ^ 16 + x.cause % 8 * 2 ^ 16 + x.rollbacks % 16 * 2 ^ 19 + if x.recHas then 0 else 2 ^ 31)

/-- Is a core one on which a block of the grid would be opportunistic work (R98)? -/
def asideFor (s : State) (d c : Nat) (g : Grid) : Bool :=
  (List.range 15).any fun k => (s.setAside d (k + 1)).contains c &&
    !(match g.gang with | some x => (s.queueOf (s.gangOf x).queue).gangClass == k + 1 | none => false)

/-- Resume a block on a core (R426, R432): a saved one as its record in the save area gives it. -/
def resumeBlock (s : State) (b d c : Nat) (parts : List Nat) : State :=
  let x := s.blkOf b
  let g := s.gridOf x.grid
  let place := fun (y : Block) => { y with life := .carved, die := d, core := c, resumeOn := 0, preempt := none, pages := [], image := [],
                                           opportunistic := s.asideFor d c g }
  if x.life = .saved then
    match s.takeBack b d with
    | (s, y) => s.modBlk b fun _ => place { y with groups := ((List.range y.groups.length).zip y.groups).map fun e =>
        (e.2.1, { e.2.2 with part := (parts[e.1]?).getD 0 }) }
  else
    match (if x.recHas then s.readRecord b d else (s, some [])) with
    | (s, none) => (s.modBlk b fun y => { y with die := d, core := c }).failBlock b 0x07 3 3
    | (s, some ws) =>
      let (gs, rest) := resumeGroups g x.recHas (resumeInfo x) (freshGroups g parts) ws
      s.modBlk b fun y => place { y with groups := gs, ms := resumeStream g x.recHas rest, msHeld := 0, hasMs := g.matrix.isSome, act := [], bars := [],
                                         scratch := [] }

/-- Is a saved or rolled back block torn down where it comes to be resumed: its context has failed or was disabled, or its grid has been torn
down, as a child of one that was (R89, R417)? -/
def tornAtResume (s : State) (b : Nat) : Bool :=
  let g := s.gridOf (s.blkOf b).grid
  (s.ctxOf g.fn g.ctx).stat.getLsbD 0 || (s.ctxOf g.fn g.ctx).torn || g.failed

/-- Resume the blocks of a unit on a die, in ascending order: none where some block finds no core (R96). -/
def resumeUnit (s : State) (d : Nat) : List Nat → Option State
  | [] => some s
  | b :: t =>
    let g := s.gridOf (s.blkOf b).grid
    if s.tornAtResume b then (s.tearDown b).resumeUnit d t
    else
      match s.chooseCore d g with
      | none => none
      | some (c, parts) => (s.resumeBlock b d c parts).resumeUnit d t

/-- The units that wait on a die: the pre-empted blocks of a span together, once none of it is still to be pre-empted (R96), and each block
rolled back by an error alone. -/
def unitsOn (s : State) (d : Nat) : List (List Nat) :=
  let mine := s.blocks.filter fun e => s.waitsOn d e.1 e.2
  let lone := (mine.filter fun e => e.2.cause == 2 || e.2.cause == 3).map fun e => [e.1]
  let rest := mine.filter fun e => !(e.2.cause == 2 || e.2.cause == 3)
  let spans := (rest.map fun e => (e.2.grid, e.2.span)).foldl (fun (l : List (Nat × Nat)) x => if l.contains x then l else l ++ [x]) []
  let spans := spans.filter fun sp => !s.blocks.any fun e => resident e.2 && e.2.preempt.isSome && (e.2.grid, e.2.span) == sp
  lone ++ spans.map fun sp => (rest.filter fun e => (e.2.grid, e.2.span) == sp).map (·.1)

/-- Resume every unit that fits. -/
def resumeAll (s : State) (d : Nat) : State :=
  (s.unitsOn d).foldl (fun s u => match s.resumeUnit d u with | some t => t | none => s) s

end State

/-- PLACEMENT_STEP (R93): pre-empted blocks that wait on the die are resumed, then one span is placed. A die under evacuation places
nothing (R435). -/
def execPlacementStep (d : Nat) (s : State) : Host.Outcome State Fault Refusal :=
  .next (if (s.dieOf d).evac.getLsbD 30 then s else (s.resumeAll d).placeNew d)

/-- BLOCK_RELEASE (R102, step 6). Before any word of a resumed block issues, its unsent stores are sent, its divisions replayed and its Loft
operations issued again (R423, R426). -/
def execBlockRelease (b : Nat) (s : State) : Host.Outcome State Fault Refusal :=
  .next (if (s.blkOf b).life = .carved then
      let s := (s.blkOf b).groups.foldl (fun s g => s.drain b g.1) s
      if (s.blkOf b).groups.any fun g => g.2.sb.any State.SbEntry.waits then s
      else
        let divs := (s.ops.filter fun o => o.2.blk == b && o.2.kind == .divide).map (·.1)
        let s := (divs.foldl (fun s o => s.finishOp o) s).reissueLoft b
        let s := s.modBlk b fun x => if x.life = .carved then { x with life := .running } else x
        let g := s.gridOf (s.blkOf b).grid
        if (s.ctxOf g.fn g.ctx).viral && (s.blkOf b).life == .running then (s.modCtx g.fn g.ctx fun x => { x with viral := false }).viralBlock b else s
    else s)

/-- PREEMPT_REQUEST (R422): of a resident block that a gang hold, a save or an evacuation asks for. -/
def execPreemptRequest (b : Nat) (k : PreemptCause) (s : State) : Host.Outcome State Fault Refusal :=
  .next (if State.resident (s.blkOf b) && (s.blkOf b).preempt == some k then s.preemptSpan b k else s)

/-! ### Errors (R416, R420) -/

/-- BLOCK_ERROR (R416). -/
def execBlockError (b what : Nat) (s : State) : Host.Outcome State Fault Refusal :=
  .next (
    let x := s.blkOf b
    if x.life != .running || decide (what = 0 ∨ what > 5) then s
    else if (s.gridOf x.grid).restartable then s.rollBack b 3 (BitVec.ofNat 64 what)
    else s.failBlock b 0x07 (BitVec.ofNat 64 what) what)

/-- LaneDead joins what already waits, or is queued (R420). -/
def lateLanes (fs : List Failure) (m : LaneMask) (pc : Nat) : List Failure :=
  let low := (lanesOf m).headD 0
  let n := (lanesOf m).length
  if fs.any fun f => f.code == 0x08 then
    fs.map fun f => if f.code = 0x08 then
      { f with info := BitVec.ofNat 64 (min low (bits f.info.toNat 6 0) + (n + bits f.info.toNat 14 8) % 128 * 2 ^ 8 +
          bits f.info.toNat 55 32 * 2 ^ 32) } else f
  else fs ++ [{ code := 0x08, info := BitVec.ofNat 64 (low + n % 128 * 2 ^ 8 + pc % 2 ^ 24 * 2 ^ 32), stream := false }]

/-- LANE_DEATH (R20, R420): live-capable lanes die, helper lanes become absent. -/
def execLaneDeath (b g : Nat) (lanes : LaneMask) (pc : Nat) (s : State) : Host.Outcome State Fault Refusal :=
  .next (
    let x := s.blkOf b
    let y := s.grpOf b g
    let new : LaneMask := lanes &&& y.capable &&& ~~~y.dead
    if x.life != .running then s
    else
    let s := s.modGrp b g fun (y : Group) => { y with dead := y.dead ||| new, absent := y.absent ||| (lanes &&& y.helpers) }
    if new = 0 then s
    else
      let gr := s.gridOf x.grid
      let d := (s.grpOf b g).dead
      let s := s.event gr.fn x.die 0x0D x.core y.gid ((lanesOf new).headD 0) gr.fn
        ((maskWord d 0).toNat + (maskWord d 1).toNat * 2 ^ 32) (gr.ctx + (maskWord d 2).toNat * 2 ^ 16)
      if gr.trapEntry.isSome && !y.ended then s.modGrp b g fun y => { y with fails := lateLanes y.fails new pc } else s)

/-- RESTART_RECORD_WRITE (R429). -/
def execRestartRecordWrite (b : Nat) (s : State) : Host.Outcome State Fault Refusal := .next (s.writeRecord b)

/-! ### Context commands (R418, R427) -/

namespace State

/-- Write a completion word in the context that the command names, or in context 0 where it names none, through the walker of a
die (log 15). -/
def complete (s : State) (fn ctx die comp v : Nat) : State :=
  (s.devWrite die fn (if ctx > 63 then 0 else ctx) comp (toBytes 8 v)).1

/-- Set or clear a bit of CTXSTAT (R418). -/
def statBit (s : State) (fn ctx i : Nat) (v : Bool) : State :=
  s.modCtx fn ctx fun c => { c with stat := if v then c.stat ||| (1#64 <<< i) else c.stat &&& ~~~(1#64 <<< i) }

/-- Take a context command, or refuse it (R427). -/
def takeCmd (s : State) (fn ctx op mask : Nat) (drain : Bool) (comp : Nat) (ok : Bool) (k : State → State) : State :=
  if ctx > 63 ∨ comp % 8 ≠ 0 ∨ (s.fnOf fn).ctxCmds.length ≥ 8 ∨ mask > 15 ∨ !ok then s.complete fn ctx 0 comp 0xFFFFFFFFFFFFFFFF
  else
    k (s.modFn fn fun f => { f with ctxCmds := f.ctxCmds ++ [{ op := op, ctx := ctx, mask := mask, drain := drain, comp := comp, small := false }] })

/-- The blocks of a context that satisfy p. -/
def blocksOf (s : State) (fn ctx : Nat) (p : Block → Bool) : List (Nat × Block) := s.blocks.filter fun e => s.ofCtx fn ctx e.2 && p e.2

/-- Hand spans to the dies of a list, in rotation, or keep them under the number 4 until a resume names dies (R427, R435). -/
def hand (g : Grid) (dies l : List Nat) : Grid :=
  if dies.isEmpty then { g with extra := g.extra.set 4 (g.extra.get [] 4 ++ l) }
  else
    { g with extra := ((List.range l.length).zip l).foldl (fun (t : Tab (List Nat)) e =>
        let d := (dies[e.1 % dies.length]?).getD 0
        t.set d (t.get [] d ++ [e.2])) g.extra }

/-- The spans that a die has still to place of a grid, in ascending order, and the grid without them. -/
def takeSpans (s : State) (g : Grid) (d : Nat) : List Nat × Grid :=
  let k := g.next.get 0 d
  let n := s.spansOn g d
  let own := (List.range (n - k)).map fun i => s.spanNumber g d (k + i)
  ((own ++ g.extra.get [] d).mergeSort (· ≤ ·), { g with next := g.next.set d (max n k), extra := g.extra.del d })

/-- A context is saved: every unretired grid of it has its record in the area, and its spans that are not placed wait for the resume (R424, R427).
none where a record does not fit. -/
def saveGrids (s : State) (fn ctx : Nat) : Option State :=
  (s.ctxGrids fn ctx).foldl (fun (a : Option State) g => a.bind fun s =>
    (s.saveRecord (s.gridOf g).die fn ctx 1).map fun (r : State × List Nat × List Byte) =>
      r.1.modGrid g fun x =>
        let y := s.dieIds.foldl (fun (y : List Nat × Grid) d => match s.takeSpans y.2 d with | (l, z) => (y.1 ++ l, z)) ([], x)
        { hand y.2 [] (y.1.mergeSort (· ≤ ·)) with pages := r.2.1, record := r.2.2 }) (some s)

/-- Is a context command finished (R427)? -/
def cmdOver (s : State) (fn : Nat) (c : CtxCmd) : Bool :=
  match c.op with
  | 1 =>
    let left := s.blocksOf fn c.ctx fun b => resident b && b.preempt.isSome
    left.isEmpty && (c.small || (s.blocksOf fn c.ctx resident).isEmpty) && (!c.drain || c.drained)
  | 2 => (s.blocksOf fn c.ctx fun b => (b.life == .saved || b.life == .rolledBack) && b.resumeOn != 0).isEmpty
  | _ => true

/-- Reclaim every bay of a context, on every die (R427, R435). -/
def reclaimCtx (s : State) (fn ctx : Nat) : State :=
  (List.range 256).foldl (fun s i =>
    let x := s.bayOf (i / 64) (i % 64)
    if x.mode == 2 && x.fn == fn && x.ctx == ctx then s.startReclaim (i / 64) (i % 64) else s) s

/-- A save with drain whose blocks stand at their boundaries with everything run to its end, and whose cellar commands have completed: the context's bays
are reclaimed, and its blocks can be saved (R427). -/
def drainTurn (s : State) (fn : Nat) (c : CtxCmd) : State :=
  let asked := s.blocksOf fn c.ctx fun b => resident b && b.preempt.isSome
  if c.op = 1 ∧ c.drain ∧ !c.drained ∧ asked.all (fun e => s.canHalt e.1 true) ∧ s.cells.all (fun e => !(e.2.fn == fn && e.2.ctx == c.ctx)) then
    let s := s.reclaimCtx fn c.ctx
    if s.dies.any fun d => d.2.bays.any fun b => b.2.mode == 2 && b.2.fn == fn && b.2.ctx == c.ctx then s
    else s.modFn fn fun f => { f with ctxCmds := f.ctxCmds.map fun k => if k = c then { c with drained := true } else k }
  else s

/-- The effect of a context command's end, and its completion word. -/
def endCmd (s : State) (fn : Nat) (c : CtxCmd) : State :=
  let s := s.modFn fn fun (f : Fn) => { f with ctxCmds := f.ctxCmds.erase c }
  match c.op with
  | 1 =>
    let s := s.statBit fn c.ctx 3 false
    match (if c.small then none else s.saveGrids fn c.ctx) with
    | some t => (t.statBit fn c.ctx 2 true).complete fn c.ctx 0 c.comp 1
    | none => s.complete fn c.ctx 0 c.comp 2
  | 2 => (s.statBit fn c.ctx 2 false).complete fn c.ctx 0 c.comp 1
  | _ => s.complete fn c.ctx 0 c.comp 1

end State

/-- CONTEXT_SAVE (R427): every block of the context that is restartable, or whose save fits, is asked to halt; where one is not, or the records of the
grids do not fit, the area is too small. -/
def execContextSave (fn ctx : Nat) (drain : Bool) (comp : Nat) (s : State) : Host.Outcome State Fault Refusal :=
  .next (s.takeCmd fn ctx 1 0 drain comp (!s.ctxHeld fn ctx) fun s =>
    let s := (s.statBit fn ctx 3 true).askPreempt .contextSave fun b => s.ofCtx fn ctx b
    let grids := (s.usedPages fn ctx).length + (s.ctxGrids fn ctx).length
    let small := decide (grids > s.areaPages fn ctx) || !(s.blocksOf fn ctx fun b => State.resident b && b.preempt.isNone).isEmpty
    s.modFn fn fun f => { f with ctxCmds := f.ctxCmds.map fun c => if c.op = 1 ∧ c.ctx = ctx then { c with small := small } else c })

namespace State

/-- What the area of a context holds that this module has not saved (R424, R436): read from its first page on. -/
def readWork (s : State) (fn ctx d : Nat) : State × Option SavedWork :=
  match s.readPages d fn ctx (s.areaBase fn ctx) ((List.range (s.areaPages fn ctx)).take 1) 4096 with
  | (s, first) =>
    let n := min (Config.workPages first) (s.areaPages fn ctx)
    match s.readPages d fn ctx (s.areaBase fn ctx) (List.range n) (4096 * n) with
    | (s, bs) => (s, if bs.length = 4096 * n ∧ n ≠ 0 then Config.openWork bs else none)

/-- A grid that a save of another module brings: it is one of the context that resumes it, with nothing of what the other module kept for it. -/
def adoptGrid (s : State) (fn ctx d : Nat) (ids : List Nat) (w : SavedWork) (i : Nat) (g : Grid) : Grid :=
  let p := (g.parent.bind fun k => if k < i then ids[k]? else none)
  let own := w.grids.zipIdx.filter fun x => decide (x.2 > i) && x.1.parent == some i
  let y := { g with
    fn := fn, ctx := ctx, die := d, packet := 0, gang := none, parent := p, children := own.length, order := s.nextId, qsubs := [],
    expander := none, codeCopy := none, passedAt := [], starving := [], failed := false, retired := false, pages := [], record := [], mmio := [],
    extra := [(4, (g.extra.get [] 4).filter fun n => decide (n * g.spanSize < gridSize g))] }
  { y with next := s.dieIds.map fun d => (d, s.spansOn y d) }

/-- A block that it brings. -/
def adoptBlock (ids : List Nat) (d : Nat) (b : Nat × Block) : Block :=
  { b.2 with life := .saved, grid := (ids[b.1]?).getD 0, die := d, cause := 5, preempt := none, resumeOn := 0, pages := [], image := [], writing := [],
             groups := b.2.groups.map fun (g : Nat × Group) => (g.1, openedGroup g.2 g.2) }

/-- Take up the work of a context that another module saved (R424, R427, R436). -/
def adopt (s : State) (fn ctx d : Nat) (w : SavedWork) : State :=
  let ids := (List.range w.grids.length).map fun i => s.nextId + i
  let first := s.nextId + w.grids.length
  let known := w.blocks.filter fun b => decide (b.1 < w.grids.length)
  let grids : Tab Grid := w.grids.zipIdx.map fun (x : Grid × Nat) => (s.nextId + x.2, s.adoptGrid fn ctx d ids w x.2 x.1)
  let s := { s with
    nextId := first + known.length
    grids := grids.foldl (fun (t : Tab Grid) (g : Nat × Grid) => t.set g.1 g.2) s.grids
    blocks := known.zipIdx.foldl (fun (t : Tab Block) (x : (Nat × Block) × Nat) => t.set (first + x.2) (adoptBlock ids d x.1)) s.blocks }
  let s := s.modCtx fn ctx fun c => { c with binds := w.binds }
  w.lost.foldl (fun s x => if s.dieIds.contains x.1 then s.modDie x.1 fun y => { y with lostMask := y.lostMask.set (fn * 64 + ctx) x.2 } else s) s

/-- Has a context work here that was saved, or that an evacuation left without dies (R427, R435)? -/
def hasSaved (s : State) (fn ctx : Nat) : Bool :=
  (s.ctxOf fn ctx).stat.getLsbD 2 ||
    s.blocks.any (fun e => (e.2.life == .saved || e.2.life == .rolledBack) && e.2.resumeOn == 0 && s.ofCtx fn ctx e.2) ||
    s.grids.any fun e => !e.2.retired && e.2.fn == fn && e.2.ctx == ctx && !(e.2.extra.get [] 4).isEmpty

/-- Resume the work of a context on dies: of one that is Saved all that waits, else what has no die yet (R426, R427, R435). -/
def resumeWork (s : State) (fn ctx : Nat) (m : BitVec 4) : State :=
  let all := (s.ctxOf fn ctx).stat.getLsbD 2
  let dies := s.dieIds.filter fun d => m.getLsbD d
  let s := (s.ctxGrids fn ctx).foldl (fun s g =>
    let s := if (s.gridOf g).pages.isEmpty then s else s.gridBack g (dies.headD 0)
    s.modGrid g fun x => hand { x with extra := x.extra.del 4 } dies (x.extra.get [] 4)) s
  { s with blocks := s.blocks.map fun (e : Nat × Block) =>
      (e.1, if (e.2.life == .saved || e.2.life == .rolledBack) && (all || e.2.resumeOn == 0) && s.ofCtx fn ctx e.2 then
        { e.2 with resumeOn := m } else e.2) }

end State

/-- CONTEXT_RESUME (R427): of a context with something saved, here or by another module in its area (R424, R436); mask 0 means every die, and a mask is
read over the dies that the module has (R4; DESIGN CHOICE, log 98). -/
def execContextResume (fn ctx mask comp : Nat) (s : State) : Host.Outcome State Fault Refusal :=
  .next (
    let m : BitVec 4 := (if mask = 0 then 15 else BitVec.ofNat 4 mask) &&& BitVec.ofNat 4 (2 ^ s.dieIds.length - 1)
    let d := (s.dieIds.find? fun d => m.getLsbD d).getD 0
    let (s, w) := if s.hasSaved fn ctx || decide (ctx > 63) then (s, none) else s.readWork fn ctx d
    s.takeCmd fn ctx 2 mask false comp (m != 0 && (s.hasSaved fn ctx || w.isSome)) fun s =>
      (match w with | some w => s.adopt fn ctx d w | none => s).resumeWork fn ctx m)

/-- CONTEXT_STOP (R427). -/
def execContextStop (fn ctx comp : Nat) (s : State) : Host.Outcome State Fault Refusal :=
  .next (s.takeCmd fn ctx 3 0 false comp true fun s =>
    (s.ctxQueues fn ctx).foldl (fun s q =>
      if (s.queueOf q).stopped then s else (s.modQueue q fun x => { x with cmdStopped := true }).stopQueue q) (s.statBit fn ctx 1 true))

/-- CONTEXT_START (R427): it restarts the queues that the stop stopped. -/
def execContextStart (fn ctx comp : Nat) (s : State) : Host.Outcome State Fault Refusal :=
  .next (s.takeCmd fn ctx 4 0 false comp true fun s =>
    (s.ctxQueues fn ctx).foldl (fun s q =>
      if (s.queueOf q).cmdStopped then
        ((s.modQueue q fun x => { x with cmdStopped := false, stopped := x.err }).putStatus q).putWaiting q
      else s) (s.statBit fn ctx 1 false))

/-- CONTEXT_COMMAND_DONE (R427): the oldest command of the context, once it is finished; a save with drain goes on. -/
def execContextCommandDone (fn ctx : Nat) (s : State) : Host.Outcome State Fault Refusal :=
  .next (match (s.fnOf fn).ctxCmds.find? fun c => c.ctx == ctx with
    | some c => if s.cmdOver fn c then s.endCmd fn c else s.drainTurn fn c
    | none => s)

/-- CTXSTAT_CLEAR (R418): writing 1 to Failed. -/
def execCtxstatClear (fn ctx : Nat) (s : State) : Host.Outcome State Fault Refusal :=
  .next (s.modCtx fn ctx fun c => { c with stat := c.stat &&& 0xE })

/-- CONTEXT_TEARDOWN (R89, R314, R346): the context is disabled, or its function torn down. It stays so until the host writes its context
table entry with Valid 1 (log 84). -/
def execContextTeardown (fn ctx : Nat) (s : State) : Host.Outcome State Fault Refusal :=
  .next (
    let s := (s.modCtx fn ctx fun c => { c with torn := true, binds := [] }).freeBays fn (some ctx)
    ((s.ctxGrids fn ctx).foldl (fun s g => s.tearGrid g) s).tearCells fn ctx)

/-! ### Evacuation and migration (R434 to R437) -/

/-- Take the spans that a die has still to place from its grids, and hand them to other dies in rotation, or keep them under the number 4
until a resume names dies (R435). -/
def handSpans (s : State) (d : Nat) (dies : List Nat) : State :=
  { s with grids := s.grids.map fun (e : Nat × Grid) =>
      if e.2.failed || e.2.retired then e
      else
        match s.takeSpans e.2 d with
        | ([], _) => e
        | (l, g) => (e.1, State.hand g dies l) }

/-- The target dies of EVACCTL, of those that the module has. -/
def evacTargets (s : State) (v : Nat) : List Nat := s.dieIds.filter fun d => bitOf v (4 + d)

/-- EVACUATE: a write to EVACCTL (R434, R435). Target is written whatever Go is; Go with Busy 1 starts nothing. -/
def execEvacuate (d v : Nat) (s : State) : Host.Outcome State Fault Refusal :=
  .next (
    let busy := (s.dieOf d).evac.getLsbD 30
    if busy then s.modDie d fun x => { x with evac := BitVec.ofNat 32 (v &&& 0xF0) ||| 0x40000000 }
    else if !bitOf v 31 then s.modDie d fun x => { x with evac := BitVec.ofNat 32 (v &&& 0xF0) }
    else
      let s := s.modDie d fun x => { x with evac := BitVec.ofNat 32 (v &&& 0xF0) ||| 0x40000000 }
      let qs := (s.queues.filter fun (e : Nat × Queue) => e.1 / 1024 == d && e.2.enabled).map (·.1)
      let s := qs.foldl (fun s q => s.stopQueue q) s
      handSpans (s.askPreempt .evacuation fun b => b.die == d) d (evacTargets s v))

/-- EVACUATION_COMPLETE (R435): once no block of the die is resident. The work of the die that waits to be resumed, but for what a save of R427 holds, goes
to the target dies. -/
def execEvacuationComplete (d : Nat) (s : State) : Host.Outcome State Fault Refusal :=
  .next (
    let v := (s.dieOf d).evac
    if !v.getLsbD 30 || s.blocks.any (fun e => State.resident e.2 && e.2.die == d) then s
    else
      let s := (List.range 64).foldl (fun s b => s.startReclaim d b) s
      let t : BitVec 4 := BitVec.ofNat 4 (bits v.toNat 7 4) &&& BitVec.ofNat 4 (2 ^ s.dieIds.length - 1)
      let bs : Tab Block := s.blocks.map fun (e : Nat × Block) =>
        (e.1, if (e.2.life == Life.saved || e.2.life == Life.rolledBack) && e.2.die == d && e.2.cause != 5 then { e.2 with resumeOn := t } else e.2)
      { s with blocks := bs }.modDie d fun x => { x with evac := x.evac &&& 0xF0 })

/-- MIGCTL_QUIESCE: a write to MIGCTL (R437); Outstanding is read-only. -/
def execMigctlQuiesce (d fn v : Nat) (s : State) : Host.Outcome State Fault Refusal :=
  .next (s.modDie d fun x =>
    { x with migctl := x.migctl.set fn ((x.migctl.get fn &&& 0xFFFF0000) ||| BitVec.ofNat 32 (v % 2)) })

end Sys2Proof.Machine
end

