-- ==== Sys2Proof/Machine/Translate.lean ====
section
/-! DEFINITION. Translation, parking and memory configuration (spec/08_memory_hierarchy.md R216 to R232): the ends of walks, the
resolution of parkings, translation commands, MEMCFG, poison. -/

namespace Sys2Proof.Machine

/-- PAGE_WALK_COMPLETE (R221 to R225): a walk that no access waits for fills the TLB of its die. What an access meets is part of the
access. -/
def execPageWalkComplete (die fn ctx va : Nat) (acc : AccType) (s : State) : Host.Outcome State Fault Refusal :=
  .next (s.translate die none fn ctx va acc).1

/-! ### Parkings (R227 to R231) -/

namespace State

/-- The parking that a write to offset 0x880 names: unresolved, of the function, on the die (R229). -/
def namesPark (s : State) (fn die id : Nat) : Bool := s.parks.has id && (s.parkOf id).fn == fn && (s.parkOf id).die == die

/-- A table whose load a split had under way becomes empty, where the load is abandoned (R196). -/
def dropLoad (s : State) (b g e : Nat) : State :=
  match (s.splOf b g e).loads with
  | some (_, k) =>
    (s.modBlk b fun x => { x with act := x.act.set k {} }).modSplOf b g e fun x => { x with loads := none }
  | none => s

/-- Replay (R229, R231, R385): the recorded lanes, the element, the stream's fetch, or the message. -/
def replayPark (s : State) (id : Nat) : State :=
  let p := s.parkOf id
  let held := s.parkedSplit id
  let s := { s with parks := s.parks.del id }
  let s := match held with
    | some (b, g, e) => match p.who with
      | .access _ => s.modSplOf b g e fun x => { x with status := .ready }
      | _ => s.modSplOf b g e fun x => { x with status := .ready, loads := none, replay := if p.lanes = 0 then x.replay else some p.lanes }
    | none => s
  match p.who with
  | .split _ _ _ => s
  | .queue b g q => s.modGrp b g fun x => { x with engPark := x.engPark.del q }
  | .stream b => s.modBlk b fun x => { x with ms := { x.ms with parked := none } }
  | .access id => if s.remotes.has id then s.sendMsg id (s.remoteOf id).pa (s.remoteOf id).fn (s.remoteOf id).req else s

/-- Deliver a parked fault (R229, R231, R260, R273, R385): a split takes it as a synchronous trap at the faulting instruction, that of a message at
the word that sent it (R412). Where the split of a message is gone, its group takes it at the next header. -/
def deliverPark (s : State) (id : Nat) : State :=
  let p := s.parkOf id
  let held := s.parkedSplit id
  let code := if p.poison then 0x07 else 0x05
  let frame := match p.who with | .access m => (s.remoteOf m).frame | _ => none
  let s := { s with parks := s.parks.del id }
  let s := match p.who with
    | .access m => if held.isSome then s.giveUp m else s
    | _ => s
  match held, p.who with
  | some (b, g, e), _ =>
    match frame with
    | some f => (s.dropLoad b g e).takeTrap b g e code (BitVec.ofNat 64 p.va) f
    | none =>
      let (w, s) := s.wordFor b (s.splOf b g e).pc
      let s := s.dropLoad b g e
      s.takeTrap b g e code (BitVec.ofNat 64 p.va) { frameOf (s.splOf b g e) with word := w }
  | none, .queue b g q => (s.modGrp b g fun x => { x with engPark := x.engPark.del q }).engFail b g q code (engInfo q p.va false)
  | none, .stream b => (s.modBlk b fun x => { x with ms := { x.ms with parked := none } }).streamTrap b code (BitVec.ofNat 64 p.va)
  | none, .access m =>
    let r := s.remoteOf m
    if s.remotes.has m then (if s.hasGroup r.blk r.grp then (s.giveUp m).failH r.blk r.grp code (BitVec.ofNat 64 p.va) else s.giveUp m) else s
  | none, .split _ _ _ => s

end State

/-- PARK_REPLAY (R229). -/
def execParkReplay (fn die id : Nat) (s : State) : Host.Outcome State Fault Refusal :=
  .next (if s.namesPark fn die id then s.replayPark id else s)

/-- PARK_DELIVER (R229). -/
def execParkDeliver (fn die id : Nat) (s : State) : Host.Outcome State Fault Refusal :=
  .next (if s.namesPark fn die id then s.deliverPark id else s)

/-! ### Translation commands (R226, R232) -/

namespace State

/-- Drop translations from every TLB of the module. -/
def dropTlb (s : State) (p : Tlb → Bool) : State :=
  let cores : Tab Core := s.cores.map fun (c : Nat × Core) => (c.1, { c.2 with tlb := c.2.tlb.filter fun t => !p t })
  { s with cores := cores, l2tlb := s.l2tlb.map fun (d : Nat × List Tlb) => (d.1, d.2.filter fun t => !p t) }

/-- Take a translation command, or refuse it (R226): ok says that no field holds a reserved value. -/
def takeTr (s : State) (fn die ctx comp : Nat) (ok : Bool) (k : State → State) : State :=
  let mine := (s.fnOf fn).trCmds.filter fun c => c.1 == die
  if !ok || decide (ctx > 63 ∨ comp % 8 ≠ 0 ∨ mine.length ≥ 8) then s.complete fn ctx die comp 0xFFFFFFFFFFFFFFFF
  else (k s).modFn fn fun f => { f with trCmds := f.trCmds ++ [(die, ctx, comp)] }

/-- Copy bits of the dirty bitmap from bit i on to a destination, and clear them (R232); n words of 64 bits. They are cleared before the copy is
written, so that the bit of the frame to which it is written stays set; where it cannot be written they are set again. A page of the bitmap that a cellar
command holds is waited for (R344). -/
def harvest (s : State) (die fn ctx i n dst : Nat) : State :=
  let a := (s.fnBlock fn die).dirtyBase + i / 8
  let old := s.rd a (8 * n)
  let s := if (State.linesOf a (8 * n)).any fun l => s.heldPage (l * 128) then s.ask .wait else s.claim a (8 * n)
  match { s with mem := putBytes s.mem a (toBytes (8 * n) 0) }.devWrite die fn ctx dst old with
  | (s, true) => s
  | (s, false) => { s with mem := putBytes s.mem a (((s.rd a (8 * n)).zip old).map fun x => x.1 ||| x.2) }

/-- The bytes of the dirty bitmap (R232, R215). -/
def bitmapBytes (s : State) : Nat := if s.isExpander then 67125248 else 16842752

/-- The groups of a context's blocks, by block and group. -/
def ctxGroups (s : State) (fn ctx : Nat) : List (Nat × Nat) :=
  (s.blocks.filter fun e => (s.gridOf e.2.grid).fn == fn && (s.gridOf e.2.grid).ctx == ctx).flatMap fun e => e.2.groups.map fun g => (e.1, g.1)

/-- Is an access of a context under way that has been translated: a buffered store, a message (but one that a saved block will send again, R438),
a lane or a sector write at its home, a COPY whose writes wait (R226, R239)? A message that a controller sent counts for every context of its
function. -/
def accessUnderWay (s : State) (fn ctx : Nat) : Bool :=
  let mine := fun (b : Nat) => (s.gridOf (s.blkOf b).grid).fn == fn && (s.gridOf (s.blkOf b).grid).ctx == ctx
  ((s.ctxGroups fn ctx).any fun x => !(s.grpOf x.1 x.2).sb.isEmpty || (s.grpOf x.1 x.2).eng.any fun e => e.2.any engWriting) ||
    (s.remotes.any fun r => r.2.fn == fn && (r.2.far || (r.2.ctx == ctx && !(r.2.retried && !(s.blkOf r.2.blk).live)))) ||
    (s.ops.any fun o => mine o.2.blk && o.2.remote != 0 && (s.blkOf o.2.blk).live) ||
    s.dies.any fun d => d.2.copies.any fun j => j.2.fn == fn && j.2.ctx == ctx && j.2.ended.isSome

/-- Invalidate the translations of a context for n bytes from an address: the TLBs drop them, and messages that used one are translated afresh
where they are sent again (R226, R438). -/
def invalidate (s : State) (fn ctx va n : Nat) : State :=
  let s := s.dropTlb fun t => t.fn == fn && t.ctx == ctx && decide (t.page * t.size < va + n) && decide (va < (t.page + 1) * t.size)
  { s with remotes := s.remotes.map fun (r : Nat × Remote) =>
      (r.1, if r.2.fn = fn ∧ (r.2.far ∨ (r.2.ctx = ctx ∧ va ≤ r.2.va ∧ r.2.va < va + n)) then { r.2 with stale := true } else r.2) }

end State

/-- INVALIDATE_RANGE (R226, operation 0). -/
def execInvalidateRange (fn die ctx va len comp : Nat) (s : State) : Host.Outcome State Fault Refusal :=
  .next (s.takeTr fn die ctx comp (decide (va % 4096 = 0 ∧ len % 4096 = 0)) fun s => s.invalidate fn ctx va len)

/-- INVALIDATE_CONTEXT (R226, operation 1). -/
def execInvalidateContext (fn die ctx comp : Nat) (s : State) : Host.Outcome State Fault Refusal :=
  .next (s.takeTr fn die ctx comp true fun s => s.invalidate fn ctx 0 (2 ^ 64))

/-- HARVEST_DIRTY (R226, operation 2; R232). -/
def execHarvestDirty (fn die ctx bit cnt dst comp : Nat) (s : State) : Host.Outcome State Fault Refusal :=
  .next (s.takeTr fn die ctx comp (decide (bit % 64 = 0 ∧ cnt % 64 = 0 ∧ bit + cnt ≤ 8 * s.bitmapBytes)) fun s =>
    s.harvest die fn ctx bit (cnt / 64) dst)

/-- TRANSLATION_COMMAND_DONE (R226): every access of the context that used an earlier translation has been performed. -/
def execTranslationCommandDone (fn die : Nat) (s : State) : Host.Outcome State Fault Refusal :=
  .next (match (s.fnOf fn).trCmds.find? fun c => c.1 == die with
    | none => s
    | some c =>
      let s := (s.ctxGroups fn c.2.1).foldl (fun s x => s.drain x.1 x.2) s
      if s.accessUnderWay fn c.2.1 then s
      else (s.modFn fn fun f => { f with trCmds := f.trCmds.erase c }).complete fn c.2.1 die c.2.2 1)

/-- The command block of R226, once its completion address has been written: the command that it holds. One with a reserved value is not
performed. -/
def State.trBlock (s : State) (fn die : Nat) (p : Cells 8) : State :=
  let ctx := getNum p 0 2
  let op := getNum p 2 1
  let a := getNum p 8 8
  let n := getNum p 0x10 8
  let comp := getNum p 0x18 8
  let zero := (getBytes p 3 5 ++ getBytes p 0x28 24).all (· == 0)
  let run := fun (o : Host.Outcome State Fault Refusal) => match o with | .next t => t | _ => s
  if !zero then s.takeTr fn die ctx comp false id
  else
    match op with
    | 0 => run (execInvalidateRange fn die ctx a n comp s)
    | 1 => run (execInvalidateContext fn die ctx comp s)
    | 2 => run (execHarvestDirty fn die ctx a n (getNum p 0x20 8) comp s)
    | _ => s.takeTr fn die ctx comp false id

/-! ### MEMCFG (R217, R218) -/

/-- Discard the bytes of memory from an address on. -/
def State.eraseMem (s : State) (a n : Nat) : State :=
  { s with mem := s.mem.filter fun e => decide (e.1 < a) || decide (a + n ≤ e.1)
           poison := s.poison.filter fun p => decide (32 * p < a) || decide (a + n ≤ 32 * p) }

/-- MEMCFG_WRITE (R217): ignored whole where its values or the bays do not allow it, also where the bays in compute mode and the window bays
would be more than 56 (R216; DEDUCED, log 85). The bays that change are zeroed; those that enter window mode are being prepared (R218). -/
def execMemcfgWrite (d v : Nat) (s : State) : Host.Outcome State Fault Refusal :=
  let wb := bits v 21 16
  let cm := bits v 13 8
  let x := s.dieOf d
  let old := x.windowBays
  let entering := (List.range 64).filter fun b => decide (64 - wb ≤ b ∧ b < 64 - old)
  let leaving := (List.range 64).filter fun b => decide (64 - old ≤ b ∧ b < 64 - wb)
  .next (
    if wb > 32 ∨ cm > 56 ∨ wb + cm > 56 ∨ x.memBusy ∨ entering.any (fun b => (x.bays.get {} b).mode == 2) ∨
        (wb > old ∧ ((List.range 64).filter fun b => (x.bays.get {} b).mode == 2).length + wb > 56) then s
    else
      let s := (entering ++ leaving).foldl (fun s b => s.eraseMem (s.winBase + d * 2 ^ 29 + (63 - b) * 2 ^ 24) (2 ^ 24)) s
      s.modDie d fun x =>
        let bays := leaving.foldl (fun (t : Tab Bay) b => t.del b) x.bays
        { x with memcfg := (BitVec.ofNat 32 v &&& 0x013F3F00) ||| (if entering.isEmpty then 0 else 1),
                 preparing := entering,
                 bays := entering.foldl (fun (t : Tab Bay) b => t.set b { mode := 1 }) bays })

/-- WINDOW_BAYS_READY (R218): Busy clears, and accesses to the bays wait no more. -/
def execWindowBaysReady (d : Nat) (s : State) : Host.Outcome State Fault Refusal :=
  .next (s.modDie d fun x => { x with memcfg := x.memcfg &&& ~~~1, preparing := [] })

/-- SECTOR_POISON (R230): the sector of a physical address. An address from 2^52 on, which no memory has, stands for the row of a plane in a subarray
(bits 27:21) of a bay in compute mode, whose parity will fail, or with bit 20 for a residue of the bay (R312; log 16). -/
def execSectorPoison (pa : Nat) (s : State) : Host.Outcome State Fault Refusal :=
  .next (
    if pa < 2 ^ 52 then
      if s.rangeOf pa == .none || s.poison.contains (pa / 32) then s else { s with poison := s.poison ++ [pa / 32] }
    else
      let n := pa - 2 ^ 52
      s.modBay (bits n 16 15) (bits n 14 9) fun b =>
        if bitOf n 20 then { b with resid := true } else { b with bad := b.bad.set (n % 512) (b.bad.get (n % 512) ||| (1 <<< bits n 27 21)) })

end Sys2Proof.Machine
end

