-- ==== Sys2Proof/Machine/HostPort.lean ====
section
/-! DEFINITION. The host port, peers and expanders (spec/14_links.md R378 to R386). -/

namespace Sys2Proof.Machine
namespace State

/-! ### The exposed range (R378, R379) -/

/-- Fields of HDMCFG. -/
def hdmSize (s : State) : Nat := bits s.hdmcfg.toNat 25 16 * 2 ^ 30
def hdmBase (s : State) : Nat := bits s.hdmcfg.toNat 9 0 * 2 ^ 30

/-- The local address that an offset of BAR 0 reaches, where n bytes from it lie in the exposed range. -/
def hdmAt (s : State) (addr n : Nat) : Option Nat :=
  if 2 ^ 39 ≤ addr ∧ addr - 2 ^ 39 + n ≤ s.hdmSize then some (s.hdmBase + (addr - 2 ^ 39)) else none

/-- An inbound write, line by line: each part is performed at its home, or waits there with its order kept (R344, R379, R380). -/
def inbound (s : State) (fn : Nat) : Nat → Nat → List Byte → State
  | 0, _, _ => s
  | k + 1, pa, bs =>
    if bs = [] then s
    else
      let m := 128 - pa % 128
      (s.runHeld { pa := pa, op := .write (bs.take m), who := .inbound, fn := fn }).inbound fn k (pa + m) (bs.drop m)

/-! ### Extents (R383 to R386) -/

/-- Set the state byte of an extent, as a controller of the device writes (R344, R379). -/
def setExtent (s : State) (i v : Nat) : State := (s.homeWrite noFn (s.extentAddr i + 0x12) (toBytes 1 v) .nobody).1
def extentPort (s : State) (i : Nat) : Nat := s.rdNum (s.extentAddr i + 0x10) 1
/-- Does an extent hold part of n bytes? -/
def inExtent (s : State) (i pa n : Nat) : Bool := decide (pa < s.extentBase i + s.extentLen i ∧ s.extentBase i < pa + n)

/-- The groups of every block. -/
def allGroups (s : State) : List (Nat × Nat) := s.blocks.flatMap fun e => e.2.groups.map fun g => (e.1, g.1)

/-- The requests that wait at their homes. -/
def heldReqs (s : State) : List HeldReq := s.snoopHeld ++ s.cells.flatMap fun e => e.2.held

/-- Steps 2 to 4 of R384: once every access that used the extent has been performed, its state is 0. -/
def finishRevoke (s : State) (i : Nat) : State :=
  let s := s.allGroups.foldl (fun s x => s.drain x.1 x.2) s
  if (s.allGroups.any fun x => (s.grpOf x.1 x.2).sb.any fun e => e.writes.any fun w => !w.scr && s.inExtent i w.at_ 1) ||
      s.heldReqs.any fun r => s.inExtent i r.pa (reqBytes r.op) then s
  else { s.setExtent i 0 with revoking := s.revoking.filter (· != i) }

/-- The extents of an expander that the PF has granted or is revoking. -/
def extentsOf (s : State) (x : Nat) : List Nat :=
  (List.range 1024).filter fun i => s.extentPort i == x && decide (s.extentState i = 1 ∨ s.extentState i = 2)

/-- Every context of a function takes ViralContainment once (R386): its first running block does, or, where none runs, the one of it that is resumed
first (DESIGN CHOICE, log 93). A context with no block in being has nothing to take it. -/
def viralFn (s : State) (fn : Nat) : State :=
  (List.range 64).foldl (fun s c =>
    let mine := fun (p : Life → Bool) => s.blocks.find? fun e => p e.2.life && (s.gridOf e.2.grid).fn == fn && (s.gridOf e.2.grid).ctx == c
    match mine (· == .running), mine fun l => l == .carved || l == .saved || l == .rolledBack with
    | some (b, _), _ => s.viralBlock b
    | none, some _ => s.modCtx fn c fun x => { x with viral := true }
    | none, none => s) s

end State

namespace State

/-- The aperture of a function: where the dies' registers differ, that of one of the dies, a free choice (R382). -/
def aperture (s : State) (fn : Nat) : FnBlock × State :=
  let key := fun (d : Nat) => ((s.fnBlock fn d).apBase, (s.fnBlock fn d).apCtx, (s.fnBlock fn d).apFlags)
  if s.dieIds.all fun d => key d == key 0 then (s.fnBlock fn 0, s)
  else
    match s.fresh 2 with
    | (d, s) => (s.fnBlock fn d.toNat, s)

/-- Does an earlier inbound write still wait at its home (R380)? -/
def inboundWaits (s : State) : Bool := s.heldReqs.any fun r => r.who == .inbound

/-- What an inbound access comes behind: the inbound writes that wait (R380). -/
def behindWrites (s : State) : State := if s.inboundWaits then s.ask .wait else s

/-- Read the pieces of a run for a peer: the data, and whether a sector of it is poisoned; none where a piece cannot be reached. A channel or a bay
that makes it wait is waited for (R218, R340), and so is another module (R371, R373). -/
def peerRead (s : State) (fn : Nat) : List (Nat × Nat) → State × Option (List Byte × Bool)
  | [] => (s, some ([], false))
  | p :: t =>
    let rest := fun (s : State) (a : List Byte) (bad : Bool) => match s.peerRead fn t with
      | (s, some (b, bad')) => (s, some (a ++ b, bad || bad'))
      | (s, none) => (s, none)
    match s.reachPa fn p.1 p.2 false with
    | .ok pa => rest (s.tlpRead pa p.2) (s.rd pa p.2) (s.poisoned pa p.2)
    | .wait => (s.ask .wait, none)
    | .remote pa =>
      match s.farDo fn pa (.read p.2) with
      | (s, some (0, bs)) => rest s bs false
      | (s, some (7, _)) => rest s (toBytes p.2 0) true
      | (s, _) => (s, none)
    | _ => (s, none)

/-- Cut a run at the lines of memory: a message names one line (R373). -/
def inLines (l : List (Nat × Nat)) : List (Nat × Nat) :=
  l.flatMap fun p => (linesOf p.1 p.2).map fun i =>
    let a := max p.1 (128 * i)
    (a, min (p.1 + p.2) (128 * i + 128) - a)

/-- An inbound write of the pieces of a run, each at its home, here or in another module: false where a piece cannot be reached. -/
def peerWrite (s : State) (fn : Nat) : List (Nat × Nat) → List Byte → State × Bool
  | [], _ => (s, true)
  | p :: t, bs =>
    match s.reachPa fn p.1 p.2 false with
    | .ok pa => (s.runHeld { pa := pa, op := .write (bs.take p.2), who := .inbound, fn := fn }).peerWrite fn t (bs.drop p.2)
    | .wait => (s.runHeld { pa := s.localPa p.1, op := .write (bs.take p.2), who := .inbound, fn := fn }).peerWrite fn t (bs.drop p.2)
    | .remote pa =>
      match s.behindWrites.farDo fn pa (.write (bs.take p.2)) with
      | (s, some (0, _)) => s.peerWrite fn t (bs.drop p.2)
      | (s, _) => (s, false)
    | _ => (s, false)

end State

/-- PEER_APERTURE_ACCESS (R382, R371): translated in the aperture's context; it never parks. With the aperture off a read is an Unsupported
Request and a write is discarded; an access that cannot be made counts as one that faults (log 18). It keeps behind the inbound writes that
wait (R380). -/
def execPeerApertureAccess (fn off : Nat) (wr : Bool) (bs : List Byte) (s : State) : Host.Outcome State Fault Refusal :=
  let (f, s) := s.aperture fn
  let va := f.apBase + off
  let n := bs.length
  let discard := fun (s : State) => s.event fn 0 0x0A 0 0 0 0 va 0
  .next (
    if !f.apFlags.getLsbD 0 || decide (off + n > 2 ^ 36) then (if wr then s else s.emit (.hostRead va n [] 1))
    else if wr then
      if !f.apFlags.getLsbD 1 then discard s
      else
        match s.translateRun 0 fn f.apCtx .write (n / 4096 + 2) va n with
        | (s, .error _) => discard s
        | (s, .ok l) =>
          match s.peerWrite fn (State.inLines l) bs with
          | (t, true) => t
          | (t, false) => if t.farAsk.isSome then t else discard s
    else
      match s.behindWrites.translateRun 0 fn f.apCtx .read (n / 4096 + 2) va n with
      | (s, .error _) => s.emit (.hostRead va n [] 2)
      | (s, .ok l) =>
        match s.peerRead fn (State.inLines l) with
        | (s, some (data, bad)) => s.emit (.hostRead va n data (if bad then 3 else 0))
        | (s, none) => s.emit (.hostRead va n [] 2))

/-- PORTCFG_WRITE (R378): the role, which takes effect at the next module reset; code 3 is reserved. -/
def execPortcfgWrite (d v : Nat) (s : State) : Host.Outcome State Fault Refusal :=
  .next (if v % 4 = 3 then s else s.modDie d fun x => { x with portcfg := (x.portcfg &&& 0xFFFFFFFC) ||| BitVec.ofNat 32 (v % 4) })

/-- HDMCFG_WRITE (R378). -/
def execHdmcfgWrite (v : Nat) (s : State) : Host.Outcome State Fault Refusal :=
  .next (if bits v 25 16 + bits v 9 0 > 512 then s else { s with hdmcfg := BitVec.ofNat 32 v &&& 0x03FF03FF })

/-- EXTENT_REVOKE (R384). -/
def execExtentRevoke (i : Nat) (s : State) : Host.Outcome State Fault Refusal :=
  .next (
    if i ≥ 1024 then s
    else
      let s := (s.setExtent i 2).dropTlb fun t => decide (t.pa < s.extentBase i + s.extentLen i ∧ s.extentBase i < t.pa + t.size)
      { s with revoking := if s.revoking.contains i then s.revoking else s.revoking ++ [i] }.finishRevoke i)

/-- EXPANDER_VIRAL (R386). -/
def execExpanderViral (x : Nat) (s : State) : Host.Outcome State Fault Refusal :=
  .next (
    let es := s.extentsOf x
    let fns := dedup (es.map fun i => s.extentFn i)
    fns.foldl (fun s f => s.viralFn f) (es.foldl (fun s i => s.setExtent i 3) s))

/-- UPSTREAM_VIRAL (R386): until module reset. -/
def execUpstreamViral (s : State) : Host.Outcome State Fault Refusal := .next { s with upViral := true }

end Sys2Proof.Machine
end

