-- ==== Sys2Proof/Machine/Tasks.lean ====
section
/-! DEFINITION. Retirement (spec/17_retirement_trust.md R440 to R443), task sessions and task packets (spec/14_links.md R387 to
R389), and the mailbox operations that open and close sessions (R447). -/

namespace Sys2Proof.Machine

/-- The bytes of a text, as the hashes take it. -/
def ascii (t : String) : List Byte := t.toList.map fun c => BitVec.ofNat 8 c.toNat

/-! ### Reports (R448) -/

/-- The first 272 bytes of a report, and the report (R448). -/
def reportBody (s : State) (d fn : Nat) (nonce : List Byte) : List Byte :=
  let x := s.dieOf d
  let pad := fun (n : Nat) (bs : List Byte) => (bs ++ toBytes n 0).take n
  toBytes 4 0x52505746 ++ toBytes 2 1 ++ toBytes 1 d ++ toBytes 1 fn ++ toBytes 8 0 ++ pad 64 x.firmware ++ pad 64 x.fuse ++
    pad 64 nonce ++ pad 57 (Config.identityKey d) ++ toBytes 7 0
def reportBytes (s : State) (d fn : Nat) (nonce : List Byte) : List Byte :=
  let b := reportBody s d fn nonce
  b ++ (Config.ed448 d b ++ toBytes 114 0).take 114 ++ toBytes 14 0

namespace State

/-! ### Sessions -/

/-- The open session of an id with an expander, on this side of it. -/
def sessionOf (s : State) (x id : Nat) (remote : Bool) : Option Session :=
  s.sessions.find? fun k => k.expander == x && k.id == id && k.open_ && k.remoteSide == remote

/-- Tags of KMAC256 (R388, R389): 256 bits; a return covers the session in 4 bytes, the sequence number in 8 and the status in 1
(log 19). -/
def taskTag (k : Session) (bs : List Byte) : List Byte := Config.kmac256 k.key bs 32 (ascii "RMS-PW4 task")
def returnBytes (session seq status : Nat) : List Byte := toBytes 4 session ++ toBytes 8 seq ++ toBytes 1 status
def doneTag (k : Session) (seq status : Nat) : List Byte :=
  Config.kmac256 k.key (returnBytes k.id seq status) 32 (ascii "RMS-PW4 done")

/-- The outstanding tasks of some sessions complete without a return (R389). -/
def dropTasks (s : State) (p : TaskOut → Bool) : State :=
  let gone := s.tasks.filter p
  gone.foldl (fun s t =>
    let k := s.pkts.get { die := 0, queue := 0, slot := 0, kind := 0xA } t.pkt
    let x := s.queueOf (1024 * k.die + k.queue)
    ({ s with pkts := s.pkts.del t.pkt }).event x.fn k.die 0x0B k.queue 0 0 x.fn k.slot t.seq)
    { s with tasks := s.tasks.filter fun t => !p t }

/-! ### Retirement -/

/-- Has a block drained, so that it retires (R440)? -/
def drained (s : State) (b : Nat) : Bool :=
  let x := s.blkOf b
  x.life == .running && (!x.hasMs || x.ms.ended) &&
    x.groups.all (fun g => g.2.ended && g.2.eng.isEmpty && g.2.sb.isEmpty && g.2.fails.isEmpty) &&
    s.ops.all (fun o => o.2.blk != b) && s.dies.all fun d => d.2.loft.all fun j => j.blk != b

/-- The queue as which a queue that a grid submitted to stands in the tables now: the same one, or, where that is disabled, an enabled one of the
function and context with its control block (R70, R435). -/
def queueNow (s : State) (q : Nat) : Nat :=
  let x := s.queueOf q
  if x.enabled then q
  else
    match s.queues.find? fun e => e.2.enabled && e.2.fn == x.fn && e.2.ctx == x.ctx && e.2.cb == x.cb with
    | some e => e.1
    | none => q

/-- Does a DISPATCH that a grid submitted stand in the slots of a queue from i up to v, not issued yet? n slots are looked at; a slot that cannot be
read may hold one (R88, R441). -/
def childAhead (s : State) (gid q : Nat) (x : Queue) (v : Nat) : Nat → Nat → Bool
  | 0, _ => false
  | n + 1, i =>
    if i ≥ v then false
    else
      match ((s.asAgent (.grid gid)).devNum (q / 1024) x.fn x.ctx (x.ring + 64 * (i % 2 ^ x.z)) 4).2 with
      | none => true
      | some h =>
        (h % 256 == 1 && (x.submits.find? fun u => decide (u.1 > i)).map (·.2) == some gid) ||
          s.childAhead gid q x v n (i + max 1 ((bits h 31 16 + 3) / 4))

/-- Has every DISPATCH among the slots that the grid's QSUBs passed been issued (R441)? Packets of other types do not hold the grid back. -/
def slotsRead (s : State) (gid : Nat) : Bool :=
  let g := s.gridOf gid
  g.failed || g.qsubs.all fun v =>
    let q := s.queueNow v.1
    let x := s.queueOf q
    !s.childAhead gid q x v.2 (v.2 - x.readIdx) x.readIdx

/-- Are writes of a grid's blocks still to be performed, in another module or at a home (R442)? -/
def gridWrites (s : State) (gid : Nat) : Bool :=
  let mine := fun (b : Nat) => (s.blkOf b).grid == gid
  let held := fun (h : HeldReq) => match h.who with
    | .store b _ _ => mine b
    | .engine b _ _ => mine b
    | _ => false
  s.remotes.any (fun r => !r.2.far && mine r.2.blk) || s.snoopHeld.any held || s.cells.any fun c => c.2.held.any held || c.2.waits.any held

/-- Before its signal is stored, the MMIO windows that blocks of a grid have written are read (R380, R442). -/
def flushGrid (s : State) (gid : Nat) : State :=
  ((s.gridOf gid).mmio.foldl (fun s n => s.emit (.hostRead (s.fab (0xC0 + 16 * n) 8) 0 [] 0)) s).modGrid gid fun g => { g with mmio := [] }

/-- The completion signal (R85, R470); an address of 0 means none (R83). False where it waits at its home (R344); the packet then completes with
it. -/
def signalGrid (s : State) (g : Grid) : State × Bool :=
  if g.signal = 0 then (s, true)
  else
    match s.devStoreClean g.die g.fn g.ctx g.signal (toBytes 8 g.signalValue.toNat) (.signal g.packet g.fn none) with
    | (s, true, now) => (s, now)
    | (s, false, _) => (s.event g.fn g.die 0x10 (g.queue % 1024) 0 1 g.fn g.slot g.signal, true)

/-- A task's grid returns to its sender (R389). -/
def returnTask (s : State) (g : Grid) : State :=
  match g.expander with
  | none => s
  | some (id, seq) =>
    match s.sessions.find? fun k => k.id == id && k.remoteSide with
    | none => s
    | some k =>
      let st := if g.failed then 1 else 0
      { s with sessions := s.sessions.map fun x => if x = k then { x with tasks := x.tasks - 1 } else x }.emit
        (.task k.expander (returnBytes id seq st ++ doneTag k seq st))

/-- A grid whose blocks and children have retired (R441, R442, R79, R389). -/
def retireGrid (s : State) (id : Nat) : State :=
  let g := s.gridOf id
  let (s, now) := (s.flushGrid id).signalGrid g
  let s := s.modGrid id fun x => { x with retired := true }
  let s := { s with pkts := if now then s.pkts.del g.packet else s.pkts }.returnTask g
  let s := match g.parent with
    | some p => s.modGrid p fun x => { x with children := x.children - 1 }
    | none => s
  s.sweepGangs

end State

/-- BLOCK_RETIRE (R440): the MMIO windows that its groups have written are read (R380, R397). -/
def execBlockRetire (b : Nat) (s : State) : Host.Outcome State Fault Refusal :=
  .next (if s.drained b then
      let s := (s.blkOf b).groups.foldl (fun s g => s.flushMmio b g.1) s
      (((s.writeRecords b).profileAdd b).discard b .retired).countRetired b
    else s)

/-- GRID_RETIRE (R441). -/
def execGridRetire (g : Nat) (s : State) : Host.Outcome State Fault Refusal :=
  .next (
    let x := s.gridOf g
    if s.grids.has g && !x.retired && x.blocksLeft == 0 && x.children == 0 && !s.gridWrites g && s.slotsRead g then
      s.farRun (.grid g) x.die fun s => s.retireGrid g
    else s)

/-! ### TASK (R87, R387 to R389) -/

/-- TASK: sent where its session is open and belongs to the queue's function and context. Whether the expander accepts it, or for which
reason it refuses, is a free value: 0 is acceptance. -/
def execTaskPacket (d l : Nat) (s : State) : Host.Outcome State Fault Refusal :=
  .next (s.fwIssue d l 0xA fun s q b =>
    let x := s.queueOf q
    match s.sessionOf (pk b 4 2) (pk b 0x10 4) false with
    | none => s.queueErr q 0x0F 1
    | some k =>
      if k.fn ≠ x.fn ∨ k.ctx ≠ x.ctx then s.queueErr q 0x0F 1
      else
        let s := s.emit (.task k.expander (b.take 0xE0 ++ State.taskTag k (b.take 0xE0)))
        let (a, s) := s.fresh 3
        if a ≠ 0 then s.queueErr q 0x0F a.toNat
        else
          let (id, s) := s.newId
          let p : Pkt := { die := d, queue := q % 1024, slot := State.errorSlot x, kind := 0xA }
          let t : TaskOut := { pkt := id, expander := k.expander, session := k.id, seq := pk b 8 8 }
          let s : State := { s with pkts := s.pkts.set id p, tasks := s.tasks ++ [t] }
          s.passPacket d l q 4)

/-- TASK_RETURN (R389): a return whose tag does not match is discarded. -/
def execTaskReturn (session seq status : Nat) (tag : List Byte) (s : State) : Host.Outcome State Fault Refusal :=
  .next (match s.tasks.find? fun t => t.session == session && t.seq == seq with
    | none => s
    | some t =>
      match s.sessionOf t.expander session false with
      | none => s
      | some k =>
        if tag = State.doneTag k seq status then { s with tasks := s.tasks.erase t, pkts := s.pkts.del t.pkt } else s)

namespace State

/-- The reason for which an expander refuses a task (R388): none where it accepts, with the grid. A task has no queue: check 11 of its DISPATCH is
made against the highest class, 7 (DESIGN CHOICE, log 79). -/
def taskCheck (s : State) (sender : Nat) (b : List Byte) : State × Except Nat (Session × Grid) :=
  let e := (b.drop 0x20).take 128
  match s.sessionOf sender (pk b 0x10 4) true with
  | none => (s, .error 1)
  | some k =>
    if (b.drop 0xE0).take 32 ≠ taskTag k (b.take 0xE0) then (s, .error 2)
    else if pk b 8 8 ≤ k.lastSeq then (s, .error 3)
    else if pkType e ≠ 1 ∨ !lenOk 1 (pkLen e) ∨ pkFlag e 9 then (s, .error 4)
    else
      match s.devRead 0 k.fn k.ctx (pk e 8 8) 128 with
      | (s, none) => (s, .error 5)
      | (s, some h) =>
        match s.devRead 0 k.fn k.ctx (pk e 8 8 + pk h 8 4) (pk h 0xC 4) with
        | (s, none) => (s, .error 5)
        | (s, some code) =>
          if Config.shake256 code 64 ≠ (b.drop 0xA0).take 64 then (s, .error 5)
          else
            match s.checkLaunchAs { fn := k.fn, ctx := k.ctx, codeCopy := some (putBytes [] 0 code),
                                    expander := some (k.id, pk b 8 8) } 0x70 none e with
            | (s, .error _) => (s, .error 6)
            | (s, .ok g) => if k.tasks ≥ 256 then (s, .error 7) else (s, .ok (k, g))

end State

/-- TASK_RECEIVE (R388): an expander checks a task and launches its grid, at depth 0 in the session's context, or refuses it; it answers with
the session, the sequence number and the reason. While its distributor holds 256 grids the task waits (R93). A compute module has no task
window. -/
def execTaskReceive (sender : Nat) (b : List Byte) (s : State) : Host.Outcome State Fault Refusal :=
  .next (
    if !s.isExpander || s.fullOn 0 then s
    else
      let answer := fun (s : State) (r : Nat) => s.emit (.task sender (State.returnBytes (pk b 0x10 4) (pk b 8 8) r))
      match s.taskCheck sender b with
      | (s, .error r) => answer s r
      | (s, .ok (k, g)) =>
        let s := { s with sessions := s.sessions.map fun x => if x = k then { x with lastSeq := pk b 8 8, tasks := x.tasks + 1 } else x }
        let (id, s) := s.newId
        answer { s with grids := s.grids.set id { g with order := id } } 0)

/-- EXPANDER_LOST (R386, R389): its extents are lost, and its outstanding tasks complete. From 8 on, which numbers no expander, 8 + i says that
entry i of the extent table has been released by force (log 87). -/
def execExpanderLost (x : Nat) (s : State) : Host.Outcome State Fault Refusal :=
  .next (if x ≥ 8 then (if x - 8 < 1024 then s.setExtent (x - 8) 3 else s)
    else ((s.extentsOf x).foldl (fun s i => s.setExtent i 3) s).dropTasks fun t => t.expander == x)

/-! ### The mailbox (R447) -/

namespace State

/-- A mailbox command ends: its response and 1 are written in context 0 of the function, or, where it fails, all ones (R447). -/
def mailEnd (s : State) (fn d resp comp : Nat) : Option (List Byte) → State
  | none => s.complete fn 0 d comp 0xFFFFFFFFFFFFFFFF
  | some bs =>
    match s.devWrite d fn 0 resp bs with
    | (s, true) => s.complete fn 0 d comp 1
    | (s, false) => s.complete fn 0 d comp 0xFFFFFFFFFFFFFFFF

/-- A mailbox command op that reads n bytes of request is performed by the security processor of its die: the outstanding one of the function, or one
that comes while none is outstanding; a second one is refused (R447). -/
def mail (s : State) (op fn d req n resp comp : Nat) (k : State → List Byte → State × Option (List Byte)) : State :=
  let out := (s.fnBlock fn d).mail
  let s := if out == some (op, req, resp, comp) then s.modFnBlock fn d fun f => { f with mail := none } else s
  if comp % 8 ≠ 0 || (out.isSome && out != some (op, req, resp, comp)) then s.mailEnd fn d resp comp none
  else
    match s.devRead d fn 0 req n with
    | (s, none) => s.mailEnd fn d resp comp none
    | (s, some bs) =>
      match k s bs with
      | (s, r) => s.mailEnd fn d resp comp r

end State

/-- This side's report over the other side's nonce, and its ephemeral public key, in the exchange of a time (R387). -/
def ownReport (s : State) (d t : Nat) : List Byte := reportBytes s d 0 (Config.peerNonce t)
def ownKey (t : Nat) : List Byte := Config.x448Public (Config.ownSecret t)

/-- The transcript hash of an exchange and its key (R387); the compute module's report and public key stand first (DESIGN CHOICE, log 89). -/
def transcript (s : State) (d t : Nat) : List Byte :=
  let pair := fun (a b : List Byte) => if s.isExpander then b ++ a else a ++ b
  Config.shake256 (pair (ownReport s d t) (Config.peerReport t) ++ pair (ownKey t) (Config.peerKey t)) 64
def taskKey (s : State) (d t : Nat) : List Byte :=
  Config.kmac256 (Config.x448 (Config.ownSecret t) (Config.peerKey t)) (transcript s d t) 32 (ascii "RMS-PW4 task key")

/-- Does what the other side sends pass this side's checks (R387, R448): its report is signed with its identity key over this side's nonce, and so
is its ephemeral public key? -/
def peerPasses (t : Nat) : Bool :=
  let r := Config.peerReport t
  let id := (r.drop 0xD0).take 57
  (r.drop 0x90).take 64 == (Config.ownNonce t ++ toBytes 64 0).take 64 && Config.ed448Verifies id ((r.drop 0x110).take 114) (r.take 0x110) &&
    Config.ed448Verifies id (Config.peerKeySig t) (Config.peerKey t)

/-- Is the measurement of the other side's report, its firmware digest (DESIGN CHOICE, log 89), among n listed digests? -/
def listed (n t : Nat) (digests : List Byte) : Bool :=
  (List.range n).any fun i => (digests.drop (64 * i)).take 64 == ((Config.peerReport t).drop 0x10).take 64

/-- OPEN_TASK_SESSION (R387, R447): by the PF only. This side sends its nonce, its report and its signed public key; the other side's report must be
signed over that nonce and name a listed measurement. The other side's report and key, whether it accepts, and the id that the expander assigns,
which is not 0, are not the module's to decide. A module of the expander fitting records its own side (log 20). -/
def execOpenTaskSession (fn d req resp comp : Nat) (s : State) : Host.Outcome State Fault Refusal :=
  .next (if fn ≠ 0 then s.mailEnd fn d resp comp none
    else s.mail 2 fn d req 16 resp comp fun s b =>
      match s.devNum d fn 0 (pk b 8 8) 4 with
      | (s, none) => (s, none)
      | (s, some n) =>
        match s.devRead d fn 0 (pk b 8 8 + 4) (64 * n) with
        | (s, none) => (s, none)
        | (s, some l) =>
          let t := s.tick
          let (v, s) := s.fresh 32
          let id := if v = 0 then 1 else v.toNat
          let x := pk b 0 2
          let sent := ((s.emit (.exchange x (Config.ownNonce t))).emit (.exchange x (ownReport s d t))).emit
            (.exchange x (ownKey t ++ (Config.ed448 d (ownKey t) ++ toBytes 114 0).take 114))
          if pk b 5 1 > 63 ∨ pk b 4 1 > 63 ∨ pk b 2 2 > 63 ∨ pk b 6 2 > 63 then (s, none)
          else if !peerPasses t ∨ !Config.peerAccepts t ∨ !listed n t l ∨
              (s.sessions.filter fun k => k.expander == x && k.open_).length ≥ 256 then (sent, none)
          else
            let e := s.isExpander
            let k : Session := { id := id, expander := x, key := taskKey s d t, tasks := 0, fn := if e then pk b 4 1 else pk b 5 1,
                                 ctx := if e then pk b 6 2 else pk b 2 2, lastSeq := 0, open_ := true, remoteSide := e }
            ({ sent with sessions := s.sessions ++ [k] }, some (toBytes 4 id)))

/-- CLOSE_TASK_SESSION (R389, R447): by the PF only. -/
def execCloseTaskSession (fn d req resp comp : Nat) (s : State) : Host.Outcome State Fault Refusal :=
  .next (if fn ≠ 0 then s.mailEnd fn d resp comp none
    else s.mail 3 fn d req 4 resp comp fun s b =>
      let id := pk b 0 4
      if s.sessions.any fun k => k.id == id && k.open_ then
        ({ s with sessions := s.sessions.filter fun k => k.id != id }.dropTasks fun t => t.session == id, some [])
      else (s, none))

end Sys2Proof.Machine
end

