-- ==== Sys2Proof/Machine/Boot.lean ====
section
/-! DEFINITION. Boot and measurement, attestation, power and management (spec/17_retirement_trust.md R444 to R450), and the registers
that a write only stores (R8, R64, R69, R111, R220, R349, R370, R382, R425). -/

namespace Sys2Proof.Machine
namespace State

/-! ### Boot (R444 to R446, R378) -/

/-- The enabled cores of a die, and those that its boot test disables (R445, R446). -/
def enabledCount (s : State) (d : Nat) : Nat := (s.coresOf d).length
def failedCount (s : State) (d : Nat) : Nat := ((List.range 96).filter fun c => !s.corePasses d c).length

/-- A die after the five steps of R444: its digests, BOOTSTAT after the lanes of its cores have been tested (R445), and its port with its
role. -/
def bootDie (s : State) (d role : Nat) : Die :=
  { fuse := Config.shake256 (ascii "RMS-PW4 fuses" ++ Config.fuseBytes d) 64
    firmware := Config.shake256 (ascii "RMS-PW4 firmware" ++ Config.firmwareImage d) 64
    bootstat := BitVec.ofNat 32 (2 ^ 31 + 2 ^ 30 + s.enabledCount d % 128 * 2 ^ 23 + s.failedCount d % 128 * 2 ^ 16 + 0xB0)
    portcfg := BitVec.ofNat 32 (role + (if role = 0 then 0 else (Config.portGen d).toNat * 16) +
      (if role = 2 ∨ role = 1 ∧ s.cxl then 128 else 0)) }

/-- The roles that the ports have after a reset (R378); the expander has one port (R1). -/
def roleAfter (s : State) (d : Nat) : Nat :=
  let role := fun k => (s.dieOf k).portcfg.toNat % 4
  if ((List.range (if s.isExpander then 1 else 4)).filter fun k => role k == 1).length = 1 then role d else if d = 0 then 1 else 0

end State

/-- MODULE_RESET (R444): every register returns to its reset value and the dies boot; memory keeps its contents, but for the Loft windows
(R218). -/
def execModuleReset (s : State) : Host.Outcome State Fault Refusal :=
  let dies := List.range (if s.isExpander then 1 else 4)
  let t : State := { s with boots := s.boots + 1 }
  .next ({ State.reset with
    boots := t.boots
    lpddr := s.lpddr, mem := s.mem, poison := s.poison, outbox := s.outbox, agenda := s.agenda, tick := s.tick, nextId := s.nextId,
    clock := s.clock, dies := dies.map fun d => (d, t.bootDie d (s.roleAfter d)) }.eraseMem s.winBase s.winBytes)

/-! ### Attestation (R447, R448) -/

/-- REPORT (R447, operation 1). -/
def execReport (fn d req resp comp : Nat) (s : State) : Host.Outcome State Fault Refusal :=
  .next (s.mail 1 fn d req 64 resp comp fun s b => (s, some (reportBytes s d fn b)))

/-- READ_CERTIFICATE (R447, operation 4). -/
def execReadCertificate (fn d req resp comp : Nat) (s : State) : Host.Outcome State Fault Refusal :=
  .next (s.mail 4 fn d req 0 resp comp fun s _ => (s, some ((Config.certificate d).take 2048)))

/-! ### Power and management (R449, R450) -/

/-- POWER_SAMPLE (R449): at the end of each 1 ms sample. -/
def execPowerSample (watts amps : Nat) (s : State) : Host.Outcome State Fault Refusal :=
  let cap := s.pwrctl.toNat % 65536
  let dies := s.dies.map fun (e : Nat × Die) =>
    let d := e.2
    let full := { d with effMax := 8 }.govMax
    let eff := min d.effMax full
    (e.1, { d with effMax := if watts > cap then max d.govFloor (eff - 1) else if watts < cap then min full (eff + 1) else eff })
  .next { s with dies := dies, pwrstat := BitVec.ofNat 32 (watts % 65536 * 65536 + amps % 65536) }

/-- PWRCTL_WRITE (R449): a value outside 1000 to 6000 is ignored. -/
def execPwrctlWrite (v : Nat) (s : State) : Host.Outcome State Fault Refusal :=
  .next (if 1000 ≤ v % 65536 ∧ v % 65536 ≤ 6000 then { s with pwrctl := BitVec.ofNat 32 (v % 65536) } else s)

/-- MANAGEMENT_MESSAGE (R450): it changes no register, context, queue or memory. What answers an MCTP control message the spec does not state
(log 92). -/
def execManagementMessage (r : MgmtReq) (s : State) : Host.Outcome State Fault Refusal :=
  .next (match r with
    | .bootStat d => s.emit (.mgmt (toBytes 4 (s.dieOf d).bootstat.toNat))
    | .pwrStat => s.emit (.mgmt (toBytes 4 s.pwrstat.toNat))
    | .linkStat d l => s.emit (.mgmt (toBytes 4 (s.linkWord d l).toNat))
    | .temperature d => { s with tick := s.tick + 1 }.emit (.mgmt (toBytes 4 (Config.temperature d s.tick).toNat))
    | .report d nonce => s.emit (.mgmt (reportBytes s d 0 nonce))
    | .control bs => { s with tick := s.tick + 1 }.emit (.mgmt (Config.mctpControl s.tick bs)))

/-! ### Registers without behaviour of their own (R8) -/

namespace State

/-- A write to ShadowStatus (R69): the enable bit, and the mismatch bit, which a 1 clears. Setting enable is QUEUE_ENABLE. -/
def writeShadow (s : State) (d q v : Nat) : State :=
  let k := 1024 * (d % 4) + q % 1024
  let s := if bitOf v 1 then (s.shadowBit k 1 false).modQueue k fun x => { x with mismatch := false } else s
  if bitOf v 0 then s else (s.shadowBit k 0 false).modQueue k fun x => { x with enabled := false, waiting := none }

/-- The bits of a byte of the fabric block, and of a Pantry configuration block, that are not reserved (R349, R370); a reserved one is ignored and
reads 0 (R9). -/
def fabricMask (o : Nat) : Byte :=
  if o < 0x1C then 0xFF else if o < 0x40 then 0 else if o < 0xC0 then (if o % 2 = 0 then 0xFF else 1) else if o < 0x140 then 0xFF else 0
def pantryMask (o : Nat) : Byte :=
  if o = 0x18 then 3 else if o = 0x1C then 1 else if o = 0x88 then 0x9F else if o < 0x1C ∨ (0x20 ≤ o ∧ o < 0x88) then 0xFF else 0

/-- Write a byte of a Pantry configuration block; when Enable is set, the counts are 0 (R350). -/
def writePantry (f : Fn) (o v : Nat) : Fn :=
  let old := f.pantry.get o
  let b := BitVec.ofNat 8 v &&& pantryMask o
  let f := { f with pantry := f.pantry.set o b }
  if o = 0x1C ∧ b = 1 ∧ old = 0 then settleRecl { f with inUse := [] } else f

/-- The value a register holds after a write: its RW fields (R8). The registers that only rows of their own write, or nothing writes, keep
their values. A MaxBays above 56 is no value of R220, and the write is ignored whole; of an aperture's context the low six bits are kept (DESIGN
CHOICE, log 99). -/
def writeReg (s : State) (r : RegName) (v : Nat) : State :=
  match r with
  | .shadowBase d => s.modDie d fun x => { x with shadowBase := v }
  | .shadowStatus d q => s.writeShadow d q v
  | .profileBase fn d => s.modFn fn fun f => { f with profile := f.profile.set d (v / 4096 * 4096) }
  | .ctxTable fn d => s.modFnBlock fn d fun f => { f with ctxTable := v / 64 * 64 }
  | .dirtyBase fn d => s.modFnBlock fn d fun f => { f with dirtyBase := v / 4096 * 4096 }
  | .fnFlags fn d => s.modFnBlock fn d fun f => { f with flags := BitVec.ofNat 8 (v % 2) }
  | .maxBays fn d => if v > 56 then s else s.modFnBlock fn d fun f => { f with maxBays := v }
  | .ctxSave fn c => s.modCtx fn c fun x => { x with save := BitVec.ofNat 64 (v % 2 ^ 56) }
  | .pantryByte fn o => s.modFn fn fun f => writePantry f o v
  | .fabricByte o => { s with fabric := s.fabric.set o (BitVec.ofNat 8 v &&& fabricMask o) }
  | .apertureBase fn d => s.modFnBlock fn d fun f => { f with apBase := v / 2 ^ 21 * 2 ^ 21 }
  | .apertureCtx fn d => s.modFnBlock fn d fun f => { f with apCtx := v % 64 }
  | .apertureFlags fn d => s.modFnBlock fn d fun f => { f with apFlags := BitVec.ofNat 8 (v % 4) }
  | .vectors fn => if 1 ≤ v ∧ v ≤ 64 then s.modFn fn fun f => { f with vectors := v } else s
  | .evqcfg _ _ | .evRead _ _ | .evWrite _ _ | .evLost _ _ | .ctxStat _ _ | .command _ _ _ | .inUse _ _ | .logWrite _ | .pantryRecl _
  | .gangres _ _ | .govctl _ | .memcfg _ | .loftOwn _ _ | .loftRecl _ | .cellframe _ _ | .linkstat _ _ | .linkctl _ _ | .portcfg _
  | .hdmcfg | .evacctl _ | .migctl _ _ | .bootstat _ | .pwrctl | .pwrstat | .readOnly _ => s

end State

/-- REGISTER_WRITE (R8). -/
def execRegisterWrite (r : RegName) (v : Nat) (s : State) : Host.Outcome State Fault Refusal := .next (s.writeReg r v)

end Sys2Proof.Machine
end

