-- ==== Sys2Proof/Machine/Matrix.lean ====
section
/-! DEFINITION. The matrix stream (spec/10_matrix_engine.md R269 to R302; spec/02_number_formats.md R54 to R61;
spec/01_describing_work.md R34, R35; spec/04_placement.md R109). -/

namespace Sys2Proof.Machine

/-! ### Issuing a matrix instruction (R270, R273) -/

/-- What the body of a matrix instruction ends with; the stream's PC stands at the next word. -/
inductive MsEff where
  | ok (s : State)
  | trap (code : Nat) (info : DWord) (s : State)
  | bad (code : Nat)                      -- the word and its offset as TRAPINFO (R274)
  | wait (s : State)                      -- the instruction does not issue yet (R109, R297)

/-- Issue a matrix instruction of the focused block: a trap halts the stream at it (R273). -/
def issueMs (i : Instr) (body : State → MsEff) (s : State) : Host.Outcome State Fault Refusal :=
  let b := s.focus.blk
  let back := fun (t : State) => t.modM fun m => { m with pc := s.ms.pc, left := s.ms.left, old := s.ms.old }
  .next (match body (s.modM fun m => { m with pc := m.pc + 4, left := m.left - 1, waiting := false, old := [] }) with
    | .ok t => (t.modM fun m => { m with heldOnce := false }).tickCore b
    | .trap c info t => (((back t).modM fun m => { m with heldOnce := false }).streamTrap b c info).tickCore b
    | .bad c => ((s.modM fun m => { m with heldOnce := false }).streamTrap b c (wordInfo (encode i) s.ms.pc)).tickCore b
    | .wait t => (back t).modM fun m => { m with waiting := true })

/-- TRAPINFO with PC in bits 55:32 (R274); the instruction's own PC is 4 behind the stream's. -/
def msInfo (s : State) (low : Nat) : DWord := BitVec.ofNat 64 (low + (s.ms.pc - 4) % 2 ^ 24 * 2 ^ 32)

/-- ScratchRange of the stream: the failing check and the descriptor register. -/
def msRange (s : State) (chk d : Nat) : MsEff := .trap 0x04 (msInfo s (chk + 16 * d)) s

/-! ### Formats (R38, R271) -/

/-- Bits of an element of a format code; FP19 counts its container. -/
def codeBits (f : Nat) : Nat :=
  if f = 0 then 64 else if f ≤ 3 then 32 else if f ≤ 5 ∨ f ≥ 14 then 16 else if f = 10 then 4 else 8

/-- The exact value of an element of a format code. -/
def codeValue (f x : Nat) : Num :=
  match f with
  | 0 => decodeF fp64 x
  | 1 | 2 => decodeF fp32 x
  | 3 => decodeF fp19 (x / 2 ^ 13)
  | 4 => decodeF fp16 x
  | 5 => decodeF bf16 x
  | 6 | 8 => decodeF e4m3 x
  | 7 | 9 => decodeF e5m2 x
  | 10 => decodeF e2m1 x
  | 11 => scaleN (-6) (intN (signed 8 x))
  | 12 => intN (signed 8 x)
  | 13 => intN x
  | 14 => intN (signed 16 x)
  | _ => intN x

def isMx (f : Nat) : Bool := decide (8 ≤ f ∧ f ≤ 11)
/-- The cycles of an MMA, its c, and whether it needs a wide accumulator (R271). -/
def mmaCycles (f : Nat) : Nat :=
  if f = 0 then 32 else if f ≤ 2 then 18 else if f = 5 then 4 else if f = 3 ∨ f = 4 ∨ f ≥ 14 then 16 else 8
def mmaC (f : Nat) : Int :=
  if f = 0 then 3 else if f ≤ 2 then 4 else if f ≤ 5 ∨ f ≥ 14 then 5 else if f = 10 then 2 else if isMx f then 1 else 6
def needsWide (f : Nat) : Bool := decide (f ≤ 2)

/-- Is the pair of an A and a B format legal (R280)? -/
def pairLegal (a b : Nat) : Bool :=
  a == b || (decide (1 ≤ a ∧ a ≤ 2) && decide (1 ≤ b ∧ b ≤ 2)) ||
    [(6, 7), (7, 6), (8, 9), (9, 8), (12, 13), (13, 12), (14, 15), (15, 14)].contains (a, b)

/-! ### Base-and-extent records (R34, R35, R278, R279) -/

/-- An effective record: the operand of a matrix instruction. -/
structure Rec where
  reg : Nat
  offset : Nat
  extent : Nat
  stride : Nat
  rows : Nat
  fmt : Nat
  scaled : Bool
  scaleOff : Nat
  rsv : Bool

/-- The tile index of a descriptor operand (R278). -/
def tileIndex (s : State) (x : Bool) (z : BitVec 6) : Nat :=
  if x then (s.ms.k.get (z.toNat / 8)).toNat % 2 ^ 16 + z.toNat % 8 else z.toNat

/-- The effective record of a descriptor operand. -/
def effRec (s : State) (x : Bool) (d : BitVec 4) (z : BitVec 6) : Rec :=
  let v := (s.ms.d.get d.toNat).toNat
  let j := tileIndex s x z
  let rows := if bits v 87 80 = 0 then 256 else bits v 87 80
  let f := bits v 91 88
  { reg := d.toNat, offset := bits v 31 0 + j * bits v 63 32, extent := bits v 63 32, stride := bits v 79 64, rows := rows,
    fmt := f, scaled := bitOf v 92, scaleOff := bits v 119 96 + j * rows * 16 / codeBits f,
    rsv := bits v 95 93 ≠ 0 || bits v 127 120 ≠ 0 }

/-- The checks of R35 on an effective record: a reserved bit, or the number of the first check that fails. -/
def recCheck (s : State) (r : Rec) : Option (Option Nat) :=
  let a := s.scrBytes s.focus.blk
  let region := r.rows * 16 / codeBits r.fmt
  if r.rsv then some none
  else if r.offset ≥ 2 ^ 32 ∨ r.offset + r.extent > a then some (some 1)
  else if r.rows * r.stride > r.extent then some (some 2)
  else if r.offset % 64 ≠ 0 ∨ r.stride % 64 ≠ 0 ∨ r.stride < 64 then some (some 3)
  else if r.scaled && (decide (r.scaleOff + region > a) ||
      decide (r.scaleOff < r.offset + r.extent ∧ r.offset < r.scaleOff + region)) then some (some 4)
  else none

/-- Check a record and go on. -/
def withRec (s : State) (r : Rec) (f : State → MsEff) : MsEff :=
  match recCheck s r with
  | some none => .bad 0x02
  | some (some n) => msRange s n r.reg
  | none => f s

/-- R = min(Rows, 64). -/
def Rec.used (r : Rec) : Nat := min r.rows 64

/-- Does the Scaled bit fit the format (R280)? -/
def Rec.scaledOk (r : Rec) : Bool := r.scaled == isMx r.fmt

/-- The bytes that a buffered write to scratch of the focused block leaves there. -/
def bufferedBytes (s : State) (w : SbWrite) : List Byte :=
  match w.rmw with
  | none => w.bytes
  | some (o, k, vs) => toBytes (k / 8) (State.rmwAll o k (s.scrNum s.focus.blk w.at_ (k / 8)) vs)

/-- The byte that a store or an update still in a buffer of the block's groups writes at an offset of scratch. -/
def bufferedByte (s : State) (a : Nat) : Option Byte :=
  s.blk.groups.findSome? fun g => g.2.sb.findSome? fun e => e.writes.findSome? fun w =>
    if w.scr && decide (w.at_ ≤ a) then (bufferedBytes s w)[a - w.at_]? else none

/-- A matrix word writes scratch of the focused block: the bytes that stood there are kept until the stream's next word issues (R277). -/
def msWrite (a : Nat) (bs : List Byte) (s : State) : State :=
  (s.modM fun m => { m with old := m.old ++ ((List.range bs.length).zip (s.scr s.focus.blk a bs.length)).map fun x => (a + x.1, x.2) }).setScr
    s.focus.blk a bs

/-- Bytes of scratch of the focused block, as a matrix word reads them: of a byte that a group is writing, either value, byte by byte (R277). -/
def scrAt (s : State) (a n : Nat) : List Byte :=
  if s.blk.groups.all fun g => g.2.sb.isEmpty then s.scr s.focus.blk a n
  else (List.range n).map fun i =>
    match bufferedByte s (a + i) with
    | some v => if Config.raced s.clock (a + i) then v else s.blk.scratch.get (a + i)
    | none => s.blk.scratch.get (a + i)

/-- Elements of a run of bytes under a format code. -/
def elemsOf (f : Nat) (bs : List Byte) : List Num :=
  let w := codeBits f
  let v := ofBytes bs
  (List.range (8 * bs.length / w)).map fun i => codeValue f (v / 2 ^ (w * i) % 2 ^ w)

/-! ### Accumulators (R54 to R61) -/

/-- Is the pair of a tile wide? -/
def Stream.isWide (m : Stream) (n : Nat) : Bool := m.wide.contains (n / 2)
/-- Does the instruction name the odd tile of a wide pair (R285)? -/
def Stream.oddWide (m : Stream) (n : Nat) : Bool := m.isWide n && n % 2 == 1
/-- W of a tile. -/
def Stream.width (m : Stream) (n : Nat) : Nat := if m.isWide n then 128 else 64
def Stream.acc (m : Stream) (n : Nat) : Acc := m.a.get {} n

/-- A row as ACCZ leaves it, and row i of an accumulator. -/
def emptyRow (w : Nat) : Row := { h := w - 1 }
def Acc.row (a : Acc) (w i : Nat) : Row := a.rows.get (emptyRow w) i
def Row.at_ (r : Row) (j : Nat) : Int := (r.m[j]?).getD 0
def Row.tag (r : Row) (j : Nat) : Nat := (r.tags[j]?).getD 0
/-- The 64 mantissas and tags. -/
def Row.ms (r : Row) : List Int := (List.range 64).map r.at_
def Row.ts (r : Row) : List Nat := (List.range 64).map r.tag

/-- RedundantSignBits (R54). -/
def signBits (w : Nat) (m : Int) : Nat :=
  let x := if m < 0 then (-m - 1).toNat else m.toNat
  w - 1 - (if x = 0 then 0 else Nat.log2 x + 1)
/-- H: the least over the row. -/
def rowH (w : Nat) (ms : List Int) : Nat := ms.foldl (fun h m => min h (signBits w m)) (w - 1)
/-- RoundHalfEven(m / 2^k). -/
def halfEven (m : Int) (k : Nat) : Int := roundInt 0 (decide (m < 0)) m.natAbs (-(k : Int))
/-- The nearer bound of the W-bit range, and whether it was needed. -/
def clampW (w : Nat) (m : Int) : Int × Bool :=
  let hi : Int := (2 ^ (w - 1) : Nat) - 1
  let lo : Int := -((2 ^ (w - 1) : Nat) : Int)
  if m > hi then (hi, true) else if m < lo then (lo, true) else (m, false)

/-- 2^b rounded up to an integer: enough to compare with integers. -/
def pow2up (b : Int) : Nat := if b ≥ 0 then 2 ^ b.toNat else 1

/-- The smallest multiple of 4, at least k, that PrepareRow accepts. -/
def findShift (a : Nat) (b : Int) (lim : Nat) : Nat → Nat → Nat
  | 0, k => k
  | n + 1, k =>
    let ak := if a = 0 then 0 else max (a / 2 ^ k) 1
    if ak + pow2up (b - k) ≤ lim then k else findShift a b lim n (k + 4)

/-- PrepareRow (R58): ts are the row's finite nonzero terms. The new row, and whether it renormalised. E is not bounded here: where an
ACCADD would put it outside s16 it goes on unbounded, and ACCRDW writes its low 16 bits (DESIGN CHOICE, log 68). -/
def prepareRow (r : Row) (ts : List Num) (w g : Nat) (c : Int) : Row × Bool :=
  match ts with
  | [] => (r, false)
  | t :: rest =>
    let l := rest.foldl (fun m x => max m (ilog2 x)) (ilog2 t)
    if r.pinned then (r, false)
    else
      let a := if r.unset then 0 else 2 ^ (w - 1 - r.h)
      let r := if r.unset then { r with e := l - ((w : Int) - 2 - g), unset := false } else r
      let b := l + 1 - r.e + c
      if a + pow2up b ≤ 2 ^ (w - 1) then (r, false)
      else
        let k := findShift a b (2 ^ (w - 1 - g)) 20000 4
        ({ r with e := r.e + k, m := r.ms.map fun m => halfEven m k }, true)

/-- TruncTowardZero(t / 2^E). -/
def truncAt (e : Int) : Num → Int
  | .fin n m x => roundInt 1 n m (x - e)
  | _ => 0

/-- A tag met by a term (R57). Tags: 0 none, 1 +Inf, 2 −Inf, 3 NaN. -/
def tagJoin (a b : Nat) : Nat := if a = 0 then b else if b = 0 ∨ a = b then a else 3
def tagOf : Num → Nat
  | .nan => 3
  | .inf n => if n then 2 else 1
  | .fin _ _ _ => 0

/-- Is the term finite and nonzero? -/
def isTerm : Num → Bool
  | .fin _ m _ => m != 0
  | _ => false

/-- Add the terms of each element to a row that has been prepared: sums, clamped in a pinned row, and the number of elements
clamped (R58, R60). -/
def addTerms (r : Row) (w : Nat) (terms : List (List Num)) : Row × Nat :=
  let sums := (r.ms.zip terms).map fun p => p.2.foldl (fun m t => m + truncAt r.e t) p.1
  let res := if r.pinned then sums.map (clampW w) else sums.map fun m => (m, false)
  let ms := res.map (·.1)
  let tags := (r.ts.zip terms).map fun p => p.2.foldl (fun t x => tagJoin t (tagOf x)) p.1
  ({ r with m := ms, tags := tags, h := rowH w ms }, (res.filter (·.2)).length)

/-- One row of an MMA or of an addition: the row, whether it renormalised, the clamped elements. -/
def accumulate (r : Row) (w g : Nat) (c : Int) (terms : List (List Num)) : Row × Bool × Nat :=
  let (r, ren) := prepareRow r (terms.flatten.filter isTerm) w g c
  let (r, n) := addTerms r w terms
  (r, ren, n)

/-- Store an accumulator. -/
def State.setAcc (s : State) (n : Nat) (a : Acc) : State := s.modM fun m => { m with a := m.a.set n a }

/-- Change every row of an accumulator, counting renormalisations and overflows. -/
def mapRows (s : State) (n : Nat) (f : Nat → Row → Row × Bool × Nat) : State × Nat :=
  let a := s.ms.acc n
  let w := s.ms.width n
  let rs := (List.range 64).map fun i => f i (a.row w i)
  let ov := rs.foldl (fun k r => k + r.2.2) 0
  let ev := (rs.filter fun r => r.2.1).length
  (s.setAcc n { rows := (List.range 64).zip (rs.map (·.1)), events := a.events + BitVec.ofNat 32 ev,
                overflows := a.overflows + BitVec.ofNat 32 ov }, ov)

/-- The trap of an overflow, when MODE.TrapAcc is 1 in some split of the receiving group (R273). -/
def accTrap (n : Nat) (r : State × Nat) : MsEff :=
  let s := r.1
  let armed := match s.blk.groups.find? (fun (e : Nat × Group) => !e.2.ended) with
    | some (_, g) => g.splits.any fun e => e.2.status != .empty && e.2.trapAcc
    | none => false
  if r.2 ≠ 0 && armed then .trap 0x0B (msInfo s (if s.ms.isWide n then n / 2 * 2 else n)) s else .ok s

/-! ### Operands of MMA (R279, R280, R286 to R288) -/

/-- The rows of a tile as elements with their scale codes; under FP19 the rows of tiles n and n + 1. -/
def tileRows (m : Stream) (n : Nat) : List (List Num × List Nat) :=
  let t := m.t.get {} n
  let f := t.tag.toNat
  (List.range 64).map fun r =>
    let a := elemsOf f (getBytes t.data (64 * r) 64)
    let a := if f = 3 then a ++ elemsOf f (getBytes (m.t.get {} (n + 1)).data (64 * r) 64) else a
    (a, (getBytes t.scales (4 * r) 4).map (·.toNat))

/-- The bytes of a B row. -/
def bRowBytes (f : Nat) : Nat := if f = 3 then 128 else 64

/-- Read B into the latch: rows of 128 bytes apart, scales of 4 bytes apart; a row at or above R is zero with scale 127. -/
def readB (s : State) (r : Rec) : Latch :=
  let n := bRowBytes r.fmt
  let sc := 16 / codeBits r.fmt
  let rows : Cells 8 := (List.range r.used).foldl (fun m i => putBytes m (128 * i) (scrAt s (r.offset + i * r.stride) n)) []
  let scales : Cells 8 := if r.scaled then (List.range 64).foldl (fun m i =>
      putBytes m (4 * i) (if i < r.used then scrAt s (r.scaleOff + i * sc) sc else List.replicate 4 127)) [] else []
  { rows := rows, scales := scales, fmt := BitVec.ofNat 4 r.fmt, valid := true }

def latchRows (l : Latch) : List (List Num × List Nat) :=
  let f := l.fmt.toNat
  (List.range 64).map fun r =>
    (elemsOf f (getBytes l.rows (128 * r) (bRowBytes f)), (getBytes l.scales (4 * r) 4).map (·.toNat))

/-- Split of R56: RNE to an 8-bit significand, with BF16's subnormal range and no largest exponent. -/
def split8 : Num → Num
  | .fin n m e =>
    if m = 0 then .fin n 0 0
    else
      let u := max ((Nat.log2 m : Int) + e - 7) (-133)
      .fin n (roundAt 0 n m (e - u)) u
  | x => x
/-- a1, a2, a3 of a finite value. -/
def split3 (a : Num) : Num × Num × Num :=
  let a1 := split8 a
  let d := sumN 0 [a, a1.neg]
  let a2 := split8 d
  (a1, a2, split8 (sumN 0 [d, a2.neg]))
/-- One FP32X3 term (R56). -/
def term3 (a b : Num) : Num :=
  if a.isNaN || a.isInf || b.isNaN || b.isInf then mulN a b
  else
    let (a1, a2, a3) := split3 a
    let (b1, b2, b3) := split3 b
    sumN 0 [mulN a1 b1, mulN a1 b2, mulN a2 b1, mulN a1 b3, mulN a3 b1, mulN a2 b2]

/-- The dot product of block i of 32 elements under its scales. -/
def mxTerm (a b : List Num × List Nat) (i : Nat) : Num :=
  let sa := (a.2[i]?).getD 0
  let sb := (b.2[i]?).getD 0
  if sa = 255 ∨ sb = 255 then .nan
  else
    let p := ((a.1.drop (32 * i)).take 32).zip ((b.1.drop (32 * i)).take 32)
    scaleN ((sa : Int) - 127 + sb - 127) (sumN 0 (p.map fun q => mulN q.1 q.2))

/-- The terms of one element (R55). -/
def termsOf (f : Nat) (a b : List Num × List Nat) : List Num :=
  if isMx f then (List.range (a.1.length / 32)).map (mxTerm a b)
  else if decide (1 ≤ f ∧ f ≤ 2) then (a.1.zip b.1).map fun p => term3 p.1 p.2
  else (a.1.zip b.1).map fun p => mulN p.1 p.2

/-- MMA of a tile by the latch's operand into an accumulator (R287). -/
def mmaRun (s : State) (n t : Nat) (l : Latch) : State × Nat :=
  let f := (s.ms.t.get {} t).tag.toNat
  let bs := latchRows l
  let as_ := tileRows s.ms t
  mapRows s n fun i r =>
    let a := (as_[i]?).getD ([], [])
    accumulate r (s.ms.width n) s.ms.g (mmaC f) (bs.map fun b => termsOf f a b)

/-- Checks 2 to 4 of R287 on the accumulator, the tile and the B format. -/
def mmaOk (s : State) (n t bf : Nat) : Bool :=
  let m := s.ms
  let tl := m.t.get {} t
  let f := tl.tag.toNat
  let nxt := m.t.get {} (t + 1)
  !m.oddWide n && tl.valid && (!needsWide f || m.isWide n) && pairLegal f bf &&
    (f != 3 || (t % 2 == 0 && nxt.valid && nxt.tag == 3))

/-- The governor (R109): an MMA that could issue takes credit, or is held and counted once. -/
def governed (s : State) (cycles : Nat) (run : State → MsEff) : MsEff :=
  let c := s.coreOf s.blk.die s.blk.core
  if c.credit > 0 then
    run (s.modCore s.blk.die s.blk.core fun c => { c with credit := c.credit - cycles, issuedWin := true })
  else
    let s := s.modCore s.blk.die s.blk.core fun c => { c with heldWin := true }
    .wait (if s.ms.heldOnce then s
           else s.modB fun b => { b with msHeld := b.msHeld + 1, ms := { b.ms with heldOnce := true } })

def execMma (n : BitVec 3) (m : BitVec 4) (x : Bool) (d : BitVec 4) (z : BitVec 6) (s : State) :
    Host.Outcome State Fault Refusal :=
  issueMs (.mma n m x d z) (fun s =>
    let r := effRec s x d z
    let f := (s.ms.t.get {} m.toNat).tag.toNat
    if !mmaOk s n.toNat m.toNat r.fmt || !r.scaledOk || decide (r.stride < bRowBytes r.fmt) then .bad 0x01
    else withRec s r fun s => governed s (mmaCycles f) fun s =>
      let l := readB s r
      let u := mmaRun s n.toNat m.toNat l
      accTrap n.toNat (u.1.modM fun y => { y with latch := l }, u.2)) s

def execMmaR (n : BitVec 3) (m : BitVec 4) (s : State) : Host.Outcome State Fault Refusal :=
  issueMs (.mmaR n m) (fun s =>
    let l := s.ms.latch
    let f := (s.ms.t.get {} m.toNat).tag.toNat
    if !l.valid || !mmaOk s n.toNat m.toNat l.fmt.toNat then .bad 0x01
    else governed s (mmaCycles f) fun s => accTrap n.toNat (mmaRun s n.toNat m.toNat l)) s

/-! ### LDT (R286) -/

def execLdtTile (n : BitVec 4) (x : Bool) (d : BitVec 4) (z : BitVec 6) (s : State) : Host.Outcome State Fault Refusal :=
  issueMs (.ldtTile n x d z) (fun s =>
    let r := effRec s x d z
    if decide (r.stride < 64) || !r.scaledOk then .bad 0x01
    else withRec s r fun s =>
      let sc := 16 / codeBits r.fmt
      let data : Cells 8 := (List.range r.used).foldl (fun m i => putBytes m (64 * i) (scrAt s (r.offset + i * r.stride) 64)) []
      let scales : Cells 8 := if r.scaled then (List.range 64).foldl (fun m i =>
        putBytes m (4 * i) (if i < r.used then scrAt s (r.scaleOff + i * sc) sc else List.replicate 4 127)) [] else []
      let t : Tile := { data := data, scales := scales, tag := BitVec.ofNat 4 r.fmt, valid := true }
      .ok (s.modM fun m => { m with t := m.t.set n.toNat t })) s

/-- A run of n bytes at 64 × imm16, or ScratchRange with check 0. -/
def atOffset (s : State) (i : BitVec 16) (n : Nat) (f : Nat → MsEff) : MsEff :=
  let o := 64 * i.toNat
  if o + n > s.scrBytes s.focus.blk then msRange s 0 0 else f o

def execLdtDescriptors (n : BitVec 2) (i : BitVec 16) (s : State) : Host.Outcome State Fault Refusal :=
  issueMs (.ldtDescriptors n i) (fun s => atOffset s i 64 fun o =>
    .ok (s.modM fun m => { m with d := (List.range 4).foldl (fun (c : Cells 128) j =>
      c.set (4 * n.toNat + j) (BitVec.ofNat 128 (ofBytes (scrAt s (o + 16 * j) 16)))) m.d })) s

def execLdtCounters (i : BitVec 16) (s : State) : Host.Outcome State Fault Refusal :=
  issueMs (.ldtCounters i) (fun s => atOffset s i 64 fun o =>
    .ok (s.modM fun m => { m with k := (List.range 8).foldl (fun (c : Cells 32) j =>
      c.set j (BitVec.ofNat 32 (ofBytes (scrAt s (o + 4 * j) 4)))) m.k })) s

/-! ### Managing accumulators (R289 to R292) -/

/-- An instruction that names one accumulator (R285). -/
def onAcc (n : BitVec 3) (f : Nat → State → MsEff) (s : State) : MsEff := if s.ms.oddWide n.toNat then .bad 0x01 else f n.toNat s

def execAccz (n : BitVec 3) (s : State) : Host.Outcome State Fault Refusal :=
  issueMs (.accz n) (onAcc n fun n s => .ok (s.setAcc n { s.ms.acc n with rows := [] })) s

/-- One row of ACCPIN. -/
def pinRow (w : Nat) (e : Int) (r : Row) : Row × Bool × Nat :=
  if r.unset then ({ r with e := e, unset := false, m := [], pinned := true, h := w - 1 }, false, 0)
  else
    let ms := if r.e = e then r.ms.map fun m => (m, false)
      else r.ms.map fun m => clampW w (roundInt 0 (decide (m < 0)) m.natAbs (r.e - e))
    let vs := ms.map (·.1)
    ({ r with e := e, m := vs, pinned := true, h := rowH w vs }, false, (ms.filter (·.2)).length)

def execAccpin (n : BitVec 3) (e : BitVec 16) (s : State) : Host.Outcome State Fault Refusal :=
  issueMs (.accpin n e) (onAcc n fun n s => accTrap n (mapRows s n fun _ r => pinRow (s.ms.width n) e.toInt r)) s

def execAccunpin (n : BitVec 3) (s : State) : Host.Outcome State Fault Refusal :=
  issueMs (.accunpin n) (onAcc n fun n s => .ok (mapRows s n fun _ r => ({ r with pinned := false }, false, 0)).1) s

/-- One row of ACCREN. -/
def renRow (w g : Nat) (r : Row) : Row × Bool × Nat :=
  if r.unset || r.pinned then (r, false, 0)
  else if r.ms.all (· == 0) && r.ts.all (· == 0) then (emptyRow w, false, 0)
  else if r.h < g then
    let k := 4 * ((g - r.h + 3) / 4)
    let ms := r.ms.map fun m => halfEven m k
    ({ r with e := r.e + k, m := ms, h := rowH w ms }, true, 0)
  else if r.h ≥ g + 4 then
    let k := min ((r.h - g) / 4) ((r.e + 32768).toNat / 4) * 4
    let ms := r.ms.map fun m => m * ((2 ^ k : Nat) : Int)
    ({ r with e := r.e - k, m := ms, h := rowH w ms }, k != 0, 0)
  else (r, false, 0)

def execAccren (n : BitVec 3) (s : State) : Host.Outcome State Fault Refusal :=
  issueMs (.accren n) (onAcc n fun n s => .ok (mapRows s n fun _ r => renRow (s.ms.width n) s.ms.g r).1) s

/-- One row of ACCADD with its source row (R292). Where a renormalisation would take E above 32767, the exact sums decide. -/
def addRow (w g : Nat) (src dst : Row) : Row × Bool × Nat :=
  if src.unset then (dst, false, 0)
  else
    let terms := src.ms.map fun m => Num.ofInt false m src.e
    let tags := (dst.ts.zip src.ts).map fun p => tagJoin p.1 p.2
    let (p, ren) := prepareRow dst (terms.filter isTerm) w g 0
    if ren && decide (p.e > 32767) then
      let res := (List.range 64).map fun j =>
        let t := (tags[j]?).getD 0
        if dst.tag j ≠ 0 ∨ src.tag j ≠ 0 then (dst.at_ j, t, 0)
        else
          let sum := sumN 0 [Num.ofInt false (dst.at_ j) dst.e, (terms[j]?).getD (.fin false 0 0)]
          if sum.isZero then (0, 0, 0) else (dst.at_ j, if sum.neg? then 2 else 1, 1)
      let ms := res.map (·.1)
      ({ dst with m := ms, tags := res.map (·.2.1), h := rowH w ms }, false, res.foldl (fun n r => n + r.2.2) 0)
    else
      let (q, n) := addTerms p w (terms.map fun t => [t])
      ({ q with tags := tags }, ren, n)

/-- Add source rows, read in full, into an accumulator. -/
def accAdd (s : State) (n : Nat) (src : Nat → Row) : MsEff :=
  let rows := (List.range 64).map src
  accTrap n (mapRows s n fun i r => addRow (s.ms.width n) s.ms.g ((rows[i]?).getD {}) r)

def execAccaddAcc (n m : BitVec 3) (s : State) : Host.Outcome State Fault Refusal :=
  issueMs (.accaddAcc n m) (onAcc n fun n s =>
    if s.ms.oddWide m.toNat then .bad 0x01
    else accAdd s n ((s.ms.acc m.toNat).row (s.ms.width m.toNat))) s

/-- A raw row in the layout of R294. -/
def rawRow (w : Nat) (bs : List Byte) : Row :=
  let v := ofBytes bs
  { e := signed 16 (v % 2 ^ 16), unset := bitOf v 16,
    tags := (List.range 64).map fun j => v / 2 ^ (128 + 2 * j) % 4,
    m := (List.range 64).map fun j => signed w (v / 2 ^ (512 + w * j) % 2 ^ w) }

/-- The bytes of a raw row: 576 or 1088. -/
def rawBytes (w : Nat) : Nat := 64 + 8 * w

def execAccaddScratch (n : BitVec 3) (x : Bool) (d : BitVec 4) (z : BitVec 6) (s : State) : Host.Outcome State Fault Refusal :=
  issueMs (.accaddScratch n x d z) (onAcc n fun n s =>
    let r := effRec s x d z
    let w := s.ms.width n
    if r.scaled || decide (r.stride < rawBytes w) then .bad 0x01
    else withRec s r fun s =>
      accAdd s n fun i => if i < r.used then rawRow w (scrAt s (r.offset + i * r.stride) (rawBytes w)) else {}) s

/-! ### Reading accumulators out (R61, R293 to R295) -/

/-- The value of an element before rounding: tag, mantissa and tensor scale (R61). That an exactly zero product is +0, whatever the
signs of m and S, is a DESIGN CHOICE (log 67). -/
def readElem (m : Stream) (r : Row) (j : Nat) : Num :=
  match r.tag j with
  | 3 => .nan
  | 1 => .inf false
  | 2 => .inf true
  | _ =>
    if r.unset then .fin false 0 0
    else
      match decodeF fp32 m.scale.toNat with
      | .nan => .nan
      | .inf n => if r.at_ j = 0 then .nan else .inf (n != decide (r.at_ j < 0))
      | sc => 
        match mulN (Num.ofInt false (r.at_ j) r.e) sc with
        | .fin _ 0 _ => .fin false 0 0
        | y => y

/-- The float format of a target code; FP32X3 is written as FP32. -/
def codeFmt : Nat → Fmt
  | 0 => fp64
  | 3 => fp19
  | 4 => fp16
  | 5 => bf16
  | 6 => e4m3
  | 7 => e5m2
  | _ => fp32

/-- The bit pattern of an element for a target that is not an MX format (R293). -/
def outElem (m : Stream) (f : Nat) (v : Num) : Nat :=
  if f ≥ 12 then
    let t := f - 12
    match v with
    | .nan => 0
    | .inf n => wrap (tyOf t).w (if n then minT t else maxT t)
    | .fin n k e => wrap (tyOf t).w (sat t (roundInt m.rm n k e))
  else roundTo (codeFmt f) m.rm m.sat v * (if f = 3 then 2 ^ 13 else 1)

/-- Pack codes of w bits into bytes. -/
def packBits (w : Nat) (vs : List Nat) : List Byte :=
  toBytes (w * vs.length / 8) ((vs.zip (List.range vs.length)).foldl (fun a p => a + p.1 % 2 ^ w * 2 ^ (w * p.2)) 0)

/-- MX format of a code 8 to 11. -/
def mxOf : Nat → MxFmt
  | 8 => .mxe4m3
  | 9 => .mxe5m2
  | 10 => .mxe2m1
  | _ => .mxint8

/-- The bytes and, for an MX target, the two scale bytes of a row. -/
def outRow (m : Stream) (r : Row) : List Byte × List Byte :=
  let f := m.fmt.toNat
  let vs := (List.range 64).map (readElem m r)
  if isMx f then
    let vs := if (List.range 64).any fun j => r.tag j ≠ 0 then vs.map fun _ => Num.nan else vs
    let a := quantise (mxOf f) m.rm (vs.take 32)
    let b := quantise (mxOf f) m.rm (vs.drop 32)
    (packBits (codeBits f) (a.2 ++ b.2), [BitVec.ofNat 8 a.1, BitVec.ofNat 8 b.1])
  else (packBits (codeBits f) (vs.map (outElem m f)), [])

def execAccrd (n : BitVec 3) (x : Bool) (d : BitVec 4) (z : BitVec 6) (s : State) : Host.Outcome State Fault Refusal :=
  issueMs (.accrd n x d z) (onAcc n fun n s =>
    let r := effRec s x d z
    if r.fmt ≠ s.ms.fmt.toNat || !r.scaledOk || decide (r.stride < 64 * codeBits r.fmt / 8) then .bad 0x01
    else withRec s r fun s =>
      let a := s.ms.acc n
      let w := s.ms.width n
      .ok ((List.range r.used).foldl (fun t i =>
        let o := outRow s.ms (a.row w i)
        msWrite (r.scaleOff + 2 * i) o.2 (msWrite (r.offset + i * r.stride) o.1 t)) s)) s

/-- The raw bytes of a row (R294). -/
def rawOut (wide : Bool) (r : Row) : List Byte :=
  let w := if wide then 128 else 64
  toBytes 2 (wrap 16 r.e) ++ toBytes 1 ((if r.unset then 1 else 0) + (if r.pinned then 2 else 0) + (if wide then 4 else 0)) ++
    toBytes 1 r.h ++ toBytes 12 0 ++ packBits 2 r.ts ++ toBytes 32 0 ++ packBits w (r.ms.map (wrap w))

def execAccrdw (n : BitVec 3) (x : Bool) (d : BitVec 4) (z : BitVec 6) (s : State) : Host.Outcome State Fault Refusal :=
  issueMs (.accrdw n x d z) (onAcc n fun n s =>
    let r := effRec s x d z
    let w := s.ms.width n
    if r.scaled || decide (r.stride < rawBytes w) then .bad 0x01
    else withRec s r fun s =>
      .ok ((List.range r.used).foldl (fun t i =>
        msWrite (r.offset + i * r.stride) (rawOut (s.ms.isWide n) ((s.ms.acc n).row w i)) t) s)) s

/-- The record of ACCSTAT (R295). -/
def statBytes (m : Stream) (n : Nat) : List Byte :=
  let a := m.acc n
  let rows := (List.range 64).map (a.row (m.width n))
  let set := rows.filter fun r => !r.unset
  let es := set.map (·.e)
  let least := match es with | [] => 0 | e :: t => t.foldl min e
  let most := match es with | [] => 0 | e :: t => t.foldl max e
  let tags := rows.flatMap Row.ts
  toBytes 4 a.events.toNat ++ toBytes 4 a.overflows.toNat ++ toBytes 1 (if m.isWide n then 1 else 0) ++
    toBytes 1 set.length ++ toBytes 1 (rows.filter (·.pinned)).length ++ toBytes 1 (set.foldl (fun h r => min h r.h) 127) ++
    toBytes 2 (wrap 16 least) ++ toBytes 2 (wrap 16 most) ++ toBytes 2 (tags.filter (· == 3)).length ++
    toBytes 2 (tags.filter fun t => t == 1 || t == 2).length ++ toBytes 44 0

def execAccstat (c : Bool) (n : BitVec 3) (i : BitVec 16) (s : State) : Host.Outcome State Fault Refusal :=
  issueMs (.accstat c n i) (onAcc n fun n s => atOffset s i 64 fun o =>
    let s := msWrite o (statBytes s.ms n) s
    .ok (if c then s.setAcc n { s.ms.acc n with events := 0, overflows := 0 } else s)) s

/-! ### Barriers, loops, configuration, end (R296 to R302) -/

/-- TRAPINFO of the stream's BarrierMisuse (R274). -/
def msMisuse (s : State) (n : Nat) : MsEff := .trap 0x17 (msInfo s n) s

def execMsbar (n : BitVec 4) (s : State) : Host.Outcome State Fault Refusal :=
  issueMs (.msbar n) (fun s =>
    match s.numArrive s.focus.blk n.toNat 1 with
    | .ok t => .ok t
    | .error _ => msMisuse s n.toNat) s

/-- MSWAIT (R297); when every group of the block has ended, it raises BarrierMisuse in place of waiting (R275). -/
def execMswait (n : BitVec 4) (s : State) : Host.Outcome State Fault Refusal :=
  issueMs (.mswait n) (fun s =>
    let seen := s.ms.seen.get n.toNat
    if (s.blk.bars.get {} n.toNat).phase ≠ seen then
      .ok (s.modM fun m => { m with seen := m.seen.set n.toNat (seen + 1) })
    else if s.blk.groups.all fun g => g.2.ended then msMisuse s n.toNat
    else .wait s) s

def execMsloop (k : BitVec 3) (o : BitVec 21) (s : State) : Host.Outcome State Fault Refusal :=
  issueMs (.msloop k o) (fun s =>
    let v := s.ms.k.get k.toNat
    let i : BitVec 16 := v.truncate 16 + 1
    let lim : BitVec 16 := (v >>> 16).truncate 16
    if i.ult lim then
      .ok (s.modM fun m => { m with k := m.k.set k.toNat (lim ++ i), pc := target m.hdr o })
    else .ok (s.modM fun m => { m with k := m.k.set k.toNat (lim ++ (0 : BitVec 16)) })) s

def execMsjmp (o : BitVec 24) (s : State) : Host.Outcome State Fault Refusal :=
  issueMs (.msjmp o) (fun s => .ok (s.modM fun m => { m with pc := target m.hdr o })) s

/-- MSRESTART (R300): the commit of the restart-live k and d registers. -/
def execMsrestart (n : BitVec 16) (s : State) : Host.Outcome State Fault Refusal :=
  issueMs (.msrestart n) (fun s =>
    if !s.grid.restartable then .ok s
    else
      let mask := s.grid.msMask
      let k := ((List.range 8).filter fun i => mask.getLsbD i).foldl (fun (c : Cells 32) i => c.set i (s.ms.k.get i)) []
      let d := ((List.range 16).filter fun i => mask.getLsbD (i + 8)).foldl (fun (c : Cells 128) i => c.set i (s.ms.d.get i)) []
      .ok ((s.modM fun m => { m with commit := some (n.toNat, k, d) }).commitDone s.focus.blk n.toNat)) s

def execMscfgGuard (g : BitVec 5) (s : State) : Host.Outcome State Fault Refusal :=
  issueMs (.mscfgGuard g) (fun s => .ok (s.modM fun m => { m with g := g.toNat })) s

def execMscfgRound (f : BitVec 4) (st : Bool) (r : BitVec 3) (s : State) : Host.Outcome State Fault Refusal :=
  issueMs (.mscfgRound f st r) (fun s => .ok (s.modM fun m => { m with fmt := f, rm := r.toNat, sat := st })) s

def execMscfgScale (i : BitVec 16) (s : State) : Host.Outcome State Fault Refusal :=
  issueMs (.mscfgScale i) (fun s => atOffset s i 4 fun o =>
    .ok (s.modM fun m => { m with scale := BitVec.ofNat 32 (ofBytes (scrAt s o 4)) })) s

/-- MSCFG.wide (R301): the pair's mode; both tiles are cleared, with their counts. -/
def execMscfgWide (n : BitVec 2) (w : Bool) (s : State) : Host.Outcome State Fault Refusal :=
  issueMs (.mscfgWide n w) (fun s => .ok (s.modM fun m =>
    let rest := m.wide.filter fun j => j != n.toNat
    { m with wide := if w then n.toNat :: rest else rest, a := (m.a.del (2 * n.toNat)).del (2 * n.toNat + 1) })) s

/-- MSEND (R275, R302). -/
def execMsend (s : State) : Host.Outcome State Fault Refusal :=
  issueMs .msend (fun s => .ok (s.modM fun m => { m with ended := true })) s

end Sys2Proof.Machine
end

