-- ==== Sys2Proof/Machine/Cellar.lean ====
section
/-! DEFINITION. The copy engine (spec/03_launching.md R87) and the cellar units (spec/12_cellar_units.md R327 to R348). -/

namespace Sys2Proof.Machine

/-! ### COPY (R87) -/

namespace State

/-- The bytes of a piece that can be read at a physical address, up to the first poisoned sector: none where it cannot be reached (R87, R371). A
channel that computes and a bay that is being prepared are waited for (R218, R340). -/
def copyRead (s : State) (fn pa n : Nat) : State × Option (List Byte) :=
  match s.reachPa fn pa n true with
  | .ok pa => (s.tlpRead pa n, some (s.rd pa n))
  | .poison =>
    let at_ := s.localPa pa
    (s, some (s.rd at_ (((List.range n).find? fun i => s.poisoned (at_ + i) 1).getD n)))
  | .wait => (s.ask .wait, none)
  | .remote pa => s.farRead fn (n / 128 + 2) pa n
  | _ => (s, none)

/-- Write bytes of a piece for a COPY packet: false where it cannot be reached (R218, R340, R344, R371, R379). -/
def copyWrite (s : State) (fn pkt pa : Nat) (bs : List Byte) : State × Bool :=
  match s.reachPa fn pa bs.length false with
  | .ok pa => ((s.homeWrites fn (.copy pkt) (bs.length / 128 + 2) pa bs).1, true)
  | .remote pa => s.farWrite fn (bs.length / 128 + 2) pa bs
  | .wait => (s.ask .wait, false)
  | _ => (s, false)

/-- Copy the bytes of one row, piece by piece, until a byte cannot be copied: the state, and whether all were. -/
def copyRow (s : State) (d fn ctx pkt : Nat) : Nat → Nat → Nat → Nat → State × Bool
  | 0, _, _, _ => (s, true)
  | k + 1, src, dst, n =>
    if n = 0 then (s, true)
    else
      let m := min n (min (4096 - src % 4096) (4096 - dst % 4096))
      match s.translate d none fn ctx src .read with
      | (s, .error _) => (s, false)
      | (s, .ok pa) =>
        match s.translate d none fn ctx dst .write with
        | (s, .error _) => (s, false)
        | (s, .ok pb) =>
          match s.copyRead fn pa m with
          | (s, none) => (s, false)
          | (s, some bs) =>
            match s.copyWrite fn pkt pb bs with
            | (s, false) => (s, false)
            | (s, true) => if bs.length < m then (s, false) else s.copyRow d fn ctx pkt k (src + m) (dst + m) (n - m)

/-- Copy the rows in ascending order. -/
def copyRows (s : State) (d : Nat) (j : CopyJob) : Nat → Nat → State × Bool
  | 0, _ => (s, true)
  | n + 1, i =>
    match s.copyRow d j.fn j.ctx j.pkt (j.bytes / 2048 + 4) (wrap 64 (j.src + i * j.spitch)) (wrap 64 (j.dst + i * j.dpitch)) j.bytes with
    | (s, false) => (s, false)
    | (s, true) => s.copyRows d j n (i + 1)

end State

/-- COPY (R87): the die's copy engine takes the job. -/
def execCopyPacket (d l : Nat) (s : State) : Host.Outcome State Fault Refusal :=
  .next (s.fwIssue d l 8 fun s q b =>
    let x := s.queueOf q
    let (id, s) := s.newId
    let at_ := match x.calls with | c :: _ => c.1 + 64 * c.2.2 | [] => x.ring + 64 * (x.readIdx % 2 ^ x.z)
    let j := { s.copyJob q at_ b with pkt := id }
    let s := { s with pkts := s.pkts.set id { die := d, queue := q % 1024, slot := j.slot, kind := 8 } }
    (s.modDie d fun y => { y with copies := y.copies.set id j }).passPacket d l q 1)

/-- COPY_COMPLETE (R79, R87): every byte is written, or the copy has stopped on a fault and with it its queue; where some writes still wait at
their homes, the packet completes with the last of them (R344). A queue that another error has stopped reports again (log 53). -/
def execCopyComplete (d id : Nat) (s : State) : Host.Outcome State Fault Refusal :=
  .next (match (s.dieOf d).copies.find? fun e => e.1 == id with
    | none => s
    | some (_, j) =>
      if j.ended.isSome then s
      else s.farRun (.copy d id) d fun s =>
        match s.copyRows d j j.rows 0 with
        | (s, ok) => (s.modDie d fun y => { y with copies := y.copies.set id { j with ended := some ok } }).copyDone id)

/-! ### Parameter blocks (R334, R335) -/

/-- A stream descriptor: base, the three counts and strides, flags. -/
structure CStream where
  base : Nat
  c0 : Nat
  s0 : Int
  c1 : Nat
  s1 : Int
  c2 : Nat
  flags : Nat
  s2 : Int
  deriving DecidableEq, Repr

/-- A field of a parameter block. -/
def pbf (p : Cells 8) (off n : Nat) : Nat := getNum p off n

/-- Stream k: 0 In0, 1 In1, 2 Refill, 3 Out. -/
def pbStream (p : Cells 8) (k : Nat) : CStream :=
  let a := 0x40 + 32 * k
  { base := pbf p a 8, c0 := pbf p (a + 8) 4, s0 := signed 32 (pbf p (a + 12) 4), c1 := pbf p (a + 16) 4,
    s1 := signed 32 (pbf p (a + 20) 4), c2 := pbf p (a + 24) 2, flags := pbf p (a + 26) 2, s2 := signed 32 (pbf p (a + 28) 4) }
def CStream.used (c : CStream) : Bool := bitOf c.flags 0
def CStream.striped (c : CStream) : Bool := bitOf c.flags 1
def CStream.count (c : CStream) : Nat := c.c0 * c.c1 * c.c2

def pbDeq (p : Cells 8) : Bool := bitOf (pbf p 0 1) 0
def pbMul (p : Cells 8) : Bool := bitOf (pbf p 0 1) 1
def pbRed (p : Cells 8) : Bool := bitOf (pbf p 0 1) 2
def pbActOn (p : Cells 8) : Bool := bitOf (pbf p 0 1) 3
def pbIn0 (p : Cells 8) : Nat := pbf p 1 1 % 16
def pbMulSrc (p : Cells 8) : Nat := pbf p 2 1
def pbOut (p : Cells 8) : Nat := pbf p 3 1
def pbRL (p : Cells 8) : Nat := pbf p 8 4
def pbQ (p : Cells 8) : Nat := pbf p 0xC 4
def pbPeriod (p : Cells 8) : Nat := pbf p 0x10 4
def pbStride (p : Cells 8) : Int := signed 64 (pbf p 0x18 8)

/-- Is the In0 format one of the MX formats? -/
def pbMx (p : Cells 8) : Bool := isMx (pbIn0 p)

/-- The format code of a stream's elements. -/
def streamFmt (p : Cells 8) (k : Nat) : Nat :=
  if k = 0 then pbIn0 p else if k = 1 then pbf p 6 1 else if k = 2 then pbf p 5 1 else pbOut p

/-- The size of a stream's elements (R335). -/
def elemSize (p : Cells 8) (k : Nat) : Nat :=
  if k = 1 ∧ pbMx p then 1 else max 1 (codeBits (streamFmt p k) / 8)

/-- V0 and the output count (R338), and the number of loads (R333). -/
def pbV0 (p : Cells 8) : Nat := (pbStream p 0).count * (if pbIn0 p = 0xA then 2 else 1)
def pbOutputs (p : Cells 8) : Nat := if pbRed p then pbV0 p / pbRL p else pbV0 p
def pbLoads (p : Cells 8) : Nat := if pbPeriod p = 0 then 1 else (pbOutputs p + pbPeriod p - 1) / pbPeriod p

/-- Check 2 of R341: a reserved field is nonzero. -/
def pbReserved (p : Cells 8) : Bool :=
  decide (pbf p 0 1 ≥ 16 ∨ pbf p 1 1 ≥ 16 ∨ pbf p 7 1 ≠ 0 ∨ pbf p 0x14 4 ≠ 0 ∨ pbf p 0x30 16 ≠ 0 ∨ pbf p 0xC0 64 ≠ 0) ||
    (List.range 4).any fun k => decide ((pbStream p k).flags ≥ 4)

/-- A finite FP32 field. -/
def finite32 (x : Nat) : Bool := let v := decodeF fp32 x; !v.isNaN && !v.isInf

/-- Check 3 of R341: the fields hold values that R334 and R335 allow, consistent with Stages. -/
def pbAllowed (p : Cells 8) : Bool :=
  let refill := pbMul p && pbMulSrc p == 0
  let act := pbf p 4 1
  let use := fun (k : Nat) (u : Bool) =>
    let c := pbStream p k
    c.used == u && (if u then decide (c.c0 ≥ 1 ∧ c.c1 ≥ 1 ∧ c.c2 ≥ 1) else pbf p (0x40 + 32 * k) 32 == 0)
  (pbDeq p || [1, 2, 5].contains (pbIn0 p)) && decide (pbMulSrc p ≤ 1) && (pbMul p || pbMulSrc p == 0) && [1, 5].contains (pbOut p) &&
    decide (act ≤ 3) && (pbActOn p || act == 0) && (if refill then [1, 5].contains (pbf p 5 1) else pbf p 5 1 == 0) &&
    (if pbMulSrc p = 1 then [0, 1, 3, 4, 5, 6, 7, 0xC, 0xD, 0xE, 0xF].contains (pbf p 6 1) else pbf p 6 1 == 0) &&
    (if pbRed p then decide (1 ≤ pbRL p ∧ pbRL p ≤ 2 ^ 24) else pbRL p == 0) &&
    (if refill then decide (1 ≤ pbQ p ∧ pbQ p ≤ 4096) else pbQ p == 0) && decide (pbf p 0x18 8 % 2 ^ 21 = 0) &&
    (if act = 3 then finite32 (pbf p 0x20 4) && finite32 (pbf p 0x24 4) else pbf p 0x20 8 == 0) &&
    (if act = 2 then finite32 (pbf p 0x28 4) && finite32 (pbf p 0x2C 4) && !ltN (decodeF fp32 (pbf p 0x2C 4)) (decodeF fp32 (pbf p 0x28 4))
     else pbf p 0x28 8 == 0) &&
    use 0 true && use 1 (pbMulSrc p == 1 || pbMx p) && use 2 refill && use 3 true && !(pbMx p && pbMulSrc p == 1)

/-- Check 5 of R341: the counts agree (R338). -/
def pbCounts (p : Cells 8) : Bool :=
  (!pbRed p || pbV0 p % pbRL p == 0) && (pbStream p 3).count == pbOutputs p &&
    (!pbMx p || (pbV0 p % 32 == 0 && (pbStream p 1).count == pbV0 p / 32)) &&
    (pbMulSrc p != 1 || (pbStream p 1).count == pbV0 p) &&
    (!(pbMul p && pbMulSrc p == 0) || (pbStream p 2).count == pbQ p * pbLoads p)

/-! ### Places (R329, R336, R337) -/

/-- Place(bank, off) (R329). -/
def place (bank off : Nat) : Nat := off / 64 * 2048 + bank * 64 + off % 64

/-- The base of a stream for the unit of ordinal i (R336). -/
def unitBase (p : Cells 8) (k i : Nat) : Nat := wrap 64 ((pbStream p k).base + i * pbStride p)

/-- The address of element n of stream k; none where a striped element has no place (R337). -/
def elemAddr (p : Cells 8) (k base n : Nat) : Option Nat :=
  let c := pbStream p k
  let i0 : Int := n % c.c0
  let i1 : Int := n / c.c0 % c.c1
  let i2 : Int := n / (c.c0 * c.c1)
  if c.striped then
    let bank := (bits base 10 6 : Int) + i1 * c.s1
    let off := (bits base 20 11 * 64 + bits base 5 0 : Int) + i0 * c.s0 + i2 * c.s2
    if 0 ≤ bank ∧ bank ≤ 31 ∧ 0 ≤ off ∧ off ≤ 65536 - (elemSize p k : Int) then
      some (base - base % 2 ^ 21 + place bank.toNat off.toNat)
    else none
  else some (wrap 64 (base + i0 * c.s0 + i1 * c.s1 + i2 * c.s2))

/-! ### Acceptance (R328, R341, R342) -/

/-- The units of a mask, in ascending order. -/
def unitsOf (mask : Nat) : List Nat := (List.range 64).filter fun u => bitOf mask u

/-- The used streams in the order of R341. -/
def usedStreams (p : Cells 8) : List Nat := (List.range 4).filter fun k => (pbStream p k).used

/-- A failed check: its number, and the stream, unit and address it names. -/
structure CellFail where
  check : Nat
  stream : Nat := 0xFF
  unit : Nat := 0xFF
  va : Nat := 0

/-- The first element, in unit, stream and visiting order, that fails a test of its address, its base and its stream; an element without
a place is named by its base. -/
def firstBad (p : Cells 8) (us : List Nat) (check : Nat) (bad : Nat → Nat → Option Nat → Bool) : Option CellFail :=
  ((List.range us.length).zip us).findSome? fun iu => (usedStreams p).findSome? fun k =>
    let base := unitBase p k iu.1
    ((List.range (pbStream p k).count).find? fun n => bad k base (elemAddr p k base n)).map fun n =>
      { check := check, stream := k, unit := iu.2, va := (elemAddr p k base n).getD base }

namespace State

def unitCount (s : State) : Nat := if s.isExpander then 32 else 64
/-- CELLFRAME of a stack (R339). -/
def cellframeOf (s : State) (d k : Nat) : Nat := ((s.dieOf d).cellframe.get 0x0FFF0000 k).toNat

/-- The translation of a stream's page for a unit: the physical page, where the leaf is a compute-capable pinned 2 MiB page, for Out a writable
one (R328). It is read as for a read, so that a command that is rejected leaves no page dirty. -/
def cellPage (s : State) (d fn ctx va : Nat) (out : Bool) : State × Option Nat :=
  match walk s d fn ctx va .read with
  | (s, .ok t) => (s, if t.size = 2 ^ 21 ∧ t.capable ∧ t.pinned ∧ s.rangeOf t.pa == .hbm ∧ (!out || t.writable) then some t.pa else none)
  | (s, .error _) => (s, none)

/-- Translate every stream of every unit: the pages by unit and stream, or the first failure of check 8 or 9. -/
def cellPages (s : State) (d fn ctx : Nat) (p : Cells 8) : List (Nat × Nat × Nat) → State × List (Nat × Nat × Nat × Option Nat)
  | [] => (s, [])
  | (i, u, k) :: t =>
    let va := unitBase p k i
    match s.cellPage d fn ctx va (k == 3) with
    | (s, r) =>
      match s.cellPages d fn ctx p t with
      | (s, l) => (s, (u, k, va, r) :: l)

/-- Checks 1 to 10 of R341: the first that fails, or the parameter block with the pages of its streams. -/
def cellCheck (s : State) (d fn ctx pbva mask : Nat) : State × Except CellFail (Cells 8 × List (Nat × Nat × Nat)) :=
  match s.devRead d fn ctx pbva 256 with
  | (s, none) => (s, .error { check := 1 })
  | (s, some bs) =>
    let p := putBytes [] 0 bs
    let us := unitsOf mask
    if pbReserved p then (s, .error { check := 2 })
    else if !pbAllowed p then (s, .error { check := 3 })
    else if us.isEmpty || us.any (fun u => decide (u ≥ s.unitCount) || s.cellframeOf d (s.stackOfUnit u) % 65536 == 0) then
      (s, .error { check := 4 })
    else if !pbCounts p then (s, .error { check := 5 })
    else
      match firstBad p us 6 fun k _ a => match a with | some a => decide (a % elemSize p k ≠ 0) | none => false with
      | some f => (s, .error f)
      | none =>
        match firstBad p us 7 fun _ base a => match a with | some a => decide (a / 2 ^ 21 ≠ base / 2 ^ 21) | none => true with
        | some f => (s, .error f)
        | none =>
          let todo := ((List.range us.length).zip us).flatMap fun iu => (usedStreams p).map fun k => (iu.1, iu.2, k)
          match s.cellPages d fn ctx p todo with
          | (s, l) =>
            let fail := fun (c : Nat) (x : Nat × Nat × Nat × Option Nat) => CellFail.mk c x.2.1 x.1 x.2.2.1
            match l.find? fun x => x.2.2.2.isNone with
            | some x => (s, .error (fail 8 x))
            | none =>
              match l.find? fun x => match x.2.2.2 with | some pa => s.unitOf pa != x.1 || s.homeDie pa != d | none => false with
              | some x => (s, .error (fail 9 x))
              | none =>
                let ins := (l.filter fun x => x.2.1 != 3).filterMap fun x => x.2.2.2
                match l.find? fun x => x.2.1 == 3 && (match x.2.2.2 with | some pa => ins.contains pa | none => false) with
                | some x => (s, .error (fail 10 x))
                | none => (s, .ok (p, l.map fun x => (x.1, x.2.1, x.2.2.2.getD 0)))

/-- The 32 bytes of a completion record (R347). -/
def cellRecord (status detail stream unit outputs clocks va : Nat) : List Byte :=
  toBytes 1 status ++ toBytes 1 detail ++ toBytes 1 stream ++ toBytes 1 unit ++ toBytes 4 0 ++ toBytes 8 outputs ++
    toBytes 8 clocks ++ toBytes 8 va

/-- A completion record is stored, or a record of kind 0x10 says that it could not be (R470): false where it waits at its home (R344). -/
def storeRecord (s : State) (d fn ctx q slot va : Nat) (bs : List Byte) (who : Asker) : State × Bool :=
  match s.devStoreClean d fn ctx va bs who with
  | (s, true, now) => (s, now)
  | (s, false, _) => (s.event fn d 0x10 (q % 1024) 0 2 fn slot va, true)

/-- Acceptance (R342): the Out pages become dirty, and every cached copy of their lines is invalidated, which the host's are by a snoop. -/
def acceptCell (s : State) (c : CellCmd) : State :=
  let outs := c.bases.filter fun x => x.2.1 == 3
  let s := outs.foldl (fun s x => (walk s c.die c.fn c.ctx (unitBase c.pb 3 (((unitsOf c.mask.toNat).findIdx? (· == x.1)).getD 0)) .write).1) s
  (s.hostShared.filter fun l => c.outPages.contains (128 * l / 2 ^ 21)).foldl (fun s l => s.claimLine l (128 * l)) s

end State

/-- CELLAR (R87, R341, R342): the command is accepted, or rejected by its record. -/
def execCellarPacket (d l : Nat) (s : State) : Host.Outcome State Fault Refusal :=
  .next (s.fwIssue d l 9 fun s q b =>
    let x := s.queueOf q
    let rec_ := pk b 0x18 8
    match s.translateRun d x.fn x.ctx .write 2 rec_ 32 with
    | (s, .error _) => s.queueErr q 0x09 0
    | (s, .ok _) =>
      match s.cellCheck d x.fn x.ctx (pk b 8 8) (pk b 0x10 8) with
      | (s, .error f) =>
        let (id, s) := s.newId
        let bs := State.cellRecord 0x19 f.check f.stream f.unit 0 0 f.va
        match s.storeRecord d x.fn x.ctx q (State.errorSlot x) rec_ bs (.signal id x.fn none) with
        | (s, true) => s.passPacket d l q 1
        | (s, false) =>
          { s with pkts := s.pkts.set id { die := d, queue := q % 1024, slot := State.errorSlot x, kind := 9 } }.passPacket d l q 1
      | (s, .ok (p, bases)) =>
        let (id, s) := s.newId
        let c : CellCmd := { pkt := id, die := d, queue := q, slot := State.errorSlot x, fn := x.fn, ctx := x.ctx, prio := pk b 4 1, pb := p,
                             mask := BitVec.ofNat 64 (pk b 0x10 8), record := rec_, parts := (unitsOf (pk b 0x10 8)).map fun u => (u, 0, 0),
                             bases := bases, outPages := (bases.filter fun x => x.2.1 == 3).map fun x => x.2.2 / 2 ^ 21,
                             usePages := bases.map fun x => x.2.2 / 2 ^ 21, bad := none, held := [] }
        let s := s.acceptCell c
        let s := { s with cells := s.cells.set id c, pkts := s.pkts.set id { die := d, queue := q % 1024, slot := c.slot, kind := 9 } }
        s.passPacket d l q 1)

/-! ### The pipeline (R330 to R333) -/

/-- What reads a command's values: the physical address of element n of stream k for a unit. -/
def cellAt (c : CellCmd) (u k n : Nat) : Nat :=
  let i := ((unitsOf c.mask.toNat).findIdx? (· == u)).getD 0
  let va := (elemAddr c.pb k (unitBase c.pb k i) n).getD 0
  let page := match c.bases.find? fun x => x.1 == u && x.2.1 == k with | some x => x.2.2 | none => 0
  page + va % 2 ^ 21
/-- The virtual address of the same element. -/
def cellVa (c : CellCmd) (u k n : Nat) : Nat :=
  (elemAddr c.pb k (unitBase c.pb k (((unitsOf c.mask.toNat).findIdx? (· == u)).getD 0)) n).getD 0

namespace State

/-- The exact value n of a stream (R331). -/
def cellValue (s : State) (c : CellCmd) (u k n : Nat) : Num :=
  let f := streamFmt c.pb k
  let raw := fun (m : Nat) => s.rdNum (cellAt c u k m) (elemSize c.pb k)
  let x := if f = 0xA then codeValue f (bits (raw (n / 2)) (4 * (n % 2) + 3) (4 * (n % 2))) else codeValue f (raw n)
  if k = 0 ∧ pbMx c.pb then
    let e := s.rdNum (cellAt c u 1 (n / 32)) 1
    if e = 0xFF then .nan else scaleN ((e : Int) - 127) x
  else x

/-- The values of In0 that output m takes. -/
def inputsOf (p : Cells 8) (m : Nat) : List Nat := if pbRed p then (List.range (pbRL p)).map fun i => m * pbRL p + i else [m]
/-- The refill value that serves value n of output m (R333). -/
def refillOf (p : Cells 8) (m n : Nat) : Nat := (if pbPeriod p = 0 then 0 else m / pbPeriod p) * pbQ p + n % pbQ p

/-- Activate (R332). -/
def activate (p : Cells 8) (v : Num) : Num :=
  if v.isNaN then v
  else
    match pbf p 4 1 with
    | 0 => v
    | 1 => if ltN (intN 0) v then v else intN 0
    | 2 =>
      let lo := decodeF fp32 (pbf p 0x28 4)
      let hi := decodeF fp32 (pbf p 0x2C 4)
      if ltN v lo then lo else if ltN hi v then hi else v
    | _ => sumN 0 [mulN v (decodeF fp32 (pbf p 0x20 4)), decodeF fp32 (pbf p 0x24 4)]

/-- CellarOutput(m) (R330), rounded to its format. -/
def cellOutput (s : State) (c : CellCmd) (u m : Nat) : Nat :=
  let p := c.pb
  let term := fun (n : Nat) =>
    let a := s.cellValue c u 0 n
    if pbMul p then mulN a (if pbMulSrc p = 0 then s.cellValue c u 2 (refillOf p m n) else s.cellValue c u 1 n) else a
  roundTo (if pbOut p = 1 then fp32 else bf16) 0 false (activate p (sumN 0 ((inputsOf p m).map term)))

/-- The elements that output m reads, as streams and numbers: the load it begins, then its inputs in order. -/
def readsOf (p : Cells 8) (m : Nat) : List (Nat × Nat) :=
  let load := if pbMul p ∧ pbMulSrc p = 0 ∧ (m = 0 ∨ (pbPeriod p ≠ 0 ∧ m % pbPeriod p = 0)) then
      (List.range (pbQ p)).map fun i => (2, refillOf p m i)
    else []
  load ++ (inputsOf p m).flatMap fun n =>
    [(0, if pbIn0 p = 0xA then n / 2 else n)] ++ (if pbMx p then [(1, n / 32)] else if pbMul p ∧ pbMulSrc p = 1 then [(1, n)] else [])

/-- A unit writes an output. The dirty bit of the frame is set with it; where the channel of the bitmap serves only its unit now, in the next
ordinary interval (R232, R340). -/
def cellWrite (s : State) (fn pa : Nat) (bs : List Byte) : State :=
  let s := match s.dirtyAt fn pa with
    | none => s
    | some (a, m) =>
      let r : HeldReq := { pa := a, op := .atomic .or 1 m.toNat m.toNat, who := .nobody, fn := noFn }
      if !s.chanBusy a then s.orByte a m
      else if s.snoopHeld.contains r then s
      else { s with snoopHeld := s.snoopHeld ++ [r] }
  s.put pa bs

/-- Write the outputs from m on, in ascending order, until a part meets a poisoned sector: how many it wrote, and the stream and element of
the sector. -/
def runPart (s : State) (c : CellCmd) (u : Nat) : Nat → Nat → State × Nat × Option (Nat × Nat)
  | 0, m => (s, m, none)
  | k + 1, m =>
    match (readsOf c.pb m).find? fun x => s.poisoned (cellAt c u x.1 x.2) (elemSize c.pb x.1) with
    | some x => (s, m, some x)
    | none =>
      let n := if pbOut c.pb = 1 then 4 else 2
      (s.cellWrite c.fn (cellAt c u 3 m) (toBytes n (s.cellOutput c u m))).runPart c u k (m + 1)

/-- A part of a command ends: at its last output, or at a poisoned sector (R346). -/
def endPart (s : State) (id : Nat) (c : CellCmd) (u : Nat) : State :=
  match s.runPart c u (pbOutputs c.pb) 0 with
  | (s, n, x) =>
    let bad := match x with | some y => some (y.1, u, cellVa c u y.1 y.2 / 32 * 32) | none => c.bad
    { s with cells := s.cells.set id { c with parts := c.parts.map fun p => if p.1 = u then (u, 2, n) else p,
                                              bad := if c.bad.isSome then c.bad else bad } }

/-- The command of which a unit runs a part. -/
def runningOn (s : State) (d u : Nat) : Option (Nat × CellCmd) :=
  s.cells.find? fun e => e.2.die == d && e.2.parts.any fun p => p.1 == u && p.2.1 == 1

/-- Must a command wait for an earlier one that conflicts with it (R343)? Commands are numbered as they are accepted. -/
def cellWaits (s : State) (id : Nat) (c : CellCmd) : Bool :=
  s.cells.any fun e => decide (e.1 < id) && e.2.die == c.die &&
    (e.2.usePages.any (fun p => (c.bases.any fun b => b.2.1 == 3 && b.2.2 / 2 ^ 21 == p)) ||
     c.usePages.any (fun p => e.2.bases.any fun b => b.2.1 == 3 && b.2.2 / 2 ^ 21 == p))

/-- The next part of a unit: highest priority, then acceptance order. -/
def nextPart (s : State) (d u : Nat) : Option Nat :=
  let l := s.cells.filter fun e => e.2.die == d && e.2.parts.any (fun p => p.1 == u && p.2.1 == 0) && !s.cellWaits e.1 e.2
  match l with
  | [] => none
  | x :: t => some (t.foldl (fun (m : Nat × CellCmd) y => if y.2.prio > m.2.prio then y else m) x).1

/-- Start the next part of a unit that runs none. -/
def startPart (s : State) (d u : Nat) : State :=
  if (s.runningOn d u).isSome then s
  else
    match s.nextPart d u with
    | none => s
    | some id =>
      let c := s.cells.find? fun e => e.1 == id
      match c with
      | some (_, c) => { s with cells := s.cells.set id { c with parts := c.parts.map fun p => if p.1 = u then (u, 1, 0) else p } }
      | none => s

/-- The requests that waited on a command's holds are performed in their order of arrival, but for those whose page is held still
(R345). -/
def releaseHolds (s : State) (id : Nat) (c : CellCmd) : State :=
  let s := c.held.foldl (fun s r => s.runHeld r) { s with cells := s.cells.set id { c with outPages := [], held := [] } }
  { s with cells := s.cells.set id { c with outPages := [], held := [], waits := c.held.filter fun r => s.snoopHeld.contains r } }

/-- Does a word that found a page held still wait to be tried again? -/
def wordWaits (s : State) (w : Nat × Nat × Nat × Nat) : Bool :=
  let x := s.splOf w.1 w.2.1 w.2.2.1
  (s.blkOf w.1).live && x.status == .ready && x.pc == w.2.2.2

/-- Is anything that waited on the holds of a command still to be performed, the holds being released (R345)? -/
def releasing (s : State) (c : CellCmd) : Bool := (c.waits.any fun r => s.snoopHeld.contains r) || c.words.any fun w => s.wordWaits w

/-- The record of a command whose holds are released is written and its packet completes (R345, R346); the clocks in which its parts ran are some
number that is not 0 (R347; log 1). Where another command holds the page of
the record, the packet completes with the store. -/
def closeCell (s : State) (id : Nat) (c : CellCmd) : State :=
  let s := { s with cells := s.cells.del id }
  let gone := c.parts.any fun p => p.2.1 == 3
  let outs := (c.parts.map fun p => p.2.2).foldl (· + ·) 0
  let (free, s) := s.fresh 64
  let clocks : DWord := if c.parts.any fun p => p.2.1 == 2 then BitVec.ofNat 64 (free.toNat % (2 ^ 64 - 1) + 1) else 0
  let bs := match c.bad with
    | some x => if gone then cellRecord 0x01 0 0xFF 0xFF outs clocks.toNat 0 else cellRecord 0x07 0 x.1 x.2.1 outs clocks.toNat x.2.2
    | none => cellRecord (if gone then 0x01 else 0) 0 0xFF 0xFF outs clocks.toNat 0
  match s.storeRecord c.die c.fn c.ctx c.queue c.slot c.record bs (.signal c.pkt c.fn none) with
  | (s, true) => { s with pkts := s.pkts.del c.pkt }
  | (s, false) => s

/-- A command of which every part has ended or was discarded (R345, R346): its holds are released and what waited on them is performed; once that
is done it is closed. -/
def finishCell (s : State) (id : Nat) (c : CellCmd) : State :=
  let s := if c.outPages.isEmpty then s else s.releaseHolds id c
  let c := s.cells.get c id
  if s.releasing c then s else s.closeCell id c

end State

/-- CELLFRAME_WRITE (R339): in force at the next frame. -/
def execCellframeWrite (d k v : Nat) (s : State) : Host.Outcome State Fault Refusal :=
  .next (if bits v 31 16 < 255 ∨ v % 65536 + 64 > bits v 31 16 + 1 then s
         else s.modDie d fun x => { x with cellframe := x.cellframe.set k (BitVec.ofNat 32 v) })

/-- COMPUTE_INTERVAL_START (R340, R343): parts start only here, and none while Compute is 0. -/
def execComputeIntervalStart (d k : Nat) (s : State) : Host.Outcome State Fault Refusal :=
  .next (if s.cellframeOf d k % 65536 = 0 then s
         else
           let us := (List.range s.unitCount).filter fun u => s.stackOfUnit u == k
           (us.foldl (fun s u => s.startPart d u) s).modDie d fun x =>
             { x with computing := if x.computing.contains k then x.computing else x.computing ++ [k] })

/-- ORDINARY_INTERVAL_START (R340): running parts pause, and the requests that waited for their channels are performed. -/
def execOrdinaryIntervalStart (d k : Nat) (s : State) : Host.Outcome State Fault Refusal :=
  .next (s.modDie d fun x => { x with computing := x.computing.filter (· != k) }).settleHeld

/-- CELLAR_PART_END (R333): the part's outputs are written. Parts proceed only during compute intervals (R340). -/
def execCellarPartEnd (d u : Nat) (s : State) : Host.Outcome State Fault Refusal :=
  .next (match s.runningOn d u with
    | some (id, c) => if (s.dieOf d).computing.contains (s.stackOfUnit u) then s.endPart id c u else s
    | none => s)

/-- CELLAR_PART_POISON (R346): an uncorrectable error in a sector that the running part reads. -/
def execCellarPartPoison (d u k va : Nat) (s : State) : Host.Outcome State Fault Refusal :=
  .next (match s.runningOn d u with
    | some (id, c) =>
      let page := match c.bases.find? fun x => x.1 == u && x.2.1 == k with | some x => x.2.2 | none => 0
      let sec := (page + va % 2 ^ 21) / 32
      let t := { s with poison := if s.poison.contains sec then s.poison else s.poison ++ [sec] }
      let hit := (t.runPart c u (pbOutputs c.pb) 0).2.2.any fun x => x.1 == k && cellAt c u x.1 x.2 / 32 == sec
      if k < 3 && hit && (s.dieOf d).computing.contains (s.stackOfUnit u) then t.endPart id c u else s
    | none => s)

/-- CELLAR_COMPLETE (R345). -/
def execCellarComplete (d id : Nat) (s : State) : Host.Outcome State Fault Refusal :=
  .next (match s.cells.find? fun e => e.1 == id && e.2.die == d with
    | some (_, c) => if c.parts.all fun p => decide (p.2.1 ≥ 2) then s.finishCell id c else s
    | none => s)

end Sys2Proof.Machine
end

