-- ==== Sys2Proof/Machine/Bar.lean ====
section
/-! DEFINITION. What the host reads and writes in the BARs: the exposed range (spec/14_links.md R378 to R380), the registers of the PF's BAR 0
and of the doorbell pages (spec/00_scope.md R8, R9; spec/03_launching.md R64, R65, R71; R111, R226, R229, R315, R350, R359, R382, R418, R425,
R427, R447). Where the registers of BAR 0 lie is not stated (Config.barByte, log 51). The doorbell page of a function on a die is numbered
here from the address 2^41 on, in the order of the functions and, for each 64 of them, of the dies (log 51). -/

namespace Sys2Proof.Machine
namespace State

/-! ### Registers -/

/-- The bytes of a command block of a doorbell page that are fields (R226 at 0x900, R427 at 0x940, R447 at 0x980). -/
def commandField (off : Nat) : Bool :=
  decide (off < 0x903 ∧ 0x900 ≤ off ∨ 0x908 ≤ off ∧ off < 0x928 ∨ 0x940 ≤ off ∧ off < 0x945 ∨ 0x948 ≤ off ∧ off < 0x950 ∨ off = 0x980 ∨
    0x988 ≤ off ∧ off < 0x9A0)

/-- The bits of such a byte that are not reserved: Flags has one at 0x943, and the die mask four at 0x944 (R427); a reserved bit reads 0 (R9). -/
def commandMask (off : Nat) : Byte := if off = 0x943 then 1 else if off = 0x944 then 15 else 0xFF

/-- LOFTOWN of a bay (R315). -/
def loftOwn (b : Bay) : Nat :=
  if b.mode = 2 then 2 ^ 31 + b.reclaiming.toNat * 2 ^ 30 + b.fn % 64 * 2 ^ 16 + b.ctx % 64 else 0

/-- What a register reads: RO, RW and W1C fields their state, WO and reserved fields 0 (R8, R9). -/
def readReg (s : State) (r : RegName) : Nat :=
  match r with
  | .shadowBase d => (s.dieOf d).shadowBase
  | .shadowStatus d q => s.shadow (1024 * (d % 4) + q % 1024) 0x18 4 % 8
  | .profileBase fn d => (s.fnOf fn).profile.get 0 d
  | .ctxTable fn d => (s.fnBlock fn d).ctxTable
  | .dirtyBase fn d => (s.fnBlock fn d).dirtyBase
  | .fnFlags fn d => (s.fnBlock fn d).flags.toNat
  | .maxBays fn d => (s.fnBlock fn d).maxBays
  | .ctxSave fn c => (s.ctxOf fn c).save.toNat
  | .pantryByte fn o => ((s.fnOf fn).pantry.get o).toNat
  | .fabricByte o => (s.fabric.get o).toNat
  | .apertureBase fn d => (s.fnBlock fn d).apBase
  | .apertureCtx fn d => (s.fnBlock fn d).apCtx
  | .apertureFlags fn d => (s.fnBlock fn d).apFlags.toNat
  | .vectors fn => (s.fnOf fn).vectors
  | .evqcfg fn d =>
    let q := s.evqOf fn d
    q.base % 2 ^ 64 + q.z % 256 * 2 ^ 64 + q.vec % 65536 * 2 ^ 80 + q.enabled.toNat * 2 ^ 96
  | .evRead fn d => (s.evqOf fn d).read
  | .evWrite fn d => shown (s.evqOf fn d)
  | .evLost fn d => (s.evqOf fn d).lost.toNat
  | .ctxStat fn c => (s.ctxOf fn c).stat.toNat
  | .command fn d o => if commandField o then ((s.fnBlock fn d).stage.get o &&& commandMask o).toNat else 0
  | .inUse fn t => (s.fnOf fn).inUse.get 0 t
  | .logWrite fn => (s.fnOf fn).logWrite
  | .pantryRecl fn => (s.fnOf fn).pantryRecl.toNat % 2 ^ 31
  | .gangres d n => ((s.dieOf d).gangres.get n).toNat
  | .govctl d => (s.dieOf d).govctl.toNat
  | .memcfg d => (s.dieOf d).memcfg.toNat
  | .loftOwn d b => loftOwn (s.bayOf d b)
  | .loftRecl _ => 0
  | .cellframe d k => s.cellframeOf d k
  | .linkstat d l => (s.linkWord d l).toNat
  | .linkctl d l => ((s.dieOf d).linkctl.get l).toNat
  | .portcfg d => (s.dieOf d).portcfg.toNat
  | .hdmcfg => s.hdmcfg.toNat
  | .evacctl d => (s.dieOf d).evac.toNat
  | .migctl d fn => ((s.dieOf d).migctl.get fn).toNat
  | .bootstat d => (s.dieOf d).bootstat.toNat
  | .pwrctl => s.pwrctl.toNat
  | .pwrstat => s.pwrstat.toNat
  | .readOnly o => (Config.free 32 o).toNat

/-- A byte of a register; none is a reserved byte, which reads 0 (R9). -/
def readByte (s : State) : Option (RegName × Nat) → Byte
  | some (r, k) => BitVec.ofNat 8 (s.readReg r / 2 ^ (8 * k))
  | none => 0

/-- The register, and the byte of it, at an offset of the doorbell page of a function on a die. What is written there and not read, and what
is reserved, is none. -/
def pageReg (fn d off : Nat) : Option (RegName × Nat) :=
  let k := off % 8
  if 0x800 ≤ off ∧ off < 0x808 then some (.profileBase fn d, k)
  else if 0x900 ≤ off ∧ off < 0x9A0 then some (.command fn d off, 0)
  else if 0xA00 ≤ off ∧ off < 0xA20 then some (.inUse fn ((off - 0xA00) / 8), k)
  else if 0xA20 ≤ off ∧ off < 0xA28 then some (.logWrite fn, k)
  else if 0xA40 ≤ off ∧ off < 0xA48 then some (.evRead fn d, k)
  else if 0xA48 ≤ off ∧ off < 0xA50 then some (.evWrite fn d, k)
  else if 0xA50 ≤ off ∧ off < 0xA54 then some (.evLost fn d, k)
  else if 0xB00 ≤ off ∧ off < 0xB08 then some (.apertureBase fn d, k)
  else if off = 0xB08 then some (.apertureCtx fn d, 0)
  else if off = 0xB09 then some (.apertureFlags fn d, 0)
  else if 0xC00 ≤ off ∧ off < 0xE00 then some (.ctxStat fn ((off - 0xC00) / 8), k)
  else if 0xE00 ≤ off ∧ off < 0x1000 then some (.ctxSave fn ((off - 0xE00) / 8), k)
  else none

/-! ### Doorbell pages -/

/-- Where the doorbell pages are numbered from, and the function, the die and the offset of an address there. -/
def pageBase : Nat := 2 ^ 41
def pageOf (addr : Nat) : Option (Nat × Nat × Nat) :=
  let o := addr - pageBase
  if pageBase ≤ addr ∧ o < 2 ^ 22 then some (o / 2 ^ 14 % 64, o / 2 ^ 20, o % 2 ^ 14) else none

/-- The state after an operation that answers a next state. -/
def after (s : State) (o : Host.Outcome State Fault Refusal) : State := match o with | .next t => t | _ => s

/-- The command block of R427, once its completion address has been written. A block with a reserved value is not performed. -/
def ctxBlock (s : State) (fn : Nat) (p : Cells 8) : State :=
  let ctx := getNum p 0x40 2
  let fl := getNum p 0x43 1
  let m := getNum p 0x44 1
  let comp := getNum p 0x48 8
  let bad := s.takeCmd fn ctx 0 0 false comp false id
  if fl > 1 ∨ m > 15 ∨ (getBytes p 0x45 3 ++ getBytes p 0x50 0x30).any (· != 0) then bad
  else
    match getNum p 0x42 1 with
    | 1 => s.after (execContextSave fn ctx (fl == 1) comp s)
    | 2 => s.after (execContextResume fn ctx m comp s)
    | 3 => s.after (execContextStop fn ctx comp s)
    | 4 => s.after (execContextStart fn ctx comp s)
    | _ => bad

/-- The mailbox of R447, once its completion address has been written: a command with a reserved value, or one that comes while another of the
function is outstanding on the die, is refused; any other is outstanding until the security processor has performed it (log 49). -/
def mailBlock (s : State) (fn d : Nat) (p : Cells 8) : State :=
  let op := getNum p 0x80 1
  let req := getNum p 0x88 8
  let resp := getNum p 0x90 8
  let comp := getNum p 0x98 8
  if (getBytes p 0x81 7).any (· != 0) ∨ op = 0 ∨ op > 4 ∨ (s.fnBlock fn d).mail.isSome then s.mailEnd fn d resp comp none
  else s.modFnBlock fn d fun f => { f with mail := some (op, req, resp, comp) }

/-- A write to a command block: the bytes are kept, and one that ends with the completion address starts the command (R226, R427, R447). The keys
of the bytes are their offsets from 0x900 on. -/
def writeCommand (s : State) (fn d off : Nat) (bs : List Byte) : State :=
  let s := s.modFnBlock fn d fun f => { f with stage := putBytes f.stage off bs }
  let p : Cells 8 := putBytes [] 0 (getBytes (s.fnBlock fn d).stage 0x900 0xA0)
  let hits := fun (o : Nat) => decide (off < o + 8 ∧ o + 8 ≤ off + bs.length)
  if hits 0x918 then s.trBlock fn d p
  else if hits 0x948 then s.ctxBlock fn p
  else if hits 0x998 then s.mailBlock fn d p
  else s

/-- A write of the host to a doorbell page (R64): the registers, and the doorbells of the queues (R71). A write narrower
than its register counts as one of all of it, its missing bytes 0; one that does not start at a register's first byte is dropped, but in CTXSTAT,
CTXSAVE and the doorbells, where any byte of a register stands for the first (DESIGN CHOICE, log 100). -/
def writePage (s : State) (fn d off : Nat) (bs : List Byte) : State :=
  let v := ofBytes bs
  if off = 0x800 then s.writeReg (.profileBase fn d) v
  else if off = 0x880 then
    if v / 2 ^ 32 = 0 then s.after (execParkReplay fn d v s)
    else if v / 2 ^ 32 = 1 then s.after (execParkDeliver fn d (v % 2 ^ 32) s)
    else s
  else if 0x900 ≤ off ∧ off < 0x9A0 then s.writeCommand fn d off bs
  else if off = 0xA40 then s.after (execEvreadWrite fn d v s)
  else if off = 0xA50 then s.after (execEvlostWrite fn d v s)
  else if off = 0xB00 then s.writeReg (.apertureBase fn d) v
  else if off = 0xB08 then
    let s := s.writeReg (.apertureCtx fn d) (v % 256)
    if bs.length > 1 then s.writeReg (.apertureFlags fn d) (v / 256 % 256) else s
  else if off = 0xB09 then s.writeReg (.apertureFlags fn d) (v % 256)
  else if 0xC00 ≤ off ∧ off < 0xE00 then
    if v % 2 = 1 then s.after (execCtxstatClear fn ((off - 0xC00) / 8) s) else s
  else if 0xE00 ≤ off ∧ off < 0x1000 then s.writeReg (.ctxSave fn ((off - 0xE00) / 8)) v
  else if 0x1000 ≤ off ∧ off < 0x3000 then s.after (execDoorbell fn d ((off - 0x1000) / 8) s)
  else s

end State

/-- HOST_INBOUND_WRITE (R379, R380): performed at the home slices, or waits there; a write to a doorbell page reaches its register, behind the
inbound writes that wait. Outside these it is discarded: a register of BAR 0 has a row of its own. -/
def execHostInboundWrite (addr : Nat) (bs : List Byte) (s : State) : Host.Outcome State Fault Refusal :=
  .next (match s.hdmAt addr bs.length, State.pageOf addr with
    | some pa, _ => s.inbound State.noFn (bs.length / 128 + 2) pa bs
    | none, some (fn, d, off) => s.behindWrites.writePage fn d off bs
    | none, none => s)

/-- HOST_INBOUND_READ (R379): under CXL the host then holds the lines of the exposed range, but not those that a cellar command holds (R344).
A read of registers answers what they read; any other offset is an Unsupported Request. It waits for the inbound writes before it (R380), and for a
channel that serves its cellar unit alone (R340). -/
def execHostInboundRead (addr n : Nat) (s : State) : Host.Outcome State Fault Refusal :=
  let s := s.behindWrites
  .next (match s.hdmAt addr n, State.pageOf addr with
    | some pa, _ =>
      let s := if (State.linesOf pa n).any fun l => s.chanBusy (128 * l) then s.ask .wait else s
      let held := if s.cxl then
          s.hostShared ++ (State.linesOf pa n).filter fun l => !s.hostShared.contains l && !s.heldPage (128 * l)
        else s.hostShared
      { s with hostShared := held }.emit (.hostRead addr n (s.rd pa n) (if s.poisoned pa n then 3 else 0))
    | none, some (fn, d, off) => s.emit (.hostRead addr n ((List.range n).map fun i => s.readByte (State.pageReg fn d (off + i))) 0)
    | none, none =>
      if addr < 2 ^ 26 then s.emit (.hostRead addr n ((List.range n).map fun i => s.readByte (Config.barByte (addr + i))) 0)
      else s.emit (.hostRead addr n [] 1))

end Sys2Proof.Machine
end

