-- ==== Sys2Proof/Machine/VecInt.lean ====
section
/-! DEFINITION. The vector integer forms, the divider and the predicates (spec/07_scalar_vector.md R183 to R188). -/

namespace Sys2Proof.Machine

/-! ### Per-element integer arithmetic (R184). x and y are element bit patterns of type t. -/

/-- A value built element by element from two registers. -/
def zip2 (t : Nat) (f : Nat → Nat → Nat) (va vb : Nat) : Nat := pack t fun i => f (elem t va i) (elem t vb i)
def zip3 (t : Nat) (f : Nat → Nat → Nat → Nat) (va vb vd : Nat) : Nat :=
  pack t fun i => f (elem t va i) (elem t vb i) (elem t vd i)
def map1 (t : Nat) (f : Nat → Nat) (va : Nat) : Nat := pack t fun i => f (elem t va i)

/-- The high half of the exact product. -/
def mulHigh (t x y : Nat) : Int := ival t x * ival t y / (2 ^ (tyOf t).w : Nat)

def addE (st : Bool) (t x y : Nat) : Nat := wrapT t st (ival t x + ival t y)
def subE (st : Bool) (t x y : Nat) : Nat := wrapT t st (ival t x - ival t y)
def mulE (st : Bool) (t x y : Nat) : Nat := wrapT t st (ival t x * ival t y)
def mulhE (t x y : Nat) : Nat := wrap (tyOf t).w (mulHigh t x y)
def madE (st : Bool) (t x y z : Nat) : Nat := wrapT t st (ival t x * ival t y + ival t z)
def madhE (st : Bool) (t x y z : Nat) : Nat := wrapT t st (mulHigh t x y + ival t z)
def minE (t x y : Nat) : Nat := if ival t x ≤ ival t y then x else y
def maxE (t x y : Nat) : Nat := if ival t y ≤ ival t x then x else y
def shlE (t x n : Nat) : Nat := if n ≥ (tyOf t).w then 0 else x * 2 ^ n % 2 ^ (tyOf t).w
def shrE (t x n : Nat) : Nat := if n ≥ (tyOf t).w then 0 else x / 2 ^ n
/-- VSRA fills with the sign bit of the element, whatever the type. -/
def sraE (t x n : Nat) : Nat := wrap (tyOf t).w (signed (tyOf t).w x / (2 ^ min n (tyOf t).w : Nat))
def rotE (t x n : Nat) : Nat :=
  let w := (tyOf t).w
  let k := n % w
  x * 2 ^ k % 2 ^ w + x / 2 ^ (w - k)
def absE (st : Bool) (t x : Nat) : Nat := if (tyOf t).signed then wrapT t st (ival t x).natAbs else x
def negE (st : Bool) (t x : Nat) : Nat := wrapT t st (-ival t x)
def clzE (t x : Nat) : Nat := clz (tyOf t).w x
def popcE (t x : Nat) : Nat := popc (tyOf t).w x
def brevE (t x : Nat) : Nat := brev (tyOf t).w x

/-- p and f of VBFE and VBFI from a control value b, for an element of w bits. -/
def fieldOf (w b : Nat) : Nat × Nat := (b % 64, if b % 64 ≥ w then 0 else min (b / 256 % 64) (w - b % 64))
def bfeE (t x b : Nat) : Nat :=
  let (p, f) := fieldOf (tyOf t).w b
  if f = 0 then 0
  else
    let v := x / 2 ^ p % 2 ^ f
    if (tyOf t).signed then wrap (tyOf t).w (signed f v) else v
def bfiE (t x b d : Nat) : Nat :=
  let (p, f) := fieldOf (tyOf t).w b
  let m := (2 ^ f - 1) * 2 ^ p
  (d - (d &&& m)) + (x * 2 ^ p &&& m)

/-! ### The forms -/

/-- A form of two sources and one destination. MODE.Round 5 stops the float forms only (DEDUCED, log 103). -/
def int2 (i : Instr) (types : List Nat) (d a b : BitVec 8) (f : Bool → Nat → Nat → Nat → Nat) (s : State) :
    Host.Outcome State Fault Refusal :=
  vecOp i types [d.toNat, a.toNat, b.toNat] d.toNat (fun x g l =>
    zip2 x.type (f x.sat x.type) (g.getVal x.type a.toNat l) (g.getVal x.type b.toNat l)) s

/-- A form that also reads vD. -/
def int3 (i : Instr) (types : List Nat) (d a b : BitVec 8) (f : Bool → Nat → Nat → Nat → Nat → Nat) (s : State) :
    Host.Outcome State Fault Refusal :=
  vecOp i types [d.toNat, a.toNat, b.toNat] d.toNat (fun x g l =>
    zip3 x.type (f x.sat x.type) (g.getVal x.type a.toNat l) (g.getVal x.type b.toNat l) (g.getVal x.type d.toNat l)) s

/-- A form of one source. -/
def int1 (i : Instr) (d a : BitVec 8) (f : Bool → Nat → Nat → Nat) (s : State) : Host.Outcome State Fault Refusal :=
  vecOp i intTypes [d.toNat, a.toNat] d.toNat (fun x g l => map1 x.type (f x.sat x.type) (g.getVal x.type a.toNat l)) s

/-- A bitwise form: element boundaries are ignored. -/
def bits2 (i : Instr) (d a b : BitVec 8) (f : Nat → Nat → Nat) (s : State) : Host.Outcome State Fault Refusal :=
  vecOp i anyTypes [d.toNat, a.toNat, b.toNat] d.toNat (fun x g l =>
    f (g.getVal x.type a.toNat l) (g.getVal x.type b.toNat l)) s

def execVadd (d a b : BitVec 8) (s : State) := int2 (.vadd d a b) intTypes d a b addE s
def execVsub (d a b : BitVec 8) (s : State) := int2 (.vsub d a b) intTypes d a b subE s
def execVmul (d a b : BitVec 8) (s : State) := int2 (.vmul d a b) intTypes d a b mulE s
def execVmulh (d a b : BitVec 8) (s : State) := int2 (.vmulh d a b) intTypes d a b (fun _ => mulhE) s
def execVmad (d a b : BitVec 8) (s : State) := int3 (.vmad d a b) intTypes d a b madE s
def execVmadh (d a b : BitVec 8) (s : State) := int3 (.vmadh d a b) intTypes d a b madhE s
def execVmin (d a b : BitVec 8) (s : State) := int2 (.vmin d a b) intTypes d a b (fun _ => minE) s
def execVmax (d a b : BitVec 8) (s : State) := int2 (.vmax d a b) intTypes d a b (fun _ => maxE) s
def execVshl (d a b : BitVec 8) (s : State) := int2 (.vshl d a b) intTypes d a b (fun _ => shlE) s
def execVshr (d a b : BitVec 8) (s : State) := int2 (.vshr d a b) intTypes d a b (fun _ => shrE) s
def execVsra (d a b : BitVec 8) (s : State) := int2 (.vsra d a b) intTypes d a b (fun _ => sraE) s
def execVrot (d a b : BitVec 8) (s : State) := int2 (.vrot d a b) intTypes d a b (fun _ => rotE) s
def execVand (d a b : BitVec 8) (s : State) := bits2 (.vand d a b) d a b (· &&& ·) s
def execVor (d a b : BitVec 8) (s : State) := bits2 (.vor d a b) d a b (· ||| ·) s
def execVxor (d a b : BitVec 8) (s : State) := bits2 (.vxor d a b) d a b (· ^^^ ·) s
def execVbfe (d a b : BitVec 8) (s : State) := int2 (.vbfe d a b) [4, 5, 10, 11] d a b (fun _ => bfeE) s
def execVbfi (d a b : BitVec 8) (s : State) := int3 (.vbfi d a b) [4, 5, 10, 11] d a b (fun _ => bfiE) s

/-- VSEL (R184): in every lane that is live and in Exec, whatever the guard holds there. -/
def execVsel (d a b : BitVec 8) (s : State) : Host.Outcome State Fault Refusal :=
  issue (.vsel d a b) false (fun s =>
    if vecOk anyTypes [d.toNat, a.toNat, b.toNat] s then
      .ok (s.modG fun g => g.setVals s.spl.type d.toNat (lanesOf s.execAnyGuard) fun l =>
        g.getVal s.spl.type (if g.getPr s.spl.guard l != s.spl.guardInv then a.toNat else b.toNat) l)
    else .bad 0x01) s

/-- VADDC (R184): the register d + 1 carries the carry in and out. -/
def execVaddc (d a b : BitVec 8) (s : State) : Host.Outcome State Fault Refusal :=
  issue (.vaddc d a b) false (fun s =>
    if vecOk [4, 5] [d.toNat, a.toNat, b.toNat] s then
      .ok (s.modG fun g =>
        let sum := fun l => (g.getV a.toNat l).toNat + (g.getV b.toNat l).toNat + (g.getV (d.toNat + 1) l).toNat % 2
        let ls := lanesOf s.writeLanes
        (g.setVs d.toNat ls fun l => BitVec.ofNat 32 (sum l)).setVs (d.toNat + 1) ls fun l =>
          BitVec.ofNat 32 (sum l / 2 ^ 32 % 2))
    else .bad 0x01) s

/-- The sum over the elements of a function of both. -/
def sumE (t : Nat) (f : Int → Int → Int) (va vb : Nat) : Int :=
  (List.range (tyOf t).n).foldl (fun acc i => acc + f (ival t (elem t va i)) (ival t (elem t vb i))) 0

/-- VSAD (R184): Wrap32 acts on n32. -/
def execVsad (d a b : BitVec 8) (s : State) : Host.Outcome State Fault Refusal :=
  vecOp (.vsad d a b) [0, 1, 2, 3, 4, 5] [d.toNat, a.toNat, b.toNat] d.toNat (fun x g l =>
    wrapT 5 x.sat (ival 5 (g.getV d.toNat l).toNat +
      sumE x.type (fun p q => (p - q).natAbs) (g.getV a.toNat l).toNat (g.getV b.toNat l).toNat)) s

/-- VDP4 (R184): d is read, and the sum wrapped, as s32 under s8x4 and as n32 under n8x4. -/
def execVdp4 (d a b : BitVec 8) (s : State) : Host.Outcome State Fault Refusal :=
  vecOp (.vdp4 d a b) [0, 1] [d.toNat, a.toNat, b.toNat] d.toNat (fun x g l =>
    let t := if x.type = 0 then 4 else 5
    wrapT t x.sat (ival t (g.getV d.toNat l).toNat +
      sumE x.type (fun p q => p * q) (g.getV a.toNat l).toNat (g.getV b.toNat l).toNat)) s

/-- VLUT3 (R184): each bit looks a 3-input function up in imm8. -/
def lut3 (k : Nat) (x y z : Nat) : Nat → Nat
  | 0 => 0
  | n + 1 => (k / 2 ^ (4 * (x / 2 ^ n % 2) + 2 * (y / 2 ^ n % 2) + z / 2 ^ n % 2) % 2) * 2 ^ n + lut3 k x y z n

def execVlut3 (d a i : BitVec 8) (s : State) : Host.Outcome State Fault Refusal :=
  vecOp32 (.vlut3 d a i) d.toNat (fun _ g l => BitVec.ofNat 32 (lut3 i.toNat (g.getV a.toNat l).toNat
    (g.getV (a.toNat + 1) l).toNat (g.getV d.toNat l).toNat 32)) s

def execVmovi (d : BitVec 8) (i : BitVec 16) (s : State) : Host.Outcome State Fault Refusal :=
  vecOp32 (.vmovi d i) d.toNat (fun _ _ _ => i.signExtend 32) s

def execVlane (d : BitVec 8) (s : State) : Host.Outcome State Fault Refusal :=
  vecOp32 (.vlane d) d.toNat (fun _ _ l => BitVec.ofNat 32 l) s

def execVmov (d a : BitVec 8) (s : State) : Host.Outcome State Fault Refusal :=
  vecOp (.vmov d a) anyTypes [d.toNat, a.toNat] d.toNat (fun x g l => g.getVal x.type a.toNat l) s

def execVnot (d a : BitVec 8) (s : State) : Host.Outcome State Fault Refusal :=
  vecOp (.vnot d a) anyTypes [d.toNat, a.toNat] d.toNat (fun x g l =>
    (if isPair x.type then 2 ^ 64 - 1 else 2 ^ 32 - 1) - g.getVal x.type a.toNat l) s

def execVabs (d a : BitVec 8) (s : State) := int1 (.vabs d a) d a absE s
def execVneg (d a : BitVec 8) (s : State) := int1 (.vneg d a) d a negE s
def execVclz (d a : BitVec 8) (s : State) := int1 (.vclz d a) d a (fun _ => clzE) s
def execVpopc (d a : BitVec 8) (s : State) := int1 (.vpopc d a) d a (fun _ => popcE) s
def execVbrev (d a : BitVec 8) (s : State) := int1 (.vbrev d a) d a (fun _ => brevE) s

/-- VBCAST (R184): sA, or the pair sA under a pair type, which must be even (R7). -/
def execVbcast (d : BitVec 8) (a : BitVec 7) (s : State) : Host.Outcome State Fault Refusal :=
  issue (.vbcast d a) false (fun s =>
    let p := isPair s.spl.type
    if vecOk anyTypes [d.toNat] s && (!p || decide (a.toNat % 2 = 0)) then
      .ok (s.modG fun g => g.setVals s.spl.type d.toNat (lanesOf s.writeLanes) fun _ =>
        if p then (s.getP a.toNat).toNat else (s.getS a.toNat).toNat)
    else .bad 0x01) s

/-- VCMP (R184). -/
def intCmp (i : Instr) (d : BitVec 7) (a b : BitVec 8) (c : Int → Int → Bool) (s : State) :
    Host.Outcome State Fault Refusal :=
  vecPred i [4, 5, 10, 11] [a.toNat, b.toNat] d.toNat (fun x g l =>
    c (ival x.type (g.getVal x.type a.toNat l)) (ival x.type (g.getVal x.type b.toNat l))) s

def execVcmpEq (d : BitVec 7) (a b : BitVec 8) (s : State) := intCmp (.vcmpEq d a b) d a b (fun x y => decide (x = y)) s
def execVcmpNe (d : BitVec 7) (a b : BitVec 8) (s : State) := intCmp (.vcmpNe d a b) d a b (fun x y => decide (x ≠ y)) s
def execVcmpLt (d : BitVec 7) (a b : BitVec 8) (s : State) := intCmp (.vcmpLt d a b) d a b (fun x y => decide (x < y)) s
def execVcmpLe (d : BitVec 7) (a b : BitVec 8) (s : State) := intCmp (.vcmpLe d a b) d a b (fun x y => decide (x ≤ y)) s
def execVcmpGt (d : BitVec 7) (a b : BitVec 8) (s : State) := intCmp (.vcmpGt d a b) d a b (fun x y => decide (x > y)) s
def execVcmpGe (d : BitVec 7) (a b : BitVec 8) (s : State) := intCmp (.vcmpGe d a b) d a b (fun x y => decide (x ≥ y)) s

/-! ### The divider (R185) -/

/-- Divide: quotient and remainder, each with the conditions. -/
def divideE (t x y : Nat) : ElemRes × ElemRes :=
  let a := ival t x
  let b := ival t y
  let w := (tyOf t).w
  if b = 0 then ((0, false, true, false), (x, false, true, false))
  else if (tyOf t).signed && decide (a = minT t ∧ b = -1) then
    ((wrap w (minT t), true, false, false), (0, true, false, false))
  else (okElem (wrap w (a.tdiv b)), okElem (wrap w (a.tmod b)))

/-- The elements of a division in a lane. -/
def divideLane (a b : BitVec 8) (x : Split) (g : Group) (l : Nat) : List (ElemRes × ElemRes) :=
  (List.range (tyOf x.type).n).map fun i =>
    divideE x.type (elem x.type (g.getVal x.type a.toNat l) i) (elem x.type (g.getVal x.type b.toNat l) i)

def execVdiv (d a b : BitVec 8) (s : State) : Host.Outcome State Fault Refusal :=
  dividerOp (.vdiv d a b) intTypes [d.toNat, a.toNat, b.toNat] (fun x g l =>
    [(d.toNat, (divideLane a b x g l).map (·.1))]) (fun _ => true) s

def execVrem (d a b : BitVec 8) (s : State) : Host.Outcome State Fault Refusal :=
  dividerOp (.vrem d a b) intTypes [d.toNat, a.toNat, b.toNat] (fun x g l =>
    [(d.toNat, (divideLane a b x g l).map (·.2))]) (fun _ => true) s

/-- VDIVM (R185): the remainder goes to d + 1, or to the pair d + 2 under a pair type. -/
def execVdivm (d a b : BitVec 8) (s : State) : Host.Outcome State Fault Refusal :=
  dividerOp (.vdivm d a b) intTypes [d.toNat, a.toNat, b.toNat] (fun x g l =>
    [(d.toNat, (divideLane a b x g l).map (·.1)),
     (d.toNat + (if isPair x.type then 2 else 1), (divideLane a b x g l).map (·.2))])
    (fun s => s.within d.toNat (if isPair s.spl.type then 4 else 2)) s

/-! ### Predicates (R188) -/

/-- A predicate form: it executes as a vector instruction, whatever MODE.Type holds. -/
def predOp (i : Instr) (d : BitVec 7) (f : Group → Nat → Bool) (s : State) : Host.Outcome State Fault Refusal :=
  simple i (fun s => s.modG fun g => g.setPs d.toNat (lanesOf s.writeLanes) (f g)) s

/-- The two-source forms with the inversions of imm3. -/
def predOp2 (i : Instr) (d a b : BitVec 7) (k : BitVec 3) (op : Bool → Bool → Bool) (s : State) :
    Host.Outcome State Fault Refusal :=
  predOp i d (fun g l =>
    op (g.getPr a.toNat l != k.getLsbD 0) (g.getPr b.toNat l != k.getLsbD 1) != k.getLsbD 2) s

def execPand (d a b : BitVec 7) (i : BitVec 3) (s : State) := predOp2 (.pand d a b i) d a b i (· && ·) s
def execPor (d a b : BitVec 7) (i : BitVec 3) (s : State) := predOp2 (.por d a b i) d a b i (· || ·) s
def execPxor (d a b : BitVec 7) (i : BitVec 3) (s : State) := predOp2 (.pxor d a b i) d a b i (· != ·) s
def execPnot (d a : BitVec 7) (s : State) := predOp (.pnot d a) d (fun g l => !g.getPr a.toNat l) s
def execPmov (d a : BitVec 7) (s : State) := predOp (.pmov d a) d (fun g l => g.getPr a.toNat l) s
def execPset (d : BitVec 7) (i : Bool) (s : State) := predOp (.pset d i) d (fun _ _ => i) s

/-- The lanes of Exec, other than dead lanes, in which a predicate is true, whatever the guard holds. -/
def trueLanes (s : State) (p : Nat) : LaneMask :=
  let m := s.spl.exec &&& ~~~s.grp.dead
  maskOf fun l => m.getLsbD l && s.grp.getPr p l

/-- The three words of a mask into three scalar registers. -/
def setMask (s : State) (d : Nat) (m : LaneMask) : State :=
  ((s.setS d (maskWord m 0)).setS (d + 1) (maskWord m 1)).setS (d + 2) (maskWord m 2)

def execPcnt (d a : BitVec 7) (s : State) : Host.Outcome State Fault Refusal :=
  simple (.pcnt d a) (fun s => s.setS d.toNat (BitVec.ofNat 32 (lanesOf (trueLanes s a.toNat)).length)) s

def execPtos (d a : BitVec 7) (s : State) : Host.Outcome State Fault Refusal :=
  simple (.ptos d a) (fun s => setMask s d.toNat (trueLanes s a.toNat)) s

def execPfroms (d a : BitVec 7) (s : State) : Host.Outcome State Fault Refusal :=
  simple (.pfroms d a) (fun s => s.modG fun g => g.setPs d.toNat (lanesOf s.writeLanes) fun l =>
    (s.getS (a.toNat + l / 32)).getLsbD (l % 32)) s

end Sys2Proof.Machine
end

