-- ==== Sys2Proof/Machine/CrossLane.lean ====
section
/-! DEFINITION. The cross-lane instructions (spec/07_scalar_vector.md R202 to R206; spec/02_number_formats.md R62, R63). -/

namespace Sys2Proof.Machine

/-- What a quad form reads of a source lane (R202): its register as it stands; 0 for a dead or absent lane. -/
def quadRead (g : Group) (t r l : Nat) : Nat :=
  if g.dead.getLsbD l || !((g.capable ||| g.helpers).getLsbD l) then 0 else g.getVal t r l

/-- What a shuffle reads of a source lane (R202): 0 outside the active set. -/
def shuffleRead (active : LaneMask) (g : Group) (t r l : Nat) : Nat := if active.getLsbD l then g.getVal t r l else 0

/-- A quad form that moves the register of position f i of the quad to position i (R203). -/
def quadMove (i : Instr) (d a : BitVec 8) (f : Nat → Nat) (s : State) : Host.Outcome State Fault Refusal :=
  vecOp i anyTypes [d.toNat, a.toNat] d.toNat (fun x g l => quadRead g x.type a.toNat (l / 4 * 4 + f (l % 4))) s

def execQswapx (d a : BitVec 8) (s : State) := quadMove (.qswapx d a) d a (fun i => i ^^^ 1) s
def execQswapy (d a : BitVec 8) (s : State) := quadMove (.qswapy d a) d a (fun i => i ^^^ 2) s
def execQbcast (d a : BitVec 8) (p : BitVec 2) (s : State) := quadMove (.qbcast d a p) d a (fun _ => p.toNat) s

/-- One element of QDIFF: RoundTo under MODE.Round on float types, Wrap on integer types. -/
def diffE (x : Split) (t va vb i : Nat) : ElemRes :=
  if (tyOf t).float then
    let p := readE x t va i
    let q := readE x t vb i
    floatRes x (tyFmt t) [p, q] false (sumN x.round [p, q.neg])
  else okElem (subE x.sat t (elem t va i) (elem t vb i))

/-- QDIFF (R203): .x subtracts position i and 2 from i or 1; .y subtracts i and 1 from i or 2. -/
def execQdiff (d a : BitVec 8) (y : Bool) (s : State) : Host.Outcome State Fault Refusal :=
  vecTrapping false (.qdiff d a y) [0, 1, 2, 3, 4, 5, 6, 7, 8, 9, 10, 11] [d.toNat, a.toNat] d.toNat (fun x g l =>
    let q := l / 4 * 4
    let i := l % 4
    let (hi, lo) := if y then (i ||| 2, i &&& 1) else (i ||| 1, i &&& 2)
    let va := quadRead g x.type a.toNat (q + hi)
    let vb := quadRead g x.type a.toNat (q + lo)
    (List.range (tyOf x.type).n).map (diffE x x.type va vb))
    (fun s => roundOk s || !(tyOf s.spl.type).float) s

/-- A shuffle (R204): src gives the source lane; outside 0 to 95 a lane keeps its own a. -/
def shuffle (i : Instr) (rs : List Nat) (d a : BitVec 8) (src : Group → Nat → Option Nat) (s : State) :
    Host.Outcome State Fault Refusal :=
  issue i false (fun s =>
    if vecOk anyTypes rs s then
      let act := s.execLanes
      .ok (s.modG fun g => g.setVals s.spl.type d.toNat (lanesOf s.writeLanes) fun l =>
        match src g l with
        | some k => if k < 96 then shuffleRead act g s.spl.type a.toNat k else g.getVal s.spl.type a.toNat l
        | none => g.getVal s.spl.type a.toNat l)
    else .bad 0x01) s

def execVshfl (d a b : BitVec 8) (s : State) :=
  shuffle (.vshfl d a b) [d.toNat, a.toNat, b.toNat] d a (fun g l => some (g.getV b.toNat l).toNat) s
def execVshflup (d a i : BitVec 8) (s : State) :=
  shuffle (.vshflup d a i) [d.toNat, a.toNat] d a (fun _ l => if i.toNat ≤ l then some (l - i.toNat) else none) s
def execVshfldn (d a i : BitVec 8) (s : State) :=
  shuffle (.vshfldn d a i) [d.toNat, a.toNat] d a (fun _ l => some (l + i.toNat)) s
def execVshflx (d a i : BitVec 8) (s : State) :=
  shuffle (.vshflx d a i) [d.toNat, a.toNat] d a (fun _ l => some (l ^^^ i.toNat)) s

/-! ### Votes and ballots (R205): the active set is restricted by the guard -/

/-- The lanes of the active set in which a predicate is true. -/
def activeTrue (s : State) (p : Nat) : LaneMask :=
  let m := s.execLanes
  maskOf fun l => m.getLsbD l && s.grp.getPr p l

/-- The vote of R205. -/
def voteHolds (m : VoteMode) (act yes : LaneMask) : Bool :=
  match m with
  | .all => yes == act
  | .any => yes != 0
  | .uni => yes == act || yes == 0

def execVvote (m : VoteMode) (d a : BitVec 7) (s : State) : Host.Outcome State Fault Refusal :=
  simple (.vvote m d a) (fun s =>
    s.setS d.toNat (if voteHolds m s.execLanes (activeTrue s a.toNat) then 1 else 0)) s

def execVballot (d a : BitVec 7) (s : State) : Host.Outcome State Fault Refusal :=
  simple (.vballot d a) (fun s => setMask s d.toNat (activeTrue s a.toNat)) s

/-- VMATCH (R205): .any is false, .all true. -/
def execVmatch (d a : BitVec 8) (all : Bool) (s : State) : Host.Outcome State Fault Refusal :=
  issue (.vmatch d a all) false (fun s =>
    if vecOk anyTypes [d.toNat, a.toNat] s then
      let act := s.execLanes
      let g := s.grp
      let val := fun l => g.getVal s.spl.type a.toNat l
      let same := (lanesOf act).all fun l => (lanesOf act).all fun k => val l == val k
      let res : Nat → LaneMask := fun l =>
        if all then (if same then act else 0) else maskOf fun k => act.getLsbD k && val k == val l
      let ls := lanesOf s.writeLanes
      .ok (s.modG fun g => (List.range 3).foldl (fun g k => g.setVs (d.toNat + k) ls fun l => maskWord (res l) k) g)
    else .bad 0x01) s

/-! ### Reductions and scans (R206) -/

/-- The identity of a reduction of an integer type. -/
def redIdentity (o : RedOp) (t : Nat) : Nat :=
  let w := (tyOf t).w
  match o with
  | .add | .or | .xor => 0
  | .and => 2 ^ w - 1
  | .min => wrap w (maxT t)
  | .max => wrap w (minT t)

/-- The reduction of the values of the active set. -/
def reduceInt (o : RedOp) (st : Bool) (t : Nat) (vs : List Nat) : Nat :=
  match o with
  | .add => wrapT t st ((vs.map (ival t)).foldl (· + ·) 0)
  | .min => vs.foldl (minE t) (redIdentity o t)
  | .max => vs.foldl (maxE t) (redIdentity o t)
  | .and => vs.foldl (· &&& ·) (redIdentity o t)
  | .or => vs.foldl (· ||| ·) 0
  | .xor => vs.foldl (· ^^^ ·) 0

def execVredi (d a : BitVec 8) (o : RedOp) (s : State) : Host.Outcome State Fault Refusal :=
  issue (.vredi d a o) false (fun s =>
    if vecOk [4, 5, 10, 11] [d.toNat, a.toNat] s then
      let t := s.spl.type
      let r := reduceInt o s.spl.sat t ((lanesOf s.execLanes).map fun l => s.grp.getVal t a.toNat l)
      .ok (s.modG fun g => g.setVals t d.toNat (lanesOf s.writeLanes) fun _ => r)
    else .bad 0x01) s

/-- ExactSum (R62) of bit patterns. -/
def exactSum (x : Split) (f : Fmt) (vs : List Nat) : Nat :=
  let ns := vs.map (readF f x.ftz)
  if ns.isEmpty then 0 else flushOut f x.ftz (roundTo f x.round false (sumN x.round ns))

/-- VSUMF (R206, R62): the invalid condition belongs to the sum; it is reported at the lowest lane that holds an infinity. -/
def execVsumf (d a : BitVec 8) (s : State) : Host.Outcome State Fault Refusal :=
  issue (.vsumf d a) false (fun s =>
    if vecOk floatTypes [d.toNat, a.toNat] s && roundOk s then
      let x := s.spl
      let t := x.type
      let f := tyFmt t
      let ls := lanesOf s.execLanes
      let col := fun k => ls.map fun l => elem t (s.grp.getVal t a.toNat l) k
      let r := pack t fun k => exactSum x f (col k)
      let u := s.modG fun g => g.setVals t d.toNat (lanesOf s.writeLanes) fun _ => r
      let bad := fun k => !((col k).any fun v => (decodeF f v).isNaN) && (decodeF f (exactSum x f (col k))).isNaN
      let n := (tyOf t).n
      let inf := fun l => (List.range n).any fun k => bad k && (decodeF f (elem t (s.grp.getVal t a.toNat l) k)).isInf
      match ls.find? inf with
      | some l => if x.trapInv then .trap 0x0A (BitVec.ofNat 64 l) u else .ok u
      | none => .ok u
    else .bad 0x01) s

/-- One step of a scan on an element. -/
def scanStep (x : Split) (t : Nat) (o : ScanOp) (p q : Nat) : Nat :=
  if (tyOf t).float then
    let f := tyFmt t
    let a := readF f x.ftz p
    let b := readF f x.ftz q
    flushOut f x.ftz (roundTo f x.round false (match o with
      | .add => sumN x.round [a, b]
      | .min => minN a b
      | .max => maxN a b))
  else match o with
    | .add => addE x.sat t p q
    | .min => minE t p q
    | .max => maxE t p q

/-- The identity of a scan (R206). -/
def scanIdentity (t : Nat) (o : ScanOp) : Nat :=
  if (tyOf t).float then
    match o with
    | .add => 0
    | .min => roundTo (tyFmt t) 0 false (.inf false)
    | .max => roundTo (tyFmt t) 0 false (.inf true)
  else redIdentity (match o with | .add => .add | .min => .min | .max => .max) t

/-- The first value of a scan: a float is read under FTZ and a NaN made canonical. -/
def scanFirst (x : Split) (t v : Nat) : Nat :=
  if (tyOf t).float then roundTo (tyFmt t) 0 false (readF (tyFmt t) x.ftz v) else v

/-- The running results of a list of elements, exclusive then inclusive at each position. -/
def scanList (x : Split) (t : Nat) (o : ScanOp) : Option Nat → List Nat → List (Nat × Nat)
  | _, [] => []
  | none, v :: r =>
    let a := scanFirst x t v
    (scanIdentity t o, a) :: scanList x t o (some a) r
  | some acc, v :: r =>
    let a := scanStep x t o acc v
    (acc, a) :: scanList x t o (some a) r

def execVscan (d a : BitVec 8) (o : ScanOp) (e : Bool) (s : State) : Host.Outcome State Fault Refusal :=
  issue (.vscan d a o e) false (fun s =>
    let x := s.spl
    let t := x.type
    if vecOk [4, 5, 6, 7, 8, 9, 10, 11] [d.toNat, a.toNat] s && (roundOk s || !(tyOf t).float) then
      let ls := lanesOf s.execLanes
      let col := fun k => ls.zip (scanList x t o none (ls.map fun l => elem t (s.grp.getVal t a.toNat l) k))
      let at_ := fun k l => match (col k).find? fun p => p.1 == l with
        | some p => if e then p.2.1 else p.2.2
        | none => 0
      .ok (s.modG fun g => g.setVals t d.toNat ls fun l => pack t fun k => at_ k l)
    else .bad 0x01) s

end Sys2Proof.Machine
end

