-- ==== Sys2Proof/Machine/Scalar.lean ====
section
/-! DEFINITION. The scalar ALU (spec/07_scalar_vector.md R178, R181): each form executes once for the issuing split. -/

namespace Sys2Proof.Machine

/-- A form that writes one scalar register from the split's registers. -/
def scalarOp (i : Instr) (d : BitVec 7) (f : Split → Word) (s : State) : Host.Outcome State Fault Refusal :=
  simple i (fun s => s.setS d.toNat (f s.spl)) s

/-- A form that writes a pair (R7). -/
def scalarOp64 (i : Instr) (d : BitVec 7) (f : Split → DWord) (s : State) : Host.Outcome State Fault Refusal :=
  simple i (fun s => s.setP d.toNat (f s.spl)) s

/-- Two source registers. -/
def alu2 (a b : BitVec 7) (f : Word → Word → Word) (x : Split) : Word := f (x.getS a.toNat) (x.getS b.toNat)

/-- Shifts by an n32 amount; 32 or more clears, or copies the sign bit (R181). -/
def shl32 (x n : Word) : Word := if n.toNat ≥ 32 then 0 else x <<< n.toNat
def shr32 (x n : Word) : Word := if n.toNat ≥ 32 then 0 else x >>> n.toNat
def sra32 (x n : Word) : Word := x.sshiftRight (min n.toNat 32)

/-- Bits 63:32 of the exact product, read as s32 (sub 0) or n32 (sub 1) (R181). -/
def mulHigh32 (unsigned : Bool) (x y : Word) : Word :=
  if unsigned then BitVec.ofNat 32 (x.toNat * y.toNat / 2 ^ 32) else BitVec.ofInt 32 (x.toInt * y.toInt / 2 ^ 32)

/-- The comparisons of SCMP (R127), on n-bit values. -/
def ccHolds {n : Nat} (c : Cc) (x y : BitVec n) : Bool :=
  match c with
  | .eq => x == y
  | .ne => x != y
  | .ltS => x.slt y
  | .leS => x.sle y
  | .ltN => x.ult y
  | .leN => x.ule y

/-- SBFE (R181): sub 0 zero-extends, sub 1 sign-extends. -/
def bitField32 (sgn : Bool) (x c : Word) : Word :=
  let p := c.toNat % 32
  let w := min (c.toNat / 256 % 64) (32 - p)
  let f := x.toNat / 2 ^ p % 2 ^ w
  if w = 0 then 0 else if sgn then w32 (signed w f) else BitVec.ofNat 32 f

/-- A truth value as 1 or 0. -/
def bool32 (b : Bool) : Word := if b then 1 else 0

/-- Minimum or maximum, as s32 (sub 0) or n32 (sub 1). -/
def min32 (unsigned : Bool) (x y : Word) : Word := if (if unsigned then x.ule y else x.sle y) then x else y
def max32 (unsigned : Bool) (x y : Word) : Word := if (if unsigned then y.ule x else y.sle x) then x else y

def execSmov (d a : BitVec 7) (s : State) := scalarOp (.smov d a) d (fun x => x.getS a.toNat) s
def execSmovi (d : BitVec 7) (i : BitVec 16) (s : State) := scalarOp (.smovi d i) d (fun _ => i.signExtend 32) s
def execSmovh (d : BitVec 7) (i : BitVec 16) (s : State) :=
  scalarOp (.smovh d i) d (fun x => (i.zeroExtend 32 <<< 16) ||| (x.getS d.toNat &&& 0xFFFF)) s
def execSadd (d a b : BitVec 7) (s : State) := scalarOp (.sadd d a b) d (alu2 a b (· + ·)) s
def execSsub (d a b : BitVec 7) (s : State) := scalarOp (.ssub d a b) d (alu2 a b (· - ·)) s
def execSmul (d a b : BitVec 7) (s : State) := scalarOp (.smul d a b) d (alu2 a b (· * ·)) s
def execSmulh (u : Bool) (d a b : BitVec 7) (s : State) := scalarOp (.smulh u d a b) d (alu2 a b (mulHigh32 u)) s
def execSand (d a b : BitVec 7) (s : State) := scalarOp (.sand d a b) d (alu2 a b (· &&& ·)) s
def execSor (d a b : BitVec 7) (s : State) := scalarOp (.sor d a b) d (alu2 a b (· ||| ·)) s
def execSxor (d a b : BitVec 7) (s : State) := scalarOp (.sxor d a b) d (alu2 a b (· ^^^ ·)) s
def execSnot (d a : BitVec 7) (s : State) := scalarOp (.snot d a) d (fun x => ~~~x.getS a.toNat) s
def execSshl (d a b : BitVec 7) (s : State) := scalarOp (.sshl d a b) d (alu2 a b shl32) s
def execSshr (d a b : BitVec 7) (s : State) := scalarOp (.sshr d a b) d (alu2 a b shr32) s
def execSsra (d a b : BitVec 7) (s : State) := scalarOp (.ssra d a b) d (alu2 a b sra32) s
def execSmin (u : Bool) (d a b : BitVec 7) (s : State) := scalarOp (.smin u d a b) d (alu2 a b (min32 u)) s
def execSmax (u : Bool) (d a b : BitVec 7) (s : State) := scalarOp (.smax u d a b) d (alu2 a b (max32 u)) s
def execScmp (c : Cc) (d a b : BitVec 7) (s : State) :=
  scalarOp (.scmp c d a b) d (alu2 a b fun x y => bool32 (ccHolds c x y)) s
def execSsel (d a b : BitVec 7) (s : State) :=
  scalarOp (.ssel d a b) d (fun x => if x.getS d.toNat ≠ 0 then x.getS a.toNat else x.getS b.toNat) s
def execSpopc (d a : BitVec 7) (s : State) :=
  scalarOp (.spopc d a) d (fun x => BitVec.ofNat 32 (popc 32 (x.getS a.toNat).toNat)) s
def execSclz (d a : BitVec 7) (s : State) :=
  scalarOp (.sclz d a) d (fun x => BitVec.ofNat 32 (clz 32 (x.getS a.toNat).toNat)) s
def execSbrev (d a : BitVec 7) (s : State) :=
  scalarOp (.sbrev d a) d (fun x => BitVec.ofNat 32 (brev 32 (x.getS a.toNat).toNat)) s
def execSbfe (g : Bool) (d a b : BitVec 7) (s : State) := scalarOp (.sbfe g d a b) d (alu2 a b (bitField32 g)) s
/-- SLDA (R182): the 4 bytes at a constant offset (R26). -/
def execSlda (d : BitVec 7) (i : BitVec 16) (s : State) :=
  simple (.slda d i) (fun s => s.setS d.toNat (BitVec.ofNat 32 (ofBytes (s.const i.toNat 4)))) s
def execSadd64 (d a b : BitVec 7) (s : State) :=
  scalarOp64 (.sadd64 d a b) d (fun x => x.getP a.toNat + x.getP b.toNat) s
def execSsub64 (d a b : BitVec 7) (s : State) :=
  scalarOp64 (.ssub64 d a b) d (fun x => x.getP a.toNat - x.getP b.toNat) s
def execScmp64 (c : Cc) (d a b : BitVec 7) (s : State) :=
  scalarOp (.scmp64 c d a b) d (fun x => bool32 (ccHolds c (x.getP a.toNat) (x.getP b.toNat))) s

/-- The immediate forms (R127): sD := sD op imm. -/
def aluImm (d : BitVec 7) (v : Word) (f : Word → Word → Word) (x : Split) : Word := f (x.getS d.toNat) v
def execSaddImm (d : BitVec 7) (i : BitVec 16) (s : State) :=
  scalarOp (.saddImm d i) d (aluImm d (i.signExtend 32) (· + ·)) s
def execSsubImm (d : BitVec 7) (i : BitVec 16) (s : State) :=
  scalarOp (.ssubImm d i) d (aluImm d (i.signExtend 32) (· - ·)) s
def execSmulImm (d : BitVec 7) (i : BitVec 16) (s : State) :=
  scalarOp (.smulImm d i) d (aluImm d (i.signExtend 32) (· * ·)) s
def execSandImm (d : BitVec 7) (i : BitVec 16) (s : State) :=
  scalarOp (.sandImm d i) d (aluImm d (i.zeroExtend 32) (· &&& ·)) s
def execSorImm (d : BitVec 7) (i : BitVec 16) (s : State) :=
  scalarOp (.sorImm d i) d (aluImm d (i.zeroExtend 32) (· ||| ·)) s
def execSxorImm (d : BitVec 7) (i : BitVec 16) (s : State) :=
  scalarOp (.sxorImm d i) d (aluImm d (i.zeroExtend 32) (· ^^^ ·)) s
def execSshlImm (d : BitVec 7) (i : BitVec 5) (s : State) :=
  scalarOp (.sshlImm d i) d (aluImm d (i.zeroExtend 32) shl32) s
def execSshrImm (d : BitVec 7) (i : BitVec 5) (s : State) :=
  scalarOp (.sshrImm d i) d (aluImm d (i.zeroExtend 32) shr32) s
def execSsraImm (d : BitVec 7) (i : BitVec 5) (s : State) :=
  scalarOp (.ssraImm d i) d (aluImm d (i.zeroExtend 32) sra32) s

end Sys2Proof.Machine
end

