-- ==== Sys2Proof/Machine/Dispatch.lean ====
section
/-! DEFINITION. The meaning of every instruction and operation: one arm per constructor of Instr, each one call. -/

namespace Sys2Proof.Machine

def exec (i : Instr) (s : State) : Host.Outcome State Fault Refusal :=
  match i with
  | .smov x0 x1 => Sys2Proof.Machine.execSmov x0 x1 s
  | .smovi x0 x1 => Sys2Proof.Machine.execSmovi x0 x1 s
  | .smovh x0 x1 => Sys2Proof.Machine.execSmovh x0 x1 s
  | .sadd x0 x1 x2 => Sys2Proof.Machine.execSadd x0 x1 x2 s
  | .ssub x0 x1 x2 => Sys2Proof.Machine.execSsub x0 x1 x2 s
  | .smul x0 x1 x2 => Sys2Proof.Machine.execSmul x0 x1 x2 s
  | .smulh x0 x1 x2 x3 => Sys2Proof.Machine.execSmulh x0 x1 x2 x3 s
  | .sand x0 x1 x2 => Sys2Proof.Machine.execSand x0 x1 x2 s
  | .sor x0 x1 x2 => Sys2Proof.Machine.execSor x0 x1 x2 s
  | .sxor x0 x1 x2 => Sys2Proof.Machine.execSxor x0 x1 x2 s
  | .snot x0 x1 => Sys2Proof.Machine.execSnot x0 x1 s
  | .sshl x0 x1 x2 => Sys2Proof.Machine.execSshl x0 x1 x2 s
  | .sshr x0 x1 x2 => Sys2Proof.Machine.execSshr x0 x1 x2 s
  | .ssra x0 x1 x2 => Sys2Proof.Machine.execSsra x0 x1 x2 s
  | .smin x0 x1 x2 x3 => Sys2Proof.Machine.execSmin x0 x1 x2 x3 s
  | .smax x0 x1 x2 x3 => Sys2Proof.Machine.execSmax x0 x1 x2 x3 s
  | .scmp x0 x1 x2 x3 => Sys2Proof.Machine.execScmp x0 x1 x2 x3 s
  | .ssel x0 x1 x2 => Sys2Proof.Machine.execSsel x0 x1 x2 s
  | .spopc x0 x1 => Sys2Proof.Machine.execSpopc x0 x1 s
  | .sclz x0 x1 => Sys2Proof.Machine.execSclz x0 x1 s
  | .sbrev x0 x1 => Sys2Proof.Machine.execSbrev x0 x1 s
  | .sbfe x0 x1 x2 x3 => Sys2Proof.Machine.execSbfe x0 x1 x2 x3 s
  | .sld x0 x1 x2 x3 => Sys2Proof.Machine.execSld x0 x1 x2 x3 s
  | .sst x0 x1 x2 x3 => Sys2Proof.Machine.execSst x0 x1 x2 x3 s
  | .slda x0 x1 => Sys2Proof.Machine.execSlda x0 x1 s
  | .sadd64 x0 x1 x2 => Sys2Proof.Machine.execSadd64 x0 x1 x2 s
  | .ssub64 x0 x1 x2 => Sys2Proof.Machine.execSsub64 x0 x1 x2 s
  | .scmp64 x0 x1 x2 x3 => Sys2Proof.Machine.execScmp64 x0 x1 x2 x3 s
  | .saddImm x0 x1 => Sys2Proof.Machine.execSaddImm x0 x1 s
  | .ssubImm x0 x1 => Sys2Proof.Machine.execSsubImm x0 x1 s
  | .smulImm x0 x1 => Sys2Proof.Machine.execSmulImm x0 x1 s
  | .sandImm x0 x1 => Sys2Proof.Machine.execSandImm x0 x1 s
  | .sorImm x0 x1 => Sys2Proof.Machine.execSorImm x0 x1 s
  | .sxorImm x0 x1 => Sys2Proof.Machine.execSxorImm x0 x1 s
  | .sshlImm x0 x1 => Sys2Proof.Machine.execSshlImm x0 x1 s
  | .sshrImm x0 x1 => Sys2Proof.Machine.execSshrImm x0 x1 s
  | .ssraImm x0 x1 => Sys2Proof.Machine.execSsraImm x0 x1 s
  | .bra x0 => Sys2Proof.Machine.execBra x0 s
  | .brx x0 => Sys2Proof.Machine.execBrx x0 s
  | .call x0 => Sys2Proof.Machine.execCall x0 s
  | .callx x0 => Sys2Proof.Machine.execCallx x0 s
  | .elect x0 x1 => Sys2Proof.Machine.execElect x0 x1 s
  | .clauseHeader x0 x1 x2 x3 x4 x5 x6 => Sys2Proof.Machine.execClauseHeader x0 x1 x2 x3 x4 x5 x6 s
  | .mode x0 x1 x2 x3 x4 x5 x6 x7 x8 x9 => Sys2Proof.Machine.execMode x0 x1 x2 x3 x4 x5 x6 x7 x8 x9 s
  | .modes x0 => Sys2Proof.Machine.execModes x0 s
  | .modesSwap x0 x1 => Sys2Proof.Machine.execModesSwap x0 x1 s
  | .waitf x0 => Sys2Proof.Machine.execWaitf x0 s
  | .sigchk x0 => Sys2Proof.Machine.execSigchk x0 s
  | .trap x0 => Sys2Proof.Machine.execTrap x0 s
  | .sysr x0 x1 => Sys2Proof.Machine.execSysr x0 x1 s
  | .sysw x0 x1 => Sys2Proof.Machine.execSysw x0 x1 s
  | .qsub x0 x1 => Sys2Proof.Machine.execQsub x0 x1 s
  | .rcommit x0 => Sys2Proof.Machine.execRcommit x0 s
  | .sleep x0 => Sys2Proof.Machine.execSleep x0 s
  | .vadd x0 x1 x2 => Sys2Proof.Machine.execVadd x0 x1 x2 s
  | .vsub x0 x1 x2 => Sys2Proof.Machine.execVsub x0 x1 x2 s
  | .vmul x0 x1 x2 => Sys2Proof.Machine.execVmul x0 x1 x2 s
  | .vmulh x0 x1 x2 => Sys2Proof.Machine.execVmulh x0 x1 x2 s
  | .vmad x0 x1 x2 => Sys2Proof.Machine.execVmad x0 x1 x2 s
  | .vmadh x0 x1 x2 => Sys2Proof.Machine.execVmadh x0 x1 x2 s
  | .vdiv x0 x1 x2 => Sys2Proof.Machine.execVdiv x0 x1 x2 s
  | .vrem x0 x1 x2 => Sys2Proof.Machine.execVrem x0 x1 x2 s
  | .vdivm x0 x1 x2 => Sys2Proof.Machine.execVdivm x0 x1 x2 s
  | .vand x0 x1 x2 => Sys2Proof.Machine.execVand x0 x1 x2 s
  | .vor x0 x1 x2 => Sys2Proof.Machine.execVor x0 x1 x2 s
  | .vxor x0 x1 x2 => Sys2Proof.Machine.execVxor x0 x1 x2 s
  | .vshl x0 x1 x2 => Sys2Proof.Machine.execVshl x0 x1 x2 s
  | .vshr x0 x1 x2 => Sys2Proof.Machine.execVshr x0 x1 x2 s
  | .vsra x0 x1 x2 => Sys2Proof.Machine.execVsra x0 x1 x2 s
  | .vrot x0 x1 x2 => Sys2Proof.Machine.execVrot x0 x1 x2 s
  | .vmin x0 x1 x2 => Sys2Proof.Machine.execVmin x0 x1 x2 s
  | .vmax x0 x1 x2 => Sys2Proof.Machine.execVmax x0 x1 x2 s
  | .vbfe x0 x1 x2 => Sys2Proof.Machine.execVbfe x0 x1 x2 s
  | .vbfi x0 x1 x2 => Sys2Proof.Machine.execVbfi x0 x1 x2 s
  | .vsel x0 x1 x2 => Sys2Proof.Machine.execVsel x0 x1 x2 s
  | .vaddc x0 x1 x2 => Sys2Proof.Machine.execVaddc x0 x1 x2 s
  | .vsad x0 x1 x2 => Sys2Proof.Machine.execVsad x0 x1 x2 s
  | .vdp4 x0 x1 x2 => Sys2Proof.Machine.execVdp4 x0 x1 x2 s
  | .vlut3 x0 x1 x2 => Sys2Proof.Machine.execVlut3 x0 x1 x2 s
  | .vmovi x0 x1 => Sys2Proof.Machine.execVmovi x0 x1 s
  | .vmov x0 x1 => Sys2Proof.Machine.execVmov x0 x1 s
  | .vnot x0 x1 => Sys2Proof.Machine.execVnot x0 x1 s
  | .vabs x0 x1 => Sys2Proof.Machine.execVabs x0 x1 s
  | .vneg x0 x1 => Sys2Proof.Machine.execVneg x0 x1 s
  | .vclz x0 x1 => Sys2Proof.Machine.execVclz x0 x1 s
  | .vpopc x0 x1 => Sys2Proof.Machine.execVpopc x0 x1 s
  | .vbrev x0 x1 => Sys2Proof.Machine.execVbrev x0 x1 s
  | .vlane x0 => Sys2Proof.Machine.execVlane x0 s
  | .vbcast x0 x1 => Sys2Proof.Machine.execVbcast x0 x1 s
  | .vcmpEq x0 x1 x2 => Sys2Proof.Machine.execVcmpEq x0 x1 x2 s
  | .vcmpNe x0 x1 x2 => Sys2Proof.Machine.execVcmpNe x0 x1 x2 s
  | .vcmpLt x0 x1 x2 => Sys2Proof.Machine.execVcmpLt x0 x1 x2 s
  | .vcmpLe x0 x1 x2 => Sys2Proof.Machine.execVcmpLe x0 x1 x2 s
  | .vcmpGt x0 x1 x2 => Sys2Proof.Machine.execVcmpGt x0 x1 x2 s
  | .vcmpGe x0 x1 x2 => Sys2Proof.Machine.execVcmpGe x0 x1 x2 s
  | .pand x0 x1 x2 x3 => Sys2Proof.Machine.execPand x0 x1 x2 x3 s
  | .por x0 x1 x2 x3 => Sys2Proof.Machine.execPor x0 x1 x2 x3 s
  | .pxor x0 x1 x2 x3 => Sys2Proof.Machine.execPxor x0 x1 x2 x3 s
  | .pnot x0 x1 => Sys2Proof.Machine.execPnot x0 x1 s
  | .pmov x0 x1 => Sys2Proof.Machine.execPmov x0 x1 s
  | .pset x0 x1 => Sys2Proof.Machine.execPset x0 x1 s
  | .pcnt x0 x1 => Sys2Proof.Machine.execPcnt x0 x1 s
  | .pfroms x0 x1 => Sys2Proof.Machine.execPfroms x0 x1 s
  | .ptos x0 x1 => Sys2Proof.Machine.execPtos x0 x1 s
  | .vfadd x0 x1 x2 => Sys2Proof.Machine.execVfadd x0 x1 x2 s
  | .vfsub x0 x1 x2 => Sys2Proof.Machine.execVfsub x0 x1 x2 s
  | .vfmul x0 x1 x2 => Sys2Proof.Machine.execVfmul x0 x1 x2 s
  | .vfma x0 x1 x2 => Sys2Proof.Machine.execVfma x0 x1 x2 s
  | .vfmin x0 x1 x2 => Sys2Proof.Machine.execVfmin x0 x1 x2 s
  | .vfmax x0 x1 x2 => Sys2Proof.Machine.execVfmax x0 x1 x2 s
  | .vfdiv x0 x1 x2 => Sys2Proof.Machine.execVfdiv x0 x1 x2 s
  | .vfldexp x0 x1 x2 => Sys2Proof.Machine.execVfldexp x0 x1 x2 s
  | .vdot2 x0 x1 x2 => Sys2Proof.Machine.execVdot2 x0 x1 x2 s
  | .vfcmpEq x0 x1 x2 => Sys2Proof.Machine.execVfcmpEq x0 x1 x2 s
  | .vfcmpNe x0 x1 x2 => Sys2Proof.Machine.execVfcmpNe x0 x1 x2 s
  | .vfcmpLt x0 x1 x2 => Sys2Proof.Machine.execVfcmpLt x0 x1 x2 s
  | .vfcmpLe x0 x1 x2 => Sys2Proof.Machine.execVfcmpLe x0 x1 x2 s
  | .vfcmpGt x0 x1 x2 => Sys2Proof.Machine.execVfcmpGt x0 x1 x2 s
  | .vfcmpGe x0 x1 x2 => Sys2Proof.Machine.execVfcmpGe x0 x1 x2 s
  | .vfcmpUn x0 x1 x2 => Sys2Proof.Machine.execVfcmpUn x0 x1 x2 s
  | .vfcmpOrd x0 x1 x2 => Sys2Proof.Machine.execVfcmpOrd x0 x1 x2 s
  | .vfabs x0 x1 => Sys2Proof.Machine.execVfabs x0 x1 s
  | .vfneg x0 x1 => Sys2Proof.Machine.execVfneg x0 x1 s
  | .vrcp x0 x1 => Sys2Proof.Machine.execVrcp x0 x1 s
  | .vrsq x0 x1 => Sys2Proof.Machine.execVrsq x0 x1 s
  | .vsqrt x0 x1 => Sys2Proof.Machine.execVsqrt x0 x1 s
  | .vexp2 x0 x1 => Sys2Proof.Machine.execVexp2 x0 x1 s
  | .vlog2 x0 x1 => Sys2Proof.Machine.execVlog2 x0 x1 s
  | .vsin x0 x1 => Sys2Proof.Machine.execVsin x0 x1 s
  | .vcos x0 x1 => Sys2Proof.Machine.execVcos x0 x1 s
  | .vtanh x0 x1 => Sys2Proof.Machine.execVtanh x0 x1 s
  | .vfrc x0 x1 => Sys2Proof.Machine.execVfrc x0 x1 s
  | .vfrnd x0 x1 => Sys2Proof.Machine.execVfrnd x0 x1 s
  | .vfgexp x0 x1 => Sys2Proof.Machine.execVfgexp x0 x1 s
  | .vfclass x0 x1 => Sys2Proof.Machine.execVfclass x0 x1 s
  | .vact x0 x1 x2 => Sys2Proof.Machine.execVact x0 x1 x2 s
  | .actld x0 x1 => Sys2Proof.Machine.execActld x0 x1 s
  | .vcvt x0 x1 x2 => Sys2Proof.Machine.execVcvt x0 x1 x2 s
  | .vquant x0 x1 x2 => Sys2Proof.Machine.execVquant x0 x1 x2 s
  | .vdeq x0 x1 x2 => Sys2Proof.Machine.execVdeq x0 x1 x2 s
  | .vpack x0 x1 x2 => Sys2Proof.Machine.execVpack x0 x1 x2 s
  | .vunpack x0 x1 x2 => Sys2Proof.Machine.execVunpack x0 x1 x2 s
  | .vexpand x0 x1 x2 => Sys2Proof.Machine.execVexpand x0 x1 x2 s
  | .qswapx x0 x1 => Sys2Proof.Machine.execQswapx x0 x1 s
  | .qswapy x0 x1 => Sys2Proof.Machine.execQswapy x0 x1 s
  | .qbcast x0 x1 x2 => Sys2Proof.Machine.execQbcast x0 x1 x2 s
  | .qdiff x0 x1 x2 => Sys2Proof.Machine.execQdiff x0 x1 x2 s
  | .vshfl x0 x1 x2 => Sys2Proof.Machine.execVshfl x0 x1 x2 s
  | .vshflup x0 x1 x2 => Sys2Proof.Machine.execVshflup x0 x1 x2 s
  | .vshfldn x0 x1 x2 => Sys2Proof.Machine.execVshfldn x0 x1 x2 s
  | .vshflx x0 x1 x2 => Sys2Proof.Machine.execVshflx x0 x1 x2 s
  | .vvote x0 x1 x2 => Sys2Proof.Machine.execVvote x0 x1 x2 s
  | .vballot x0 x1 => Sys2Proof.Machine.execVballot x0 x1 s
  | .vmatch x0 x1 x2 => Sys2Proof.Machine.execVmatch x0 x1 x2 s
  | .vredi x0 x1 x2 => Sys2Proof.Machine.execVredi x0 x1 x2 s
  | .vsumf x0 x1 => Sys2Proof.Machine.execVsumf x0 x1 s
  | .vscan x0 x1 x2 x3 => Sys2Proof.Machine.execVscan x0 x1 x2 x3 s
  | .ldG32 x0 x1 x2 x3 => Sys2Proof.Machine.execLdG32 x0 x1 x2 x3 s
  | .ldG64 x0 x1 x2 x3 => Sys2Proof.Machine.execLdG64 x0 x1 x2 x3 s
  | .ldG128 x0 x1 x2 x3 => Sys2Proof.Machine.execLdG128 x0 x1 x2 x3 s
  | .stG32 x0 x1 x2 x3 => Sys2Proof.Machine.execStG32 x0 x1 x2 x3 s
  | .stG64 x0 x1 x2 x3 => Sys2Proof.Machine.execStG64 x0 x1 x2 x3 s
  | .stG128 x0 x1 x2 x3 => Sys2Proof.Machine.execStG128 x0 x1 x2 x3 s
  | .lds x0 x1 x2 x3 => Sys2Proof.Machine.execLds x0 x1 x2 x3 s
  | .sts x0 x1 x2 x3 => Sys2Proof.Machine.execSts x0 x1 x2 x3 s
  | .ldc x0 x1 x2 x3 => Sys2Proof.Machine.execLdc x0 x1 x2 x3 s
  | .ldAcq x0 x1 x2 x3 => Sys2Proof.Machine.execLdAcq x0 x1 x2 x3 s
  | .stRel x0 x1 x2 x3 => Sys2Proof.Machine.execStRel x0 x1 x2 x3 s
  | .atom x0 x1 x2 x3 x4 x5 => Sys2Proof.Machine.execAtom x0 x1 x2 x3 x4 x5 s
  | .red x0 x1 x2 x3 x4 x5 => Sys2Proof.Machine.execRed x0 x1 x2 x3 x4 x5 s
  | .scatadd x0 x1 x2 x3 x4 x5 => Sys2Proof.Machine.execScatadd x0 x1 x2 x3 x4 x5 s
  | .pref x0 x1 x2 => Sys2Proof.Machine.execPref x0 x1 x2 s
  | .fence x0 => Sys2Proof.Machine.execFence x0 s
  | .acq x0 x1 x2 => Sys2Proof.Machine.execAcq x0 x1 x2 s
  | .rel x0 x1 x2 => Sys2Proof.Machine.execRel x0 x1 x2 s
  | .bind x0 x1 x2 => Sys2Proof.Machine.execBind x0 x1 x2 s
  | .unbind x0 => Sys2Proof.Machine.execUnbind x0 s
  | .bari x0 x1 x2 => Sys2Proof.Machine.execBari x0 x1 x2 s
  | .bara x0 x1 x2 x3 => Sys2Proof.Machine.execBara x0 x1 x2 x3 s
  | .bart x0 x1 x2 x3 => Sys2Proof.Machine.execBart x0 x1 x2 x3 s
  | .barw x0 x1 x2 => Sys2Proof.Machine.execBarw x0 x1 x2 s
  | .barq x0 x1 x2 => Sys2Proof.Machine.execBarq x0 x1 x2 s
  | .patld x0 x1 => Sys2Proof.Machine.execPatld x0 x1 s
  | .scp x0 x1 x2 x3 => Sys2Proof.Machine.execScp x0 x1 x2 x3 s
  | .scpo x0 x1 x2 x3 => Sys2Proof.Machine.execScpo x0 x1 x2 x3 s
  | .sgath x0 x1 x2 x3 => Sys2Proof.Machine.execSgath x0 x1 x2 x3 s
  | .sscat x0 x1 x2 x3 => Sys2Proof.Machine.execSscat x0 x1 x2 x3 s
  | .sdeq x0 x1 x2 x3 => Sys2Proof.Machine.execSdeq x0 x1 x2 x3 s
  | .sfill x0 x1 x2 => Sys2Proof.Machine.execSfill x0 x1 x2 s
  | .sxpos x0 x1 x2 x3 => Sys2Proof.Machine.execSxpos x0 x1 x2 x3 s
  | .sclose x0 => Sys2Proof.Machine.execSclose x0 s
  | .swait x0 => Sys2Proof.Machine.execSwait x0 s
  | .sqfence x0 => Sys2Proof.Machine.execSqfence x0 s
  | .scancel x0 => Sys2Proof.Machine.execScancel x0 s
  | .ldtTile x0 x1 x2 x3 => Sys2Proof.Machine.execLdtTile x0 x1 x2 x3 s
  | .ldtDescriptors x0 x1 => Sys2Proof.Machine.execLdtDescriptors x0 x1 s
  | .ldtCounters x0 => Sys2Proof.Machine.execLdtCounters x0 s
  | .mma x0 x1 x2 x3 x4 => Sys2Proof.Machine.execMma x0 x1 x2 x3 x4 s
  | .mmaR x0 x1 => Sys2Proof.Machine.execMmaR x0 x1 s
  | .accz x0 => Sys2Proof.Machine.execAccz x0 s
  | .accpin x0 x1 => Sys2Proof.Machine.execAccpin x0 x1 s
  | .accunpin x0 => Sys2Proof.Machine.execAccunpin x0 s
  | .accren x0 => Sys2Proof.Machine.execAccren x0 s
  | .accrd x0 x1 x2 x3 => Sys2Proof.Machine.execAccrd x0 x1 x2 x3 s
  | .accrdw x0 x1 x2 x3 => Sys2Proof.Machine.execAccrdw x0 x1 x2 x3 s
  | .accaddAcc x0 x1 => Sys2Proof.Machine.execAccaddAcc x0 x1 s
  | .accaddScratch x0 x1 x2 x3 => Sys2Proof.Machine.execAccaddScratch x0 x1 x2 x3 s
  | .accstat x0 x1 x2 => Sys2Proof.Machine.execAccstat x0 x1 x2 s
  | .msbar x0 => Sys2Proof.Machine.execMsbar x0 s
  | .mswait x0 => Sys2Proof.Machine.execMswait x0 s
  | .msloop x0 x1 => Sys2Proof.Machine.execMsloop x0 x1 s
  | .msjmp x0 => Sys2Proof.Machine.execMsjmp x0 s
  | .msrestart x0 => Sys2Proof.Machine.execMsrestart x0 s
  | .mscfgGuard x0 => Sys2Proof.Machine.execMscfgGuard x0 s
  | .mscfgRound x0 x1 x2 => Sys2Proof.Machine.execMscfgRound x0 x1 x2 s
  | .mscfgScale x0 => Sys2Proof.Machine.execMscfgScale x0 s
  | .mscfgWide x0 x1 => Sys2Proof.Machine.execMscfgWide x0 x1 s
  | .lbay x0 x1 => Sys2Proof.Machine.execLbay x0 x1 s
  | .lfree x0 => Sys2Proof.Machine.execLfree x0 s
  | .lxin x0 x1 x2 x3 => Sys2Proof.Machine.execLxin x0 x1 x2 x3 s
  | .lxout x0 x1 x2 x3 => Sys2Proof.Machine.execLxout x0 x1 x2 x3 s
  | .lop x0 x1 x2 x3 => Sys2Proof.Machine.execLop x0 x1 x2 x3 s
  | .lops x0 x1 x2 x3 => Sys2Proof.Machine.execLops x0 x1 x2 x3 s
  | .lcmp x0 x1 x2 x3 => Sys2Proof.Machine.execLcmp x0 x1 x2 x3 s
  | .lcmps x0 x1 x2 x3 => Sys2Proof.Machine.execLcmps x0 x1 x2 x3 s
  | .lpop x0 x1 => Sys2Proof.Machine.execLpop x0 x1 s
  | .lsel x0 x1 x2 => Sys2Proof.Machine.execLsel x0 x1 x2 s
  | .lsrch x0 x1 x2 => Sys2Proof.Machine.execLsrch x0 x1 x2 s
  | .lshift x0 x1 x2 => Sys2Proof.Machine.execLshift x0 x1 x2 s
  | .kvxRd x0 x1 => Sys2Proof.Machine.execKvxRd x0 x1 s
  | .kvxWr x0 x1 => Sys2Proof.Machine.execKvxWr x0 x1 s
  | .kvpin x0 x1 => Sys2Proof.Machine.execKvpin x0 x1 s
  | .kvrel x0 x1 => Sys2Proof.Machine.execKvrel x0 x1 s
  | .loftOperationEnd x0 x1 => Sys2Proof.Machine.execLoftOperationEnd x0 x1 s
  | .atomicComplete x0 => Sys2Proof.Machine.execAtomicComplete x0 s
  | .dividerComplete x0 => Sys2Proof.Machine.execDividerComplete x0 s
  | .pantryWalkComplete x0 => Sys2Proof.Machine.execPantryWalkComplete x0 s
  | .loadComplete x0 => Sys2Proof.Machine.execLoadComplete x0 s
  | .storeAck x0 x1 => Sys2Proof.Machine.execStoreAck x0 x1 s
  | .engineSectorWrite x0 x1 x2 => Sys2Proof.Machine.execEngineSectorWrite x0 x1 x2 s
  | .actldLoadEnd x0 x1 x2 => Sys2Proof.Machine.execActldLoadEnd x0 x1 x2 s
  | .sleepExpire x0 x1 x2 => Sys2Proof.Machine.execSleepExpire x0 x1 x2 s
  | .blockRetire x0 => Sys2Proof.Machine.execBlockRetire x0 s
  | .gridRetire x0 => Sys2Proof.Machine.execGridRetire x0 s
  | .mergeWaitTimeout x0 x1 x2 => Sys2Proof.Machine.execMergeWaitTimeout x0 x1 x2 s
  | .ret => Sys2Proof.Machine.execRet s
  | .exit => Sys2Proof.Machine.execExit s
  | .yield => Sys2Proof.Machine.execYield s
  | .nop => Sys2Proof.Machine.execNop s
  | .rteRetry => Sys2Proof.Machine.execRteRetry s
  | .rteCont => Sys2Proof.Machine.execRteCont s
  | .msend => Sys2Proof.Machine.execMsend s
  | .lwait => Sys2Proof.Machine.execLwait s
  | .doorbell x0 x1 x2 => Sys2Proof.Machine.execDoorbell x0 x1 x2 s
  | .queueEnable x0 x1 => Sys2Proof.Machine.execQueueEnable x0 x1 s
  | .evqcfgWrite x0 x1 x2 x3 x4 x5 => Sys2Proof.Machine.execEvqcfgWrite x0 x1 x2 x3 x4 x5 s
  | .evreadWrite x0 x1 x2 => Sys2Proof.Machine.execEvreadWrite x0 x1 x2 s
  | .evlostWrite x0 x1 x2 => Sys2Proof.Machine.execEvlostWrite x0 x1 x2 s
  | .queueControlPoll x0 x1 => Sys2Proof.Machine.execQueueControlPoll x0 x1 s
  | .laneBind x0 x1 => Sys2Proof.Machine.execLaneBind x0 x1 s
  | .laneRelease x0 x1 => Sys2Proof.Machine.execLaneRelease x0 x1 s
  | .lookaheadRead x0 x1 => Sys2Proof.Machine.execLookaheadRead x0 x1 s
  | .nopPacket x0 x1 => Sys2Proof.Machine.execNopPacket x0 x1 s
  | .dispatchPacket x0 x1 => Sys2Proof.Machine.execDispatchPacket x0 x1 s
  | .gangPacket x0 x1 => Sys2Proof.Machine.execGangPacket x0 x1 s
  | .signalPacket x0 x1 => Sys2Proof.Machine.execSignalPacket x0 x1 s
  | .waitsigPacket x0 x1 => Sys2Proof.Machine.execWaitsigPacket x0 x1 s
  | .waitsigPoll x0 x1 => Sys2Proof.Machine.execWaitsigPoll x0 x1 s
  | .waitsigTimeout x0 x1 => Sys2Proof.Machine.execWaitsigTimeout x0 x1 s
  | .joinPacket x0 x1 => Sys2Proof.Machine.execJoinPacket x0 x1 s
  | .callPacket x0 x1 => Sys2Proof.Machine.execCallPacket x0 x1 s
  | .returnPacket x0 x1 => Sys2Proof.Machine.execReturnPacket x0 x1 s
  | .copyPacket x0 x1 => Sys2Proof.Machine.execCopyPacket x0 x1 s
  | .copyComplete x0 x1 => Sys2Proof.Machine.execCopyComplete x0 x1 s
  | .cellarPacket x0 x1 => Sys2Proof.Machine.execCellarPacket x0 x1 s
  | .taskPacket x0 x1 => Sys2Proof.Machine.execTaskPacket x0 x1 s
  | .sqfencePacket x0 x1 => Sys2Proof.Machine.execSqfencePacket x0 x1 s
  | .phasePacket x0 x1 => Sys2Proof.Machine.execPhasePacket x0 x1 s
  | .placementStep x0 => Sys2Proof.Machine.execPlacementStep x0 s
  | .blockRelease x0 => Sys2Proof.Machine.execBlockRelease x0 s
  | .spanStarving x0 x1 => Sys2Proof.Machine.execSpanStarving x0 x1 s
  | .gangresWrite x0 x1 x2 => Sys2Proof.Machine.execGangresWrite x0 x1 x2 s
  | .gangHoldStart x0 x1 => Sys2Proof.Machine.execGangHoldStart x0 x1 s
  | .coreHeld x0 x1 => Sys2Proof.Machine.execCoreHeld x0 x1 s
  | .gangHeld x0 x1 x2 => Sys2Proof.Machine.execGangHeld x0 x1 x2 s
  | .gangUnheld x0 x1 x2 => Sys2Proof.Machine.execGangUnheld x0 x1 x2 s
  | .gangCommit x0 x1 => Sys2Proof.Machine.execGangCommit x0 x1 s
  | .gangAbort x0 x1 x2 => Sys2Proof.Machine.execGangAbort x0 x1 x2 s
  | .gangTimeout x0 x1 => Sys2Proof.Machine.execGangTimeout x0 x1 s
  | .groupOverdue x0 x1 => Sys2Proof.Machine.execGroupOverdue x0 x1 s
  | .governorWindowStart x0 x1 => Sys2Proof.Machine.execGovernorWindowStart x0 x1 s
  | .governorWindowEnd x0 x1 => Sys2Proof.Machine.execGovernorWindowEnd x0 x1 s
  | .governorPeriod x0 => Sys2Proof.Machine.execGovernorPeriod x0 s
  | .govctlWrite x0 x1 => Sys2Proof.Machine.execGovctlWrite x0 x1 s
  | .trapDeliveryH x0 x1 x2 => Sys2Proof.Machine.execTrapDeliveryH x0 x1 x2 s
  | .pageWalkComplete x0 x1 x2 x3 x4 => Sys2Proof.Machine.execPageWalkComplete x0 x1 x2 x3 x4 s
  | .parkReplay x0 x1 x2 => Sys2Proof.Machine.execParkReplay x0 x1 x2 s
  | .parkDeliver x0 x1 x2 => Sys2Proof.Machine.execParkDeliver x0 x1 x2 s
  | .invalidateRange x0 x1 x2 x3 x4 x5 => Sys2Proof.Machine.execInvalidateRange x0 x1 x2 x3 x4 x5 s
  | .invalidateContext x0 x1 x2 x3 => Sys2Proof.Machine.execInvalidateContext x0 x1 x2 x3 s
  | .harvestDirty x0 x1 x2 x3 x4 x5 x6 => Sys2Proof.Machine.execHarvestDirty x0 x1 x2 x3 x4 x5 x6 s
  | .translationCommandDone x0 x1 => Sys2Proof.Machine.execTranslationCommandDone x0 x1 s
  | .memcfgWrite x0 x1 => Sys2Proof.Machine.execMemcfgWrite x0 x1 s
  | .windowBaysReady x0 => Sys2Proof.Machine.execWindowBaysReady x0 s
  | .sectorPoison x0 => Sys2Proof.Machine.execSectorPoison x0 s
  | .engineCommandComplete x0 x1 x2 => Sys2Proof.Machine.execEngineCommandComplete x0 x1 x2 s
  | .lbayComplete x0 => Sys2Proof.Machine.execLbayComplete x0 s
  | .lfreeComplete x0 => Sys2Proof.Machine.execLfreeComplete x0 s
  | .loftReclaim x0 x1 => Sys2Proof.Machine.execLoftReclaim x0 x1 s
  | .cellframeWrite x0 x1 x2 => Sys2Proof.Machine.execCellframeWrite x0 x1 x2 s
  | .computeIntervalStart x0 x1 => Sys2Proof.Machine.execComputeIntervalStart x0 x1 s
  | .cellarPartEnd x0 x1 => Sys2Proof.Machine.execCellarPartEnd x0 x1 s
  | .cellarPartPoison x0 x1 x2 x3 => Sys2Proof.Machine.execCellarPartPoison x0 x1 x2 x3 s
  | .cellarComplete x0 x1 => Sys2Proof.Machine.execCellarComplete x0 x1 s
  | .pantryreclWrite x0 x1 => Sys2Proof.Machine.execPantryreclWrite x0 x1 s
  | .linkFlitReceive x0 x1 x2 => Sys2Proof.Machine.execLinkFlitReceive x0 x1 x2 s
  | .linkNak x0 x1 x2 => Sys2Proof.Machine.execLinkNak x0 x1 x2 s
  | .linkctlRetrain x0 x1 => Sys2Proof.Machine.execLinkctlRetrain x0 x1 s
  | .linkctlDisable x0 x1 x2 => Sys2Proof.Machine.execLinkctlDisable x0 x1 x2 s
  | .linkTrainingEnd x0 x1 x2 => Sys2Proof.Machine.execLinkTrainingEnd x0 x1 x2 s
  | .remoteMessage x0 => Sys2Proof.Machine.execRemoteMessage x0 s
  | .remoteResponse x0 x1 => Sys2Proof.Machine.execRemoteResponse x0 x1 s
  | .remoteRetry x0 => Sys2Proof.Machine.execRemoteRetry x0 s
  | .remoteResend x0 => Sys2Proof.Machine.execRemoteResend x0 s
  | .remoteTimeout x0 => Sys2Proof.Machine.execRemoteTimeout x0 s
  | .hostInboundWrite x0 x1 => Sys2Proof.Machine.execHostInboundWrite x0 x1 s
  | .hostInboundRead x0 x1 => Sys2Proof.Machine.execHostInboundRead x0 x1 s
  | .peerApertureAccess x0 x1 x2 x3 => Sys2Proof.Machine.execPeerApertureAccess x0 x1 x2 x3 s
  | .portcfgWrite x0 x1 => Sys2Proof.Machine.execPortcfgWrite x0 x1 s
  | .hdmcfgWrite x0 => Sys2Proof.Machine.execHdmcfgWrite x0 s
  | .extentRevoke x0 => Sys2Proof.Machine.execExtentRevoke x0 s
  | .expanderViral x0 => Sys2Proof.Machine.execExpanderViral x0 s
  | .expanderLost x0 => Sys2Proof.Machine.execExpanderLost x0 s
  | .upstreamViral => Sys2Proof.Machine.execUpstreamViral s
  | .taskReceive x0 x1 => Sys2Proof.Machine.execTaskReceive x0 x1 s
  | .taskReturn x0 x1 x2 x3 => Sys2Proof.Machine.execTaskReturn x0 x1 x2 x3 s
  | .preemptRequest x0 x1 => Sys2Proof.Machine.execPreemptRequest x0 x1 s
  | .contextSave x0 x1 x2 x3 => Sys2Proof.Machine.execContextSave x0 x1 x2 x3 s
  | .contextResume x0 x1 x2 x3 => Sys2Proof.Machine.execContextResume x0 x1 x2 x3 s
  | .contextStop x0 x1 x2 => Sys2Proof.Machine.execContextStop x0 x1 x2 s
  | .contextStart x0 x1 x2 => Sys2Proof.Machine.execContextStart x0 x1 x2 s
  | .contextCommandDone x0 x1 => Sys2Proof.Machine.execContextCommandDone x0 x1 s
  | .ctxstatClear x0 x1 => Sys2Proof.Machine.execCtxstatClear x0 x1 s
  | .laneDeath x0 x1 x2 x3 => Sys2Proof.Machine.execLaneDeath x0 x1 x2 x3 s
  | .blockError x0 x1 => Sys2Proof.Machine.execBlockError x0 x1 s
  | .restartRecordWrite x0 => Sys2Proof.Machine.execRestartRecordWrite x0 s
  | .evacuate x0 x1 => Sys2Proof.Machine.execEvacuate x0 x1 s
  | .evacuationComplete x0 => Sys2Proof.Machine.execEvacuationComplete x0 s
  | .migctlQuiesce x0 x1 x2 => Sys2Proof.Machine.execMigctlQuiesce x0 x1 x2 s
  | .moduleReset => Sys2Proof.Machine.execModuleReset s
  | .report x0 x1 x2 x3 x4 => Sys2Proof.Machine.execReport x0 x1 x2 x3 x4 s
  | .openTaskSession x0 x1 x2 x3 x4 => Sys2Proof.Machine.execOpenTaskSession x0 x1 x2 x3 x4 s
  | .closeTaskSession x0 x1 x2 x3 x4 => Sys2Proof.Machine.execCloseTaskSession x0 x1 x2 x3 x4 s
  | .readCertificate x0 x1 x2 x3 x4 => Sys2Proof.Machine.execReadCertificate x0 x1 x2 x3 x4 s
  | .powerSample x0 x1 => Sys2Proof.Machine.execPowerSample x0 x1 s
  | .pwrctlWrite x0 => Sys2Proof.Machine.execPwrctlWrite x0 s
  | .managementMessage x0 => Sys2Proof.Machine.execManagementMessage x0 s
  | .registerWrite x0 x1 => Sys2Proof.Machine.execRegisterWrite x0 x1 s
  | .ordinaryIntervalStart x0 x1 => Sys2Proof.Machine.execOrdinaryIntervalStart x0 x1 s
  | .contextTeardown x0 x1 => Sys2Proof.Machine.execContextTeardown x0 x1 s
  | .backInvalidationSnoopResponse x0 => Sys2Proof.Machine.execBackInvalidationSnoopResponse x0 s
  | .backInvalidationFromExpander x0 => Sys2Proof.Machine.execBackInvalidationFromExpander x0 s

end Sys2Proof.Machine
end

