-- ==== Sys2Proof/Machine/Units.lean ====
section
/-! DEFINITION. An agent's turn, whole or not at all (log 71); a turn of the units of the device, where the agenda names none: the command
firmware, the distributors, the cellar units, the copy engines and the governors do what they may do by themselves (log 4). -/

namespace Sys2Proof.Machine

namespace State

/-- An agent does something whole, or, where it has to wait on its way for another module, the host or a channel, asks for that and does nothing
else; false then (R340, R371, R379; log 71). -/
def attempt (s : State) (w : FarWho) (die : Nat) (f : State → Host.Outcome State Fault Refusal) : Host.Outcome State Fault Refusal × Bool :=
  match f (s.asAgent w) with
  | .next t =>
    match t.farAsk with
    | none => (.next (t.agentDone s w), true)
    | some a => (.next (s.askFor w die t.farPos a), false)
  | o => (o, true)

/-- An operation of the opcode table comes about, as far as it may. -/
def attemptOp (s : State) (i : Instr) : Host.Outcome State Fault Refusal × Bool := s.attempt (.op i) 0 (exec i)

/-- Must an event keep behind one that waits: both come over the host port (R380)? -/
def keepsBehind (s : State) (i : Instr) : Bool :=
  let port := fun (i : Instr) => match i with
    | .hostInboundWrite .. | .hostInboundRead .. | .peerApertureAccess .. => true
    | _ => false
  port i && s.later.any port

/-- An event of the agenda comes about; where it has to wait it is tried again later. -/
def eventTurn (s : State) (i : Instr) : Host.Outcome State Fault Refusal :=
  if s.keepsBehind i then .next { s with later := s.later ++ [i] }
  else
    match s.attemptOp i with
    | (.next t, false) => .next { t with later := t.later ++ [i] }
    | (o, _) => o

/-- The events that had to wait are tried again, in their order. -/
def laterTurn (s : State) : State :=
  s.later.foldl (fun s i => match s.eventTurn i with | .next t => t | _ => s) { s with later := [] }

/-- The agent whose word issues. -/
def focusAgent (s : State) : FarWho :=
  if s.focus.stream then .words s.focus.blk else .word s.focus.blk s.focus.grp s.focus.ent

/-- The word of the focused agent does not issue yet (R104). -/
def holdWord (s : State) : State :=
  if s.focus.stream then s.modM fun m => { m with waiting := true } else s.modS fun x => { x with held := some s.epoch }

/-- The focused agent issues a word whole, or not yet (R104). -/
def attemptWord (s : State) (f : State → Host.Outcome State Fault Refusal) : Host.Outcome State Fault Refusal :=
  match s.attempt s.focusAgent s.blk.die f with
  | (.next t, false) => .next t.holdWord
  | (o, _) => o

end State

/-- A unit performs operations one after the other, each as far as it may; kind and id say which unit it is. -/
def performAll (kind id : Nat) (l : List (State → Host.Outcome State Fault Refusal)) (s : State) : State :=
  l.zipIdx.foldl (fun s f => match s.attempt (.unit kind id f.2) 0 f.1 with | (.next t, _) => t | _ => s) s

namespace State

/-- The packet operations of a lane (R75, R86, R87). -/
def laneTurn (d l : Nat) : List (State → Host.Outcome State Fault Refusal) :=
  [execLookaheadRead d l, execNopPacket d l, execGangHoldStart d l, execGangTimeout d l, execGangPacket d l, execDispatchPacket d l,
   execSignalPacket d l, execWaitsigPoll d l, execWaitsigPacket d l, execWaitsigTimeout d l, execJoinPacket d l, execCallPacket d l,
   execReturnPacket d l, execCopyPacket d l, execCellarPacket d l, execTaskPacket d l, execSqfencePacket d l, execPhasePacket d l]

/-- The command firmware of a die (R70, R73, R74): it reads the control words of its queues, binds and releases its lanes, and issues. -/
def firmwareTurn (s : State) (d : Nat) : State :=
  let mine := s.queues.filter fun (e : Nat × Queue) => e.1 / 1024 == d && e.2.enabled
  if mine.isEmpty then s
  else
    let s := mine.foldl (fun s e => performAll 0 e.1 [execQueueControlPoll d (e.1 % 1024)] s) s
    let s := (List.range 32).foldl (fun s l => performAll 1 (32 * d + l) [execLaneRelease d l] s) s
    let s := if s.queues.any fun (e : Nat × Queue) => e.1 / 1024 == d && e.2.waiting.isSome then
      (List.range 32).foldl (fun s l => performAll 2 (32 * d + l) [execLaneBind d l] s) s else s
    ((List.range 32).filter fun l => (s.laneOf d l).queue.isSome).foldl (fun s l => performAll 3 (32 * d + l) (laneTurn d l) s) s

/-- The cores that wait to be held (R99), and the members that the coordinators count, those of whose cores one is held no more among them not
(R101). -/
def gangTurn (s : State) : State :=
  s.gangs.foldl (fun s (e : Nat × Gang) =>
    let k := e.2
    let f : GangFn := { vf := k.fn, partition := none }
    let m : GangMember := { index := k.index, count := k.count }
    let count := if k.reported then execGangHeld f k.id m else execGangUnheld f k.id m
    performAll 4 e.1 (k.chosen.map (fun c => execCoreHeld c.1 c.2) ++ [count, execGangCommit f k.id]) s) s

/-- The distributor of a die (R90 to R96), its copy engine, and what it has under way. -/
def dieTurn (s : State) (d : Nat) : State :=
  let s := (s.dieOf d).copies.foldl (fun s (j : Nat × CopyJob) => performAll 5 j.1 [execCopyComplete d j.1] s) s
  let s := s.grids.foldl (fun s (g : Nat × Grid) => performAll 6 (4 * g.1 + d) [execSpanStarving d g.1] s) s
  performAll 7 d [execPlacementStep d, execWindowBaysReady d, execEvacuationComplete d] s

/-- The blocks: release, restart records, and pre-emption where it was asked for (R102, R429, R422). -/
def blockTurn (s : State) : State :=
  s.blocks.foldl (fun s (e : Nat × Block) =>
    let s := if e.2.life == .carved then performAll 8 e.1 [execBlockRelease e.1] s else s
    let s := performAll 9 e.1 (e.2.writing.map fun _ => execRestartRecordWrite e.1) s
    match e.2.preempt with
    | some k => performAll 10 e.1 [execPreemptRequest e.1 k] s
    | none => s) s

/-- The cellar units (R340 to R345): compute and ordinary intervals, and the parts that end. -/
def cellarTurn (s : State) : State :=
  let s := s.cells.foldl (fun s (e : Nat × CellCmd) =>
    performAll 11 e.1 ((List.range 8).map fun k => execComputeIntervalStart e.2.die k) s) s
  s.cells.foldl (fun s (e : Nat × CellCmd) =>
    let s := e.2.parts.foldl (fun s p => performAll 12 (64 * e.1 + p.1) [execCellarPartEnd e.2.die p.1] s) s
    performAll 13 e.1 [execCellarComplete e.2.die e.1] s) s

/-- The mailbox command of a function that a die's security processor performs (R447). -/
def mailOp (fn d : Nat) : Nat × Nat × Nat × Nat → State → Host.Outcome State Fault Refusal
  | (1, req, resp, comp) => execReport fn d req resp comp
  | (2, req, resp, comp) => execOpenTaskSession fn d req resp comp
  | (3, req, resp, comp) => execCloseTaskSession fn d req resp comp
  | (_, req, resp, comp) => execReadCertificate fn d req resp comp

/-- Commands of functions that end (R226, R427, R447). -/
def commandTurn (s : State) : State :=
  s.fns.foldl (fun s (f : Nat × Fn) =>
    let s := f.2.cfg.foldl (fun s (d : Nat × FnBlock) => match d.2.mail with
      | some m => performAll 17 (4 * f.1 + d.1) [mailOp f.1 d.1 m] s
      | none => s) s
    let s := f.2.ctxCmds.foldl (fun s c => performAll 14 (64 * f.1 + c.ctx) [execContextCommandDone f.1 c.ctx] s) s
    f.2.trCmds.foldl (fun s c => performAll 15 (4 * f.1 + c.1) [execTranslationCommandDone f.1 c.1] s) s) s

/-- The turn of every unit. -/
def unitsTurn (s : State) : State :=
  let ds := s.dies.map fun (d : Nat × Die) => d.1
  let s := ds.foldl (fun s d => (s.firmwareTurn d).dieTurn d) s
  s.gangTurn.blockTurn.cellarTurn.commandTurn

/-- The cores with a block that has not gone. -/
def busyCores (s : State) : List (Nat × Nat) :=
  s.blocks.foldl (fun (l : List (Nat × Nat)) (e : Nat × Block) =>
    if (e.2.life == .running || e.2.life == .carved) && !l.contains (e.2.die, e.2.core) then l ++ [(e.2.die, e.2.core)] else l) []

/-- Have 64 cycles passed since the windows of the governors last turned (R109)? -/
def windowDue (s : State) : Bool := decide (s.window < s.clock / 64)

/-- The cores whose windows turn: those that hold a block, and those of which anything has been recorded, the others standing at Floor with
nothing to do; on each die in rotating order, from the core after the one last granted (R109). -/
def windowCores (s : State) : List (Nat × Nat) :=
  let known := s.busyCores ++ (s.cores.map fun (c : Nat × Core) => (c.1 / 128, c.1 % 128)).filter fun c => !s.busyCores.contains c
  let turn := fun (c : Nat × Nat) => c.1 * 96 + (c.2 + 191 - (s.dieOf c.1).grant) % 96
  known.mergeSort fun a b => decide (turn a ≤ turn b)

/-- The windows of the governors turn, and each die's period (R109); the units take a turn. -/
def turnWindows (s : State) : State :=
  let cs := s.windowCores
  let s := performAll 16 0 (cs.map (fun c => execGovernorWindowEnd c.1 c.2) ++ (s.dies.map fun (d : Nat × Die) => execGovernorPeriod d.1) ++
    cs.map fun c => execGovernorWindowStart c.1 c.2) s
  { s with window := s.clock / 64 }.unitsTurn

end State
end Sys2Proof.Machine
end

