-- ==== Sys2Proof/Machine/Idle.lean ====
section
/-! DEFINITION. What the units of the device do when the agenda names no turn and no agent can issue: the operations that may come
about by themselves, taken in turn, and a cycle in which nothing issues (log 4). -/

namespace Sys2Proof.Machine
namespace State

/-- The Loft operations that may end: the head of each bay, where no engine works on it (R310); and the reclaims that may end (R314). -/
def loftWork (s : State) : List Instr :=
  s.dies.flatMap fun (d : Nat × Die) =>
    ((d.2.loft.filter fun j => s.atHead d.1 j.bay j.op && s.jobMoves j && (match j.form with
      | .lxin _ _ _ _ | .lxout _ _ _ _ => !s.jobOwns j && !s.lxWriting d.1 j.bay | _ => true)).map fun j => .loftOperationEnd d.1 j.bay) ++
    (d.2.bays.filter fun b => b.2.reclaiming && !s.lxWriting d.1 b.1).map fun b => .loftOperationEnd d.1 b.1

/-- The operations that may complete (R119). -/
def opWork (s : State) : List Instr :=
  s.ops.filterMap fun (o : Nat × Op) =>
    if !s.opDone [.load, .atomic, .divide, .pantry, .queue] o.1 then none
    else some (match o.2.kind with
      | .atomic => .atomicComplete o.1
      | .divide => .dividerComplete o.1
      | .pantry => .pantryWalkComplete o.1
      | _ => .loadComplete o.1)

/-- The store buffers and engine queues that may go on (R239, R252). -/
def bufferWork (s : State) : List Instr :=
  s.blocks.flatMap fun (e : Nat × Block) => e.2.groups.flatMap fun (g : Nat × Group) =>
    (match g.2.sb.find? SbEntry.waits with
      | some x => if e.2.live && s.mayFollow e.1 g.1 x then [.storeAck e.1 g.1] else []
      | none => []) ++
      g.2.eng.filterMap fun q => match q.2 with
        | c :: _ => if s.engMay e.1 g.1 q.1 c then some (.engineSectorWrite e.1 g.1 q.1) else none
        | [] => none

/-- The loads of activation tables that may end (R196); sleeps and merge points end of themselves (canTry). -/
def waitWork (s : State) : List Instr :=
  s.blocks.flatMap fun (e : Nat × Block) => if !e.2.live then [] else
    e.2.groups.flatMap fun (g : Nat × Group) => g.2.splits.filterMap fun (x : Nat × Split) =>
      if x.2.loads.isSome && x.2.status == .ready then some (.actldLoadEnd e.1 g.1 x.1) else none

/-- The blocks and grids that may retire (R440, R441). -/
def retireWork (s : State) : List Instr :=
  (s.blocks.filterMap fun (e : Nat × Block) => if s.drained e.1 then some (.blockRetire e.1) else none) ++
    s.grids.filterMap fun (g : Nat × Grid) =>
      if !g.2.retired && g.2.blocksLeft == 0 && g.2.children == 0 && !s.gridWrites g.1 && s.slotsRead g.1 then some (.gridRetire g.1) else none

/-- The work that some unit will do by itself: one piece of it after the other, as the clock goes on. -/
def pendingWork (s : State) : Option Instr :=
  let l := s.loftWork ++ s.opWork ++ s.bufferWork ++ s.waitWork ++ s.retireWork
  if l.isEmpty then none else l[s.clock % l.length]?

/-- The words of matrix streams that wait are tried again, but for an MMA that waits for credit (R109). -/
def wakeStreams (s : State) : State :=
  { s with blocks := s.blocks.map fun (e : Nat × Block) =>
      (e.1, if e.2.ms.waiting && !e.2.ms.heldOnce then { e.2 with ms := { e.2.ms with waiting := false } } else e.2) }

/-- A cycle in which no agent issues: the units take a turn, the cores and their blocks count it (R5, R112), and revocations go on
(R384). -/
def idle (s : State) : State :=
  let s := s.unitsTurn
  let s := s.revoking.foldl (fun s i => s.farRun .home 0 fun s => s.finishRevoke i) s
  let s := s.busyCores.foldl (fun s c => s.modCore c.1 c.2 fun x => { x with cycles := x.cycles + 1 }) s
  { s with blocks := s.blocks.map fun (e : Nat × Block) => s.account none e, clock := s.clock + 1, epoch := s.epoch + 1 }.wakeStreams

/-- The state in which an operation comes about: the words that wait for their next chance are tried again after it. -/
def stir (s : State) : State := { s with epoch := s.epoch + 1 }.wakeStreams

/-- The requests that wait at their homes for a channel, a line of the host's or a hold that is gone are performed where they may be, in their
order (R340, R346, R379), what met poison behind another parking parks (R385), and the events that had to wait come about. -/
def settleTurn (s : State) : State :=
  let s := if s.snoopHeld.isEmpty then s else s.settleHeld
  let s := s.poisonTurn
  if s.later.isEmpty then s else s.laterTurn

/-- Does the turn of the units come before that of the agents: every sixteenth cycle, so that no agent holds them off? -/
def unitsFirst (s : State) : Bool := s.clock % 16 == 15

end State
end Sys2Proof.Machine
end

