-- ==== Sys2Proof/Machine/Place.lean ====
section
/-! DEFINITION. A word placed where the next step fetches it, for the host's questions about single words (log 11): a loader's
work, not the machine's. The grid, block, group and split that a launch would have made are set up, with a page table that
maps the first GiB of virtual addresses to the first GiB of local HBM, and the word lies in the code section. -/

namespace Sys2Proof.Machine

/-- The page tables of placeWord: the context table at 0x1000, the level-0 table at 0x2000, and a level-1 table at 0x3000 whose
entry 0 is a writable 1 GiB leaf at physical address 0 (R220 to R222). -/
def placeTables (m : List Host.Cell) : List Host.Cell :=
  putBytes (putBytes (putBytes m 0x1000 (toBytes 8 0x2080)) 0x2000 (toBytes 8 0x3001)) 0x3000 (toBytes 8 0x73)

/-- The code section of placeWord lies at virtual and physical address 0x10000: a word of clause code stands at offset 4. -/
def placeWord (s : State) (w : Word) : State :=
  let hdr := decide (prim w ≥ 0xF0)
  let strm := decide (0xD0 ≤ prim w ∧ prim w ≤ 0xDF)
  let pc := if hdr then 0 else 4
  let left := if hdr then 0 else 1
  let sp : Split := { status := .ready, pc := pc, left := left, live := 1, exec := 1, execCopy := 1, mode := 0x4000,
                      sig := 0xFFFFFFFF }
  let g : Group := { lanes := 1, code := 3, splits := [(0, sp)] }
  let b : Block := { life := .running, groups := [(0, g)], hasMs := strm, ms := { pc := pc, left := left } }
  { s with
    mem := putBytes (placeTables s.mem) (0x10000 + pc) (toBytes 4 w.toNat)
    blocks := s.blocks.set 0 b
    grids := s.grids.set 0 { code := 0x10000, codeBytes := 64, dimX := 1, dimY := 1, dimZ := 1, blocksLeft := 1 }
    fns := (s.modFnBlock 0 0 fun f => { f with ctxTable := 0x1000 }).fns
    focus := { stream := strm }
    agenda := if strm then .stream 0 :: s.agenda else .split 0 0 0 :: s.agenda }

end Sys2Proof.Machine
end

