-- ==== Sys2Proof/Machine/Step.lean ====
section
/-! DEFINITION. One step of the machine: the next turn of the agenda, or, when the agenda is empty, what the schedulers and the
units of the device do by themselves (log 4). -/

namespace Sys2Proof.Machine

/-- The focused agent issues: a waiting failure is delivered before a header (R412); otherwise the word is fetched, checked
(R138) and executed. All of it is done, or the agent waits. -/
def issueFocus (s : State) : Host.Outcome State Fault Refusal :=
  s.attemptWord fun s =>
    if s.takesH then .next (s.deliverH s.focus.blk s.focus.grp s.focus.ent)
    else
      match s.fetchFocus with
      | (t, .instr i) => exec i t
      | (t, r) => .next (if t.focus.stream then t.fetchEndMs r else t.fetchEnd r)

/-- One turn of the agenda: an agent that may not issue, or that its scheduler does not take next (R105, R106), lets its turn pass. -/
def runTurn (t : Turn) (s : State) : Host.Outcome State Fault Refusal :=
  match t with
  | .split b g e =>
    if s.splitMay b g e && s.isNext b g e then issueFocus { s with focus := { blk := b, grp := g, ent := e } } else .next s
  | .stream b => if s.streamMay b then issueFocus { s with focus := { blk := b, stream := true } } else .next s
  | .event i => s.stir.eventTurn i

/-- An operation comes about by itself: the clock goes on. -/
def runWork (i : Instr) (s : State) : Host.Outcome State Fault Refusal :=
  ({ s.stir with clock := s.clock + 1 }.attemptOp i).1

/-- One turn: the next turn of the agenda; without one, a window of the governors where it is due; else the agent that the schedulers
take, or an operation that may come about; and where there is neither, a cycle in which nothing issues. -/
def turn (s : State) : Host.Outcome State Fault Refusal :=
  match s.agenda with
  | t :: rest => runTurn t { s with agenda := rest }
  | [] =>
    if s.windowDue then .next s.turnWindows
    else
      match s.pickAgent, (if s.pickAgent.isNone || s.unitsFirst then s.pendingWork else none) with
      | _, some i => runWork i s
      | some f, none => issueFocus { s with focus := f }
      | none, none => .next s.idle

/-- One step: a turn, and what it lets go on at the homes. -/
def step (s : State) : Host.Outcome State Fault Refusal :=
  match turn s with
  | .next t => .next t.settleTurn
  | o => o

/-- The state with a word placed where the next step fetches it (log 11). Every instruction is one word of 32 bits, so that the
bits above nbits are 0. -/
def State.withFetchWord (s : State) (nbits w : Nat) : State := placeWord s (BitVec.ofNat 32 (w % 2 ^ nbits))

end Sys2Proof.Machine
end

