-- ==== Sys2Proof/Safety.lean ====
section
/-! DEFINITION. What a safe state is, and the words in which the claims are stated: what a word leaves alone when it issues,
and what it writes. -/

namespace Sys2Proof.Machine

/-- Memory keeps its canonical form. -/
abbrev MemInv (s : State) : Prop := Memory.wf s.mem = true

/-- The byte of memory at a physical address; an unlisted one reads 0. -/
def State.byteAt (s : State) (a : Nat) : Byte := Cells.get (w := 8) s.mem a

/-- A step stops: it answers a fault or a refusal. -/
def Stops (s : State) : Prop := ∀ t, step s ≠ .next t

/-- The block of the issuing agent is one whose words issue. -/
abbrev Running (s : State) : Prop := s.blk.live = true

/-- A split after an instruction word of clause code that the split of state s has issued (R118, R160): the PC stands at the next word,
one word fewer is left in the clause, and the word is folded into SIG; it is the last word that the split has issued. n is 1 for a long-latency
word, which counts in its clause (R119). -/
def advance (i : Instr) (s : State) (n : Nat) (x : Split) : Split :=
  { x with pc := x.pc + 4, left := x.left - 1, ll := x.ll + n, sig := crc32c x.sig (encode i), status := .ready,
           lastIssue := s.clock, replay := none, held := none, last := some { State.frameOf s.spl with word := encode i } }

/-- What every issued word leaves alone: no other group, no other split of the group, no other core; of a block only the cycle
counts of R112 change, and of the issuing block's core the cycle count of R5. -/
structure IssueFrame (s t : State) : Prop where
  focus : t.focus = s.focus
  clock : t.clock = s.clock + 1
  cores : ∀ d c, (t.coreOf d c).cycles =
    if State.coreKey d c = State.coreKey s.blk.die s.blk.core then (s.coreOf d c).cycles + 1 else (s.coreOf d c).cycles
  budgets : ∀ d c, t.coreOf d c = { s.coreOf d c with cycles := (t.coreOf d c).cycles, tlb := (t.coreOf d c).tlb }
  busy : t.blk.busy = s.blk.busy + 1
  blocks : ∀ b, b ≠ s.focus.blk → t.blkOf b =
    { s.blkOf b with busy := (t.blkOf b).busy, idle := (t.blkOf b).idle, stalled := (t.blkOf b).stalled }
  groups : ∀ g, g ≠ s.focus.grp → t.grpOf s.focus.blk g = s.grpOf s.focus.blk g
  splits : ∀ e, e ≠ s.focus.ent → t.splOf s.focus.blk s.focus.grp e = s.splOf s.focus.blk s.focus.grp e

/-- What a word leaves alone that acts in its group only: all of memory, every table of the device, the TLBs, and of its block
the scratch, the barriers, the activation tables and the matrix stream. -/
structure GroupFrame (s t : State) : Prop extends IssueFrame s t where
  rest : t = { s with blocks := t.blocks, cores := t.cores, clock := t.clock }
  tlbs : ∀ d c, (t.coreOf d c).tlb = (s.coreOf d c).tlb
  blk : t.blk = { s.blk with groups := t.blk.groups, busy := t.blk.busy }

/-- A word that writes registers of its split only: in the end the split is x, advanced. -/
def SplitResult (i : Instr) (s : State) (x : Split) : Prop :=
  ∃ t, exec i s = .next t ∧ GroupFrame s t ∧ t.spl = advance i s 0 x ∧
    t.grp = { s.grp with splits := t.grp.splits, lastIssue := s.clock, overdue := false, yielded := t.spl.gaveWay }

/-- A word that writes one scalar register. -/
def ScalarResult (i : Instr) (s : State) (d : BitVec 7) (v : Word) : Prop := SplitResult i s (s.spl.setS d.toNat v)

/-- A word that writes the registers of its group's lanes only: v and p are the vector registers and predicates after it. n is 1
for a long-latency word. -/
def LaneResultN (n : Nat) (i : Instr) (s : State) (v : Nat → Nat → Word) (p : Nat → Nat → Bool) : Prop :=
  ∃ t, exec i s = .next t ∧ GroupFrame s t ∧ t.spl = advance i s n s.spl ∧
    t.grp = { s.grp with splits := t.grp.splits, v := t.grp.v, p := t.grp.p, lastIssue := s.clock, overdue := false, yielded := t.spl.gaveWay } ∧
    (∀ r l, l < 96 → t.grp.getV r l = v r l) ∧ (∀ r l, l < 96 → t.grp.getPr r l = p r l)

/-- The same for a short word. -/
def LaneResult (i : Instr) (s : State) (v : Nat → Nat → Word) (p : Nat → Nat → Bool) : Prop := LaneResultN 0 i s v p

/-- A word that writes vD in the lanes it executes in: f gives the value of a lane. -/
def VectorResult (i : Instr) (s : State) (d : Nat) (f : Nat → Word) : Prop :=
  LaneResult i s (fun r l => if r = d ∧ s.writeLanes.getLsbD l then f l else s.grp.getV r l) s.grp.getPr

/-- A word that writes the pair vD, vD+1. -/
def VectorPairResult (i : Instr) (s : State) (d : Nat) (f : Nat → DWord) : Prop :=
  LaneResult i s (fun r l =>
    if s.writeLanes.getLsbD l then
      (if r = d then lo32 (f l) else if r = d + 1 then hi32 (f l) else s.grp.getV r l)
    else s.grp.getV r l) s.grp.getPr

/-- A word that writes vD, or the pair vD under a pair type, in the lanes it executes in. -/
def VectorValue (i : Instr) (s : State) (d : Nat) (f : Nat → Nat) : Prop :=
  if isPair s.spl.type then VectorPairResult i s d (fun l => BitVec.ofNat 64 (f l))
  else VectorResult i s d (fun l => BitVec.ofNat 32 (f l))

/-- A word that writes the elements of vD under MODE.Type, in the lanes it executes in: f gives the bits of an element of a lane. -/
def VectorElems (i : Instr) (s : State) (d : Nat) (f : Nat → Nat → Nat) : Prop :=
  if isPair s.spl.type then
    ∃ v : Nat → DWord, VectorPairResult i s d v ∧ ∀ l k, k < (tyOf s.spl.type).n → elem s.spl.type (v l).toNat k = f l k
  else
    ∃ v : Nat → Word, VectorResult i s d v ∧ ∀ l k, k < (tyOf s.spl.type).n → elem s.spl.type (v l).toNat k = f l k

/-- A word that writes predicate pD in the lanes it executes in; a write to p0 changes nothing (R122). -/
def PredResult (i : Instr) (s : State) (d : Nat) (f : Nat → Bool) : Prop :=
  LaneResult i s s.grp.getV (fun r l => if r = d ∧ d ≠ 0 ∧ s.writeLanes.getLsbD l then f l else s.grp.getPr r l)

/-! ### Long-latency words -/

/-- The next long-latency word of the clause may issue: its flag counts fewer than 63 (R119). -/
abbrev FlagFree (s : State) : Prop := s.spl.count s.spl.nextFlag < 63

/-- The split after a long-latency word has issued: the operation is bound to the flag of the clause, f15 apart (R119). -/
def bound (i : Instr) (s : State) (id : Nat) : Split :=
  { advance i s 1 s.spl with holds := s.spl.holds ++ if s.spl.nextFlag < 12 then [(s.spl.nextFlag, id)] else [] }

/-- A long-latency word has issued as the outstanding operation id: nothing else changes. -/
structure Pending (i : Instr) (s t : State) (id : Nat) : Prop extends IssueFrame s t where
  spl : t.spl = bound i s id
  grp : t.grp = { s.grp with splits := t.grp.splits, lastIssue := s.clock, overdue := false, yielded := t.spl.gaveWay }
  blk : t.blk = { s.blk with groups := t.blk.groups, busy := t.blk.busy }
  rest : t = { s with blocks := t.blocks, cores := t.cores, clock := t.clock, ops := t.ops, nextId := t.nextId }
  tlbs : ∀ d c, (t.coreOf d c).tlb = (s.coreOf d c).tlb
  ops : t.ops = s.ops.set id (t.opOf id)

/-- The outstanding operation id of the issuing group has completed: u is t but for the vector registers, the splits, and the
table of operations, which no longer lists it; no flag of the split holds it. -/
structure Completed (t u : State) (id : Nat) : Prop where
  rest : u = { t with blocks := u.blocks, ops := t.ops.del id }
  blocks : ∀ b, b ≠ t.focus.blk → u.blkOf b = t.blkOf b
  groups : ∀ g, g ≠ t.focus.grp → u.grpOf t.focus.blk g = t.grpOf t.focus.blk g
  blk : u.blk = { t.blk with groups := u.blk.groups }
  grp : u.grp = { t.grp with splits := u.grp.splits, v := u.grp.v }
  free : u.spl.holdsOp id = false

/-- A long-latency word issues, and writes the vector registers v when the event e of its operation comes. -/
def LongResult (i : Instr) (e : Nat → Instr) (s : State) (v : Nat → Nat → Word) : Prop :=
  ∃ id t u, exec i s = .next t ∧ Pending i s t id ∧ exec (e id) t = .next u ∧ Completed t u id ∧
    (∀ q, u.spl.getS q = s.getS q) ∧ ∀ r l, l < 96 → u.grp.getV r l = v r l

/-- A long-latency word issues, and makes the split x but for its flags when the event e of its operation comes. -/
def LongScalarResult (i : Instr) (e : Nat → Instr) (s : State) (x : Split) : Prop :=
  ∃ id t u, exec i s = .next t ∧ Pending i s t id ∧ exec (e id) t = .next u ∧ Completed t u id ∧
    (∀ q, u.spl.getS q = x.getS q) ∧ u.grp.v = s.grp.v

/-- The vector registers after the values of ds, each a destination and the value of a lane, are written in some lanes; under a pair
type each destination is a pair. -/
def written (s : State) (m : LaneMask) (ds : List (Nat × (Nat → Nat))) (r l : Nat) : Word :=
  if m.getLsbD l then
    match ds.find? fun x => x.1 == r || (isPair s.spl.type && x.1 + 1 == r) with
    | some x => if x.1 = r then BitVec.ofNat 32 (x.2 l) else BitVec.ofNat 32 (x.2 l / 2 ^ 32)
    | none => s.grp.getV r l
  else s.grp.getV r l

/-- An access of n bytes at va by the issuing core reaches memory of this module at pa: a TLB holds the translation, and
nothing stops the access (R221, R225, R230). -/
def Hits (s : State) (acc : AccType) (n va pa : Nat) : Prop :=
  ∃ t, s.tlbHit s.blk.die (some s.blk.core) s.fn s.ctx va acc = some t ∧ (acc.writes = true → t.writable = true) ∧
    s.reachPa s.fn (t.pa + va % t.size) n (decide (acc ≠ .write ∧ acc ≠ .engWrite)) = .ok pa

/-- The lanes that access, ascending (R234). -/
def accessing (s : State) : List Nat := (List.range 96).filter fun l => s.execLanes.getLsbD l

/-- A store, RED or SCATADD issues: its writes stand in a new entry of the group's store buffer, and no byte of memory or
scratch changes yet (R239). Without an accessing lane it takes no entry. -/
def Buffered (i : Instr) (s : State) (ws : List SbWrite) : Prop :=
  ∃ t, exec i s = .next t ∧ IssueFrame s t ∧ t.spl = advance i s 1 s.spl ∧
    t = { s with blocks := t.blocks, cores := t.cores, clock := t.clock, nextId := t.nextId } ∧
    t.blk = { s.blk with groups := t.blk.groups, busy := t.blk.busy } ∧
    t.grp = { s.grp with splits := t.grp.splits, lastIssue := s.clock, overdue := false, yielded := t.spl.gaveWay, sb := t.grp.sb } ∧
    t.grp.sb = s.grp.sb ++ if ws = [] then [] else [{ id := s.nextId, writes := ws }]

/-- No write of the function is logged in a dirty bitmap (R232). -/
abbrev NoDirtyLog (s : State) (fn : Nat) : Prop := ∀ die, (s.fnBlock fn die).flags.getLsbD 0 = false

/-! ### Words in general -/

/-- A word has issued, and u is the state that its effect alone makes of s: t is u but that the issuing split is advanced, and a cycle
has passed (R118, R119, R160, R5). What u leaves alone, the word leaves alone. -/
structure Issued (i : Instr) (n : Nat) (s u t : State) : Prop extends IssueFrame u t where
  next : exec i s = .next t
  rest : t = { u with blocks := t.blocks, cores := t.cores, clock := t.clock }
  tlbs : ∀ d c, (t.coreOf d c).tlb = (u.coreOf d c).tlb
  blk : t.blk = { u.blk with groups := t.blk.groups, busy := t.blk.busy }
  grp : t.grp = { u.grp with splits := t.grp.splits, lastIssue := s.clock, overdue := false, yielded := t.spl.gaveWay }
  spl : t.spl = advance i s n u.spl

/-- A word completes with the effect that makes u of s. -/
def Does (n : Nat) (i : Instr) (s u : State) : Prop := ∃ t, Issued i n s u t

/-- A word that has to wait for its split's own wait to end does not issue: the split waits, and nothing else changes (R148). -/
def Waits (i : Instr) (s : State) (w : Wait) : Prop := exec i s = .next (s.modS fun x => { x with status := .waiting w })

/-- A word that cannot issue yet is held back: its split stays ready at it, and nothing else changes (R104, R148). -/
def Holds (i : Instr) (s : State) : Prop := exec i s = .next (s.modS fun x => { x with status := .ready, held := some s.epoch })

/-- The state after a release at sys scope: each MMIO window that the group has written is read (R380, R397). -/
def State.flushed (s : State) : State :=
  ({ s with outbox := s.outbox ++ s.grp.mmioDirty.map fun n => Out.hostRead (s.fab (0xC0 + 16 * n) 8) 0 [] 0 }).modG
    fun g => { g with mmioDirty := [] }

/-- The object at operand x of space sp can be used: a scratch offset within the allocation, or an address that reaches memory of
this module which may be written now; scr and at_ are its place, and no acquire of the group is outstanding (R397, R400, R407). -/
def AtWord (s : State) (sp : BarSpace) (x : Nat) (scr : Bool) (at_ : Nat) : Prop :=
  x % 16 = 0 ∧ s.acqBusy = false ∧
  ((sp = .scr ∧ scr = true ∧ at_ = x ∧ x + 16 ≤ s.scrBytes s.focus.blk) ∨
   (sp = .word ∧ scr = false ∧ Hits s .atomic 16 x at_ ∧ s.canWrite at_ = true ∧
    (s.rangeOf at_ = .hbm ∨ s.rangeOf at_ = .window ∨ s.rangeOf at_ = .expander)))

/-- The fields of a barrier word (R404). -/
abbrev BarWord (w expected pending bytes phase waiters scope index : Nat) (bnd : Bool) : Prop :=
  bwExpected w = expected ∧ bwPending w = pending ∧ bwBytes w = bytes ∧ bwPhase w = phase ∧ bwWaiters w = waiters ∧
    bwScope w = scope ∧ bwBound w = bnd ∧ bwIndex w = index

/-- The reserved bits of a barrier word are those of another (R404). -/
abbrev SameReserved (w v : Nat) : Prop := bits w 87 81 = bits v 87 81 ∧ bits w 127 106 = bits v 127 106

/-- A data command stands last in a queue of the issuing group, in the batch that the next SCLOSE closes (R252, R264, R267). -/
def enqueued (s : State) (q : Nat) (kind : EngKind) (pat : BitVec 512) (scr : Nat) (word : Option Nat) (fill : Word) (bytes : Nat) : State :=
  let c : EngCmd := { id := s.nextId, kind := kind, pat := pat, scr := scr, word := word, fill := fill, bytes := bytes, bay := 0,
                      field := 0, batch := s.grp.closed + 1, done := 0, fence := engFences s.grp q, op := 0, asked := [], got := [] }
  ({ s with nextId := s.nextId + 1 }).modG fun g => { g with eng := g.eng.set q (g.eng.get [] q ++ [c]) }

/-- A word whose operation the device accepts: u is the effect, and the operation, of the kind given, is bound to the flag of the
clause until it completes (R119). -/
def Accepts (i : Instr) (s u : State) : Prop := Does 1 i s (u.startOp { kind := .queue })

/-- An access of n bytes at va for block b reaches memory of this module at pa: as Hits, for any block. -/
def HitsIn (s : State) (b : Nat) (acc : AccType) (n va pa : Nat) : Prop :=
  let x := s.blkOf b
  let g := s.gridOf x.grid
  ∃ t, s.tlbHit x.die (some x.core) g.fn g.ctx va acc = some t ∧ (acc.writes = true → t.writable = true) ∧
    s.reachPa g.fn (t.pa + va % t.size) n (decide (acc ≠ .write ∧ acc ≠ .engWrite)) = .ok pa

/-- The address of element n of a command, where an indirect record's index entry is readable (R31). -/
def ElementAt (s : State) (b : Nat) (p : BitVec 512) (n va : Nat) : Prop :=
  let sum := fun (e : Nat) => ((patNum p 0 8 : Int) + ((List.range (patDims p)).map fun d =>
    ((if patIndirect p && d == patIndDim p then e else patIdx p n d : Nat) : Int) * patStride p d).sum) % (2 ^ 64 : Nat)
  if patIndirect p then
    ∃ pe, HitsIn s b .engRead (patIndex p) ((patTable p + patIdx p n (patIndDim p) * patIndex p) % 2 ^ 64) pe ∧
      s.rangeOf pe ≠ .host ∧ (va : Int) = sum (s.rdNum pe (patIndex p))
  else (va : Int) = sum 0

/-- The bytes of element n, readable in memory of the module (R31). -/
def ElementIs (s : State) (b : Nat) (p : BitVec 512) (n : Nat) (bs : List Byte) : Prop :=
  ∃ va pa, ElementAt s b p n va ∧ HitsIn s b .engRead (patBytes p) va pa ∧ s.rangeOf pa ≠ .host ∧ bs = s.rd pa (patBytes p)

/-! ### The Loft and the Pantry -/

/-- The unsigned value of a field of a bay in a lane (R306, R307). -/
def fieldBits (b : Bay) (w : Word) (l : Nat) : Nat :=
  ((List.range (fWidth w)).map fun j => if (b.planes.get (fBase w + j)).getLsbD l then 2 ^ j else 0).sum

/-- The value of a field of a bay in a lane: two's complement where its Signed bit is set (R307). -/
def fieldValue (b : Bay) (w : Word) (l : Nat) : Int :=
  if fSigned w then signed (fWidth w) (fieldBits b w l) else fieldBits b w l

/-- The issuing context may use a bay now: nothing of it is lost undelivered, and it owns the bay (R304, R309, R314). -/
abbrev MayUse (s : State) (bay : Word) : Prop := s.lostOf = 0 ∧ bay.toNat < 64 ∧ s.ownsBay bay.toNat = true

/-- A field lies in the bay (R306, R309). -/
abbrev FieldOk (w : Word) : Prop := fReserved w = false ∧ fBase w + fWidth w ≤ 512

/-- An operation is sent to a bay of the issuing core's die, with its captured operands (R309, R310). -/
def sent (s : State) (form : Instr) (bay : Nat) (dst srcA srcB mask : Word) (scalar : DWord) (sreg : Nat) : State :=
  let j : LoftJob := { op := s.nextId, blk := s.focus.blk, grp := s.focus.grp, die := s.blk.die, fn := s.fn, ctx := s.ctx, bay := bay,
                       form := form, dst := dst, srcA := srcA, srcB := srcB, mask := mask, scalar := scalar, sreg := sreg }
  (s.startOp { kind := .loft }).modDie s.blk.die fun d => { d with loft := d.loft ++ [j] }

/-- The outstanding operation of a Loft operation is its own: it belongs to a split of its group, and only LBAY and LSRCH have results,
which are scalar (R310). -/
def OwnOp (s : State) (j : LoftJob) : Prop :=
  s.ops.has j.op = true ∧ (s.opOf j.op).blk = j.blk ∧ (s.opOf j.op).grp = j.grp ∧ (s.opOf j.op).fail = none ∧ (s.opOf j.op).vres = [] ∧
    (s.grpOf j.blk j.grp).splits.has (s.opOf j.op).ent = true

/-- A Loft operation ends: it leaves its bay and every flag, its bay becomes x, and r are the scalar results of the split that issued
it. -/
def LoftEnds (s t : State) (j : LoftJob) (b : Nat) (x : Bay) (r : List (Nat × Word)) : Prop :=
  t = { s with blocks := t.blocks, dies := t.dies, ops := s.ops.del j.op } ∧
  (∀ d, d ≠ j.die → t.dieOf d = s.dieOf d) ∧
  t.dieOf j.die = { s.dieOf j.die with bays := (t.dieOf j.die).bays, loft := (s.dieOf j.die).loft.filter fun k => k.op != j.op } ∧
  (∀ c, t.bayOf j.die c = if c = b then x else s.bayOf j.die c) ∧
  (∀ c, c ≠ j.blk → t.blkOf c = s.blkOf c) ∧ t.blkOf j.blk = { s.blkOf j.blk with groups := (t.blkOf j.blk).groups } ∧
  (∀ g, g ≠ j.grp → t.grpOf j.blk g = s.grpOf j.blk g) ∧
  t.grpOf j.blk j.grp = { s.grpOf j.blk j.grp with splits := (t.grpOf j.blk j.grp).splits } ∧
  (∀ e, (t.splOf j.blk j.grp e).holdsOp j.op = false) ∧
  ∀ e q, (t.splOf j.blk j.grp e).getS q =
    (if e = (s.opOf j.op).ent ∨ (s.splOf j.blk j.grp e).holdsOp j.op = true then
      r.foldl (fun y z => y.setS z.1 z.2) (s.splOf j.blk j.grp e) else s.splOf j.blk j.grp e).getS q

/-- An access of the Pantry's walker, in the context of the configuration block, reaches memory of this module at pa (R349). -/
def WalkHits (s : State) (acc : AccType) (n va pa : Nat) : Prop :=
  ∃ t, s.tlbHit s.blk.die (some s.blk.core) s.fn (s.pan 0x19 1) va acc = some t ∧ (acc.writes = true → t.writable = true) ∧
    s.reachPa s.fn (t.pa + va % t.size) n (decide (acc ≠ .write)) = .ok pa

/-- n bytes at va, read by the walker in memory of the module. -/
def WalkReads (s : State) (va n v : Nat) : Prop := ∃ pa, WalkHits s .read n va pa ∧ s.rangeOf pa ≠ .host ∧ v = s.rdNum pa n

/-- The issuing split starts a word of the Pantry afresh: it has asked nothing of another module for it, and no lane of it has failed (R360,
R371). -/
abbrev WalkFresh (s : State) : Prop :=
  (∀ x ∈ s.far, x.who ≠ .split s.focus.blk s.focus.grp s.focus.ent) ∧ s.spl.kvFail = none

/-- Position pos of sequence h lies on shelf k of its path, whose number is x and whose record is sh (R351, R352, R354). -/
def OnShelf (s : State) (h pos x sh : Nat) : Prop :=
  s.panOn = true ∧ h < s.pan 0x10 4 ∧ ∃ q k, ∃ rec : Nat → Nat, WalkReads s (seqAt s h) 128 q ∧
    k < bits q 7 0 ∧ bits q 7 0 ≤ 16 ∧ bits q 15 8 ≤ 3 ∧ bits q 511 16 = 0 ∧
    let num := fun i => bits q (512 + 32 * i + 31) (512 + 32 * i)
    (∀ i, i ≤ k → num i < s.pan 0x14 4 ∧ WalkReads s (shelfAt s (num i)) 64 (rec i) ∧ shBad s (rec i) = false ∧
      bitOf (shFlags (rec i)) 4 = false ∧
      (if i = 0 then shParent (rec i) = 0xFFFFFFFF ∧ shStart (rec i) = 0
       else shParent (rec i) = num (i - 1) ∧ shStart (rec i) = shStart (rec (i - 1)) + shLength (rec (i - 1))) ∧
      (if i < k then shStart (rec i) + shLength (rec i) ≤ pos else pos < shStart (rec i) + shLength (rec i))) ∧
    x = num k ∧ sh = rec k

/-- The entry of page j of a shelf lies at address a (R353). -/
def EntryAt (s : State) (x j sh a : Nat) : Prop :=
  if j < 6 then a = shelfAt s x + 0x20 + 4 * j
  else ∃ blk : Nat → Nat, blk 0 = shOverflow sh ∧
    (∀ i, i < (j - 6) / 15 → blk i < s.pan 0x14 4 ∧ WalkReads s (shelfAt s (blk i) + 0x3C) 4 (blk (i + 1))) ∧
    blk ((j - 6) / 15) < s.pan 0x14 4 ∧ a = shelfAt s (blk ((j - 6) / 15)) + 4 * ((j - 6) % 15)

/-! ### Words that move their split or the stream -/

/-- The issuing split has taken a word: it is advanced, and its group has issued (R105, R118, R160). -/
def wordTaken (i : Instr) (s : State) : State :=
  (s.modS (advance i s 0)).modG fun g => { g with lastIssue := s.clock, overdue := false, yielded := (advance i s 0 s.spl).gaveWay }

/-- The issuing split has taken a word that does h to it besides: whether a clause with its Yield bit is complete shows in what the split is then (R105). -/
def wordEnds (i : Instr) (s : State) (h : Split → Split) : State :=
  let u := s.modS fun p => h (advance i s 0 p)
  u.modG fun g => { g with lastIssue := s.clock, overdue := false, yielded := u.spl.gaveWay }

/-- The issuing split has taken a clause header: the clause stands open, SIG folded from 0xFFFFFFFF where the header seeds it (R118, R119,
R160). -/
def headerTaken (i : Instr) (len fa fb : Nat) (yield seed : Bool) (s : State) : State :=
  (s.modS fun x => { x with
    sig := crc32c (if seed then 0xFFFFFFFF else x.sig) (encode i)
    hdr := x.pc
    pc := x.pc + 4
    left := len
    ll := 0
    flagA := fa
    flagB := fb
    yieldBit := yield
    status := .ready
    merged := false
    lastIssue := s.clock
    held := none
    atH := if x.frame.isSome then x.atH else none }).modG fun g => { g with lastIssue := s.clock, overdue := false, yielded := false }

/-! ### Traps of words -/

/-- The frame of the word at which a split stands (R172, R415). -/
def frameHere (i : Instr) (x : Split) : Frame :=
  { pc := x.pc, hdr := x.hdr, ll := x.ll, left := x.left, flagA := x.flagA, flagB := x.flagB, yieldBit := x.yieldBit, ofStream := false,
    atH := false, word := encode i, mode := x.mode, sig := x.sig }

/-- A split that enters its handler at entry with a frame (R415). -/
def entered (f : Frame) (code : Nat) (info : DWord) (entry : Nat) (x : Split) : Split :=
  { x with frame := some f, trapCode := BitVec.ofNat 32 code, trapInfo := info, mode := x.mode &&& ~~~0x38, sig := 0xFFFFFFFF,
           pc := entry, left := 0, ll := 0, status := .ready, replay := none, kvFail := none, merged := false }

/-- The issuing split has taken a trap at its word, and u is what the word has done to s besides (R105, R415). -/
def trapTaken (i : Instr) (s u : State) (code : Nat) (info : DWord) (entry : Nat) : State :=
  (u.modS fun p => { entered (frameHere i s.spl) code info entry p with
    lastIssue := s.clock, held := none, last := some (frameHere i s.spl) }).modG fun g =>
    { g with lastIssue := s.clock, overdue := false, yielded := false }

/-! ### The matrix stream -/

/-- A cycle passes for the issuing core, and nothing else happens (R5, R112). -/
structure Ticked (u t : State) : Prop where
  rest : t = { u with blocks := t.blocks, cores := t.cores, clock := u.clock + 1 }
  cores : ∀ d c, t.coreOf d c =
    if State.coreKey d c = State.coreKey u.blk.die u.blk.core then { u.coreOf d c with cycles := (u.coreOf d c).cycles + 1 }
    else u.coreOf d c
  busy : t.blk = { u.blk with busy := u.blk.busy + 1 }
  blocks : ∀ b, t.blkOf b = { u.blkOf b with busy := (t.blkOf b).busy, idle := (t.blkOf b).idle, stalled := (t.blkOf b).stalled }

/-- The stream of the issuing block has taken its next word: the PC stands behind it (R270), and what its last word wrote is there for all (R277). -/
def msTaken (s : State) : State :=
  s.modM fun m => { m with pc := m.pc + 4, left := m.left - 1, waiting := false, heldOnce := false, old := [] }

/-- A word completes: u is what it makes of the state that has taken it (msTaken, wordTaken); then a cycle passes. -/
def Becomes (i : Instr) (s u : State) : Prop := ∃ t, exec i s = .next t ∧ Ticked u t

/-- A word traps: where its split runs no handler and the grid has one, the split enters it with this code and TRAPINFO; u is what the word has
done besides (R412, R415). -/
def Traps (i : Instr) (s u : State) (code : Nat) (info : DWord) : Prop :=
  ∀ entry, s.spl.frame = none → s.grid.trapEntry = some entry → Becomes i s (trapTaken i s u code info entry)

/-- Row i of accumulator n, in its width (R54, R269). -/
def accRow (m : Stream) (n i : Nat) : Row := (m.acc n).row (m.width n) i

/-- The stream's accumulator n changes row by row, and counts its events and overflows; f gives a row, whether it was renormalised, and
the elements clamped (R54, R58, R60). -/
def RowsBecome (m m' : Stream) (n : Nat) (f : Nat → Row → Row × Bool × Nat) : Prop :=
  (∀ k, k ≠ n → m'.acc k = m.acc k) ∧ (∀ i, i < 64 → accRow m' n i = (f i (accRow m n i)).1) ∧
  (m'.acc n).events = (m.acc n).events +
    BitVec.ofNat 32 ((List.range 64).filter fun i => (f i (accRow m n i)).2.1).length ∧
  (m'.acc n).overflows = (m.acc n).overflows + BitVec.ofNat 32 ((List.range 64).map fun i => (f i (accRow m n i)).2.2).sum

/-- No split of the receiving group has MODE.TrapAcc set (R273). -/
abbrev Unarmed (s : State) : Prop :=
  ∀ e ∈ s.blk.groups, e.2.ended = false → ∀ x ∈ e.2.splits, x.2.status ≠ .empty → x.2.trapAcc = false

/-! ### The device's controllers -/

/-- n bytes at va of a function's context, on one page, lie at pa in memory of this module that a controller of the die may access; bytes that it
writes lie in one line (R6, R218, R221, R225, R230). -/
def DevHits (s : State) (die fn ctx : Nat) (acc : AccType) (n va pa : Nat) : Prop :=
  n ≤ 4096 - va % 4096 ∧ (acc.writes = true → pa % 128 + n ≤ 128) ∧
  ∃ t, s.tlbHit die none fn ctx va acc = some t ∧ (acc.writes = true → t.writable = true) ∧
    s.reachPa fn (t.pa + va % t.size) n (!acc.writes) = .ok pa ∧ s.rangeOf pa ≠ .host

/-- An operation makes t of the state that its agent w finds: where nothing that it does on its way has to be waited for, the machine goes on with
t (R340, R371, R379; log 71). -/
def Makes (i : Instr) (s : State) (w : FarWho) (t : State) : Prop := t.farAsk = none → exec i s = .next (t.agentDone s w)

/-- A die's lane issues the packet b from the head of queue q in this issue step, and u is the state as the step has come to it: nothing
is wrong with the packet's fields (R75, R82). -/
def Serves (s : State) (d l q : Nat) (b : List Byte) (u : State) : Prop :=
  (s.asAgent (.queue q)).fwTurn d l (pkType b) = (u, true) ∧ u.queueHead q = .pkt b ∧ u.packetError q b = none ∧
    ∃ i, (s.laneOf d l).queue = some i ∧ q = 1024 * d + i

/-- Only the event queue of a function on a die changes, to x. -/
def EvqBecomes (s t : State) (fn die : Nat) (x : EventQ) : Prop :=
  t = { s with evq := t.evq } ∧ ∀ f d, t.evqOf f d = if 4 * f + d = 4 * fn + die then x else s.evqOf f d

end Sys2Proof.Machine
end

