-- ==== Sys2Proof/Certificates/Slice0/Obligations.lean ====
section
/-! DEFINITION. The statements for the provers. A statement of several parts is the conjunction of the claims before it. -/

open Sys2Proof Sys2Proof.Machine

/-- R167 whole: ELECT writes the lowest lane of Exec that is not dead to sD, and marks it in pA unless pA is p0, whatever the guard
holds. Nothing else changes. -/
def Obligations.ElectChoosesALane : Prop :=
  ∀ (s : State) (d a : BitVec 7), Running s →
    let may := s.spl.exec &&& ~~~s.grp.dead
    ∃ (t : State) (e : Word), exec (.elect d a) s = .next t ∧ GroupFrame s t ∧
      (may = 0 → e = 0xFFFFFFFF) ∧
      (may ≠ 0 → may.getLsbD e.toNat = true ∧ ∀ l, l < e.toNat → may.getLsbD l = false) ∧
      t.spl = advance (.elect d a) s 0 (s.spl.setS d.toNat e) ∧
      t.grp = { s.grp with splits := t.grp.splits, p := t.grp.p, lastIssue := s.clock, overdue := false, yielded := t.spl.gaveWay } ∧
      ∀ r l, l < 96 → t.grp.getPr r l =
        if r = a.toNat ∧ r ≠ 0 ∧ may.getLsbD l = true then decide (e.toNat = l) else s.grp.getPr r l

/-- R171 whole: TRAP raises TrapInstruction with its number in TRAPINFO; the split stands at the entry of the grid's handler, and the
`rteCont` of a handler with that frame stands at the word behind TRAP. Only the split has changed. -/
def Obligations.TrapRaises : Prop :=
  ∀ (s : State) (c : BitVec 16) (entry : Nat), Running s → s.spl.frame = none → s.grid.trapEntry = some entry → s.spl.left ≠ 0 →
    ∃ t, exec (.trap c) s = .next t ∧ t.spl.trapCode.toNat = 0x18 ∧ t.spl.trapInfo.truncate 16 = c ∧
      (∀ k, 16 ≤ k → t.spl.trapInfo.getLsbD k = false) ∧ t.spl.pc = entry ∧
      (∀ e, e ≠ s.focus.ent → t.splOf s.focus.blk s.focus.grp e = s.splOf s.focus.blk s.focus.grp e) ∧
      (∀ q, t.spl.getS q = s.spl.getS q) ∧ t.grp.v = s.grp.v ∧ t.grp.p = s.grp.p ∧ t.mem = s.mem ∧
      ∀ u, Running u → u.spl.frame = t.spl.frame → ∃ v, exec .rteCont u = .next v ∧ v.spl.pc = s.spl.pc + 4

/-- R289 whole: ACCZ clears every row of an accumulator, or of a wide pair; the counts stand, and every other accumulator. -/
def Obligations.AcczClears : Prop :=
  ∀ (s : State) (n : BitVec 3), Running s → Unarmed s → s.ms.oddWide n.toNat = false →
    ∃ a, Becomes (.accz n) s ((msTaken s).modM fun m => { m with a := a }) ∧
      let m : Stream := { s.ms with a := a }
      (∀ i, i < 64 → let r := accRow m n.toNat i
        r.unset = true ∧ r.pinned = false ∧ r.e = 0 ∧ r.h = s.ms.width n.toNat - 1 ∧ ∀ j, j < 64 → r.at_ j = 0 ∧ r.tag j = 0) ∧
      (m.acc n.toNat).events = (s.ms.acc n.toNat).events ∧ (m.acc n.toNat).overflows = (s.ms.acc n.toNat).overflows ∧
      ∀ k, k ≠ n.toNat → m.acc k = s.ms.acc k

/-- R181 whole: each form of the scalar ALU answers a next state in which sD holds the value of the table; nothing else changes. -/
def Claims.ScalarAlu : Prop :=
  ∀ (s : State) (d a b : BitVec 7), Running s →
    let x := s.getS a.toNat
    let y := s.getS b.toNat
    ScalarResult (.smov d a) s d x ∧
    ScalarResult (.sadd d a b) s d (x + y) ∧
    ScalarResult (.ssub d a b) s d (x - y) ∧
    ScalarResult (.smul d a b) s d (x * y) ∧
    ScalarResult (.smulh false d a b) s d (BitVec.ofInt 32 (x.toInt * y.toInt / 2 ^ 32)) ∧
    ScalarResult (.smulh true d a b) s d (BitVec.ofNat 32 (x.toNat * y.toNat / 2 ^ 32)) ∧
    ScalarResult (.sand d a b) s d (x &&& y) ∧
    ScalarResult (.sor d a b) s d (x ||| y) ∧
    ScalarResult (.sxor d a b) s d (x ^^^ y) ∧
    ScalarResult (.snot d a) s d (~~~x) ∧
    ScalarResult (.sshl d a b) s d (x <<< y.toNat) ∧
    ScalarResult (.sshr d a b) s d (x >>> y.toNat) ∧
    ScalarResult (.ssra d a b) s d (x.sshiftRight y.toNat) ∧
    ScalarResult (.smin false d a b) s d (BitVec.ofInt 32 (min x.toInt y.toInt)) ∧
    ScalarResult (.smin true d a b) s d (BitVec.ofNat 32 (min x.toNat y.toNat)) ∧
    ScalarResult (.smax false d a b) s d (BitVec.ofInt 32 (max x.toInt y.toInt)) ∧
    ScalarResult (.smax true d a b) s d (BitVec.ofNat 32 (max x.toNat y.toNat)) ∧
    (∀ c, ScalarResult (.scmp c d a b) s d (if (match c with
      | .eq => decide (x = y) | .ne => decide (x ≠ y) | .ltS => decide (x.toInt < y.toInt)
      | .leS => decide (x.toInt ≤ y.toInt) | .ltN => decide (x.toNat < y.toNat) | .leN => decide (x.toNat ≤ y.toNat)) then 1 else 0)) ∧
    ScalarResult (.ssel d a b) s d (if s.getS d.toNat ≠ 0 then x else y) ∧
    ScalarResult (.spopc d a) s d (BitVec.ofNat 32 ((List.range 32).filter fun i => x.getLsbD i).length) ∧
    (∃ n, ScalarResult (.sclz d a) s d (BitVec.ofNat 32 n) ∧ n ≤ 32 ∧ x.toNat < 2 ^ (32 - n) ∧
      (x ≠ 0 → 2 ^ (32 - n) ≤ 2 * x.toNat) ∧ (x = 0 → n = 32)) ∧
    ScalarResult (.sbrev d a) s d x.reverse ∧
    (let p := y.toNat % 32
     let w := min (y.toNat / 256 % 64) (32 - p)
     ScalarResult (.sbfe false d a b) s d (if w = 0 then 0 else (x >>> p) &&& (BitVec.ofNat 32 (2 ^ w - 1))) ∧
     ScalarResult (.sbfe true d a b) s d (if w = 0 then 0 else (x <<< (32 - p - w)).sshiftRight (32 - w)))

/-- The immediate forms (R127, R181): sD := sD op imm, SMOVI and SMOVH. -/
def Claims.ScalarImmediate : Prop :=
  ∀ (s : State) (d : BitVec 7) (i : BitVec 16) (n : BitVec 5), Running s →
    let x := s.getS d.toNat
    ScalarResult (.smovi d i) s d (i.signExtend 32) ∧
    ScalarResult (.smovh d i) s d (i ++ x.truncate 16) ∧
    ScalarResult (.saddImm d i) s d (x + i.signExtend 32) ∧
    ScalarResult (.ssubImm d i) s d (x - i.signExtend 32) ∧
    ScalarResult (.smulImm d i) s d (x * i.signExtend 32) ∧
    ScalarResult (.sandImm d i) s d (x &&& i.zeroExtend 32) ∧
    ScalarResult (.sorImm d i) s d (x ||| i.zeroExtend 32) ∧
    ScalarResult (.sxorImm d i) s d (x ^^^ i.zeroExtend 32) ∧
    ScalarResult (.sshlImm d n) s d (x <<< n.toNat) ∧
    ScalarResult (.sshrImm d n) s d (x >>> n.toNat) ∧
    ScalarResult (.ssraImm d n) s d (x.sshiftRight n.toNat)

/-- The pair forms of the scalar ALU (R181, R7), and SLDA (R182). A pair is an even register and the next. -/
def Claims.ScalarPairs : Prop :=
  ∀ (s : State) (d a b : BitVec 7) (i : BitVec 16), Running s →
    let x := s.getS (a.toNat + 1) ++ s.getS a.toNat
    let y := s.getS (b.toNat + 1) ++ s.getS b.toNat
    SplitResult (.sadd64 d a b) s (s.spl.setP d.toNat (x + y)) ∧
    SplitResult (.ssub64 d a b) s (s.spl.setP d.toNat (x - y)) ∧
    (∀ c, ScalarResult (.scmp64 c d a b) s d (if (match c with
      | .eq => decide (x = y) | .ne => decide (x ≠ y) | .ltS => decide (x.toInt < y.toInt)
      | .leS => decide (x.toInt ≤ y.toInt) | .ltN => decide (x.toNat < y.toNat) | .leN => decide (x.toNat ≤ y.toNat)) then 1 else 0)) ∧
    (Instr.wf (.slda d i) = true → ScalarResult (.slda d i) s d
      (s.grid.args.get (i.toNat + 3) ++ s.grid.args.get (i.toNat + 2) ++ s.grid.args.get (i.toNat + 1) ++
        s.grid.args.get i.toNat))

/-- What a scalar register reads after a write of one (R122, R149): s0 to s124 are one register each; a write of s125 to s127
writes a word of Exec, within Live, and ExecCopy with it. -/
def Claims.ScalarRegisterWrite : Prop :=
  ∀ (x : Split) (v : Word),
    (∀ r q, r < 125 → (x.setS r v).getS q = if q = r then v else x.getS q) ∧
    (∀ r q, 125 ≤ r → r ≤ 127 → q < 125 → (x.setS r v).getS q = x.getS q) ∧
    (∀ r, 125 ≤ r → r ≤ 127 → (x.setS r v).exec = (x.setS r v).execCopy ∧
      ∀ l, (x.setS r v).exec.getLsbD l =
        (x.live.getLsbD l && if l / 32 = r - 125 then v.getLsbD (l % 32) else x.exec.getLsbD l)) ∧
    (∀ r, (x.setS r v).live = x.live)

/-- The scalar ALU, its immediate and pair forms of the scalar ALU, SLDA, and what a write of a scalar register changes. -/
def Obligations.ScalarRegisters : Prop := Claims.ScalarAlu ∧ Claims.ScalarImmediate ∧ Claims.ScalarPairs ∧ Claims.ScalarRegisterWrite

/-- R43 and R184: what Wrap of an exact integer is. -/
def Claims.WrapOrSaturate : Prop :=
  ∀ (t : Nat) (x : Int), t ≤ 5 ∨ t = 10 ∨ t = 11 →
    ((wrapT t false x : Int) = x % (2 ^ (tyOf t).w : Nat)) ∧
    (let r := if (tyOf t).signed then signed (tyOf t).w (wrapT t true x) else (wrapT t true x : Int)
     let lo : Int := if (tyOf t).signed then -(2 ^ ((tyOf t).w - 1) : Nat) else 0
     let hi : Int := if (tyOf t).signed then (2 ^ ((tyOf t).w - 1) : Nat) - 1 else (2 ^ (tyOf t).w : Nat) - 1
     r = max lo (min hi x))

/-- R183, R184: the arithmetic, minimum, maximum and shift forms, element by element, under every type R183 allows. That VSRA fills with the top
bit under unsigned types too is the model's reading (log 28). -/
def Claims.VectorIntegerElements : Prop :=
  ∀ (s : State) (d a b : BitVec 8), Running s → vecOk intTypes [d.toNat, a.toNat, b.toNat] s = true →
    let t := s.spl.type
    let w := (tyOf t).w
    let ea := fun l k => elem t (s.grp.getVal t a.toNat l) k
    let eb := fun l k => elem t (s.grp.getVal t b.toNat l) k
    let x := fun l k => ival t (ea l k)
    let y := fun l k => ival t (eb l k)
    let z := fun l k => ival t (elem t (s.grp.getVal t d.toNat l) k)
    let high := fun l k => x l k * y l k / (2 ^ w : Nat)
    VectorElems (.vadd d a b) s d.toNat (fun l k => wrapT t s.spl.sat (x l k + y l k)) ∧
    VectorElems (.vsub d a b) s d.toNat (fun l k => wrapT t s.spl.sat (x l k - y l k)) ∧
    VectorElems (.vmul d a b) s d.toNat (fun l k => wrapT t s.spl.sat (x l k * y l k)) ∧
    VectorElems (.vmulh d a b) s d.toNat (fun l k => wrapT t false (high l k)) ∧
    VectorElems (.vmad d a b) s d.toNat (fun l k => wrapT t s.spl.sat (x l k * y l k + z l k)) ∧
    VectorElems (.vmadh d a b) s d.toNat (fun l k => wrapT t s.spl.sat (high l k + z l k)) ∧
    VectorElems (.vmin d a b) s d.toNat (fun l k => wrapT t false (min (x l k) (y l k))) ∧
    VectorElems (.vmax d a b) s d.toNat (fun l k => wrapT t false (max (x l k) (y l k))) ∧
    VectorElems (.vshl d a b) s d.toNat (fun l k => ea l k * 2 ^ eb l k % 2 ^ w) ∧
    VectorElems (.vshr d a b) s d.toNat (fun l k => ea l k / 2 ^ eb l k) ∧
    VectorElems (.vrot d a b) s d.toNat (fun l k => ea l k * 2 ^ (eb l k % w) % 2 ^ w + ea l k / 2 ^ (w - eb l k % w)) ∧
    VectorElems (.vabs d a) s d.toNat (fun l k => if (tyOf t).signed then wrapT t s.spl.sat (x l k).natAbs else ea l k) ∧
    VectorElems (.vneg d a) s d.toNat (fun l k => wrapT t s.spl.sat (-x l k)) ∧
    VectorElems (.vpopc d a) s d.toNat (fun l k => ((List.range w).filter fun i => (ea l k).testBit i).length) ∧
    (∃ n : Nat → Nat → Nat, VectorElems (.vclz d a) s d.toNat n ∧
      ∀ l k, k < (tyOf t).n → n l k ≤ w ∧ ea l k < 2 ^ (w - n l k) ∧ (ea l k ≠ 0 → 2 ^ (w - n l k) ≤ 2 * ea l k) ∧
        (ea l k = 0 → n l k = w)) ∧
    (∃ r : Nat → Nat → Nat, VectorElems (.vbrev d a) s d.toNat r ∧
      ∀ l k, k < (tyOf t).n → r l k < 2 ^ w ∧ ∀ i, i < w → (r l k).testBit i = (ea l k).testBit (w - 1 - i)) ∧
    (∃ r : Nat → Nat → Nat, VectorElems (.vsra d a b) s d.toNat r ∧
      ∀ l k, k < (tyOf t).n → r l k < 2 ^ w ∧
        ∀ i, i < w → (r l k).testBit i = (ea l k).testBit (min (i + eb l k) (w - 1)))

/-- The integer vector forms, and what wrapping and saturation are. -/
def Obligations.VectorIntegers : Prop := Claims.WrapOrSaturate ∧ Claims.VectorIntegerElements

/-- R183, R184: the forms that act on whole registers or on one operand, under every type R183 allows for each. -/
def Claims.VectorBitwiseForms : Prop :=
  ∀ (s : State) (d a b i : BitVec 8) (c : BitVec 7) (n : BitVec 16), Running s →
    let t := s.spl.type
    let va := fun l => s.grp.getV a.toNat l
    let vb := fun l => s.grp.getV b.toNat l
    let pa := fun l => s.grp.getV (a.toNat + 1) l ++ s.grp.getV a.toNat l
    let pb := fun l => s.grp.getV (b.toNat + 1) l ++ s.grp.getV b.toNat l
    (vecOk anyTypes [d.toNat, a.toNat, b.toNat] s = true →
      (isPair t = false →
        VectorResult (.vand d a b) s d.toNat (fun l => va l &&& vb l) ∧
        VectorResult (.vor d a b) s d.toNat (fun l => va l ||| vb l) ∧
        VectorResult (.vxor d a b) s d.toNat (fun l => va l ^^^ vb l) ∧
        VectorResult (.vmov d a) s d.toNat va ∧
        VectorResult (.vnot d a) s d.toNat (fun l => ~~~va l) ∧
        VectorResult (.vbcast d c) s d.toNat (fun _ => s.getS c.toNat)) ∧
      (isPair t = true →
        VectorPairResult (.vand d a b) s d.toNat (fun l => pa l &&& pb l) ∧
        VectorPairResult (.vor d a b) s d.toNat (fun l => pa l ||| pb l) ∧
        VectorPairResult (.vxor d a b) s d.toNat (fun l => pa l ^^^ pb l) ∧
        VectorPairResult (.vmov d a) s d.toNat pa ∧
        VectorPairResult (.vnot d a) s d.toNat (fun l => ~~~pa l) ∧
        (c.toNat % 2 = 0 → VectorPairResult (.vbcast d c) s d.toNat (fun _ => s.getS (c.toNat + 1) ++ s.getS c.toNat)))) ∧
    (∃ r : Nat → Word, VectorResult (.vlut3 d a i) s d.toNat r ∧ ∀ l j, j < 32 → (r l).getLsbD j =
      i.getLsbD (4 * ((va l).getLsbD j).toNat + 2 * ((s.grp.getV (a.toNat + 1) l).getLsbD j).toNat +
        ((s.grp.getV d.toNat l).getLsbD j).toNat)) ∧
    VectorResult (.vmovi d n) s d.toNat (fun _ => n.signExtend 32) ∧
    VectorResult (.vlane d) s d.toNat (fun l => BitVec.ofNat 32 l)

/-- R184: VSEL selects by the guard in every lane of Exec that is not dead, and in their helpers. -/
def Claims.VectorSelect : Prop :=
  ∀ (s : State) (d a b : BitVec 8), Running s → vecOk anyTypes [d.toNat, a.toNat, b.toNat] s = true →
    let take := fun l => if s.guardAt l then a.toNat else b.toNat
    LaneResult (.vsel d a b) s (fun r l =>
      if s.execAnyGuard.getLsbD l ∧ r = d.toNat then s.grp.getV (take l) l
      else if s.execAnyGuard.getLsbD l ∧ isPair s.spl.type = true ∧ r = d.toNat + 1 then s.grp.getV (take l + 1) l
      else s.grp.getV r l) s.grp.getPr

/-- R184: the bit-field forms, and the forms that combine the elements of a register into one number. That VDP4 and VSAD saturate under MODE.Sat is
the model's reading (log 29). -/
def Claims.VectorFieldsAndSums : Prop :=
  ∀ (s : State) (d a b : BitVec 8), Running s →
    let t := s.spl.type
    let w := (tyOf t).w
    let va := fun l => s.grp.getVal t a.toNat l
    let vb := fun l => s.grp.getVal t b.toNat l
    let vd := fun l => s.grp.getVal t d.toNat l
    let p := fun l => vb l % 64
    let f := fun l => if p l ≥ w then 0 else min (vb l / 256 % 64) (w - p l)
    (vecOk [4, 5, 10, 11] [d.toNat, a.toNat, b.toNat] s = true →
      VectorElems (.vbfe d a b) s d.toNat (fun l _ =>
        if f l = 0 then 0
        else if (tyOf t).signed then wrap w (signed (f l) (va l / 2 ^ p l)) else va l / 2 ^ p l % 2 ^ f l) ∧
      (∃ r : Nat → Nat → Nat, VectorElems (.vbfi d a b) s d.toNat r ∧ ∀ l, r l 0 < 2 ^ w ∧ ∀ i, i < w →
        (r l 0).testBit i = if p l ≤ i ∧ i < p l + f l then (va l).testBit (i - p l) else (vd l).testBit i)) ∧
    (vecOk [4, 5] [d.toNat, a.toNat, b.toNat] s = true →
      let sum := fun l => (s.grp.getV a.toNat l).toNat + (s.grp.getV b.toNat l).toNat + (s.grp.getV (d.toNat + 1) l).toNat % 2
      VectorPairResult (.vaddc d a b) s d.toNat (fun l =>
        BitVec.ofNat 32 (sum l / 2 ^ 32) ++ BitVec.ofNat 32 (sum l))) ∧
    (vecOk [0, 1, 2, 3, 4, 5] [d.toNat, a.toNat, b.toNat] s = true →
      VectorResult (.vsad d a b) s d.toNat (fun l => BitVec.ofNat 32 (wrapT 5 s.spl.sat
        (ival 5 (vd l) + ((List.range (tyOf t).n).map fun k =>
          (((ival t (elem t (va l) k) - ival t (elem t (vb l) k)).natAbs : Nat) : Int)).sum)))) ∧
    (vecOk [0, 1] [d.toNat, a.toNat, b.toNat] s = true →
      let r := if t = 0 then 4 else 5
      VectorResult (.vdp4 d a b) s d.toNat (fun l => BitVec.ofNat 32 (wrapT r s.spl.sat
        (ival r (vd l) + ((List.range 4).map fun k => ival t (elem t (va l) k) * ival t (elem t (vb l) k)).sum))))

/-- The vector forms on whole registers, VSEL, the bit fields and the sums. -/
def Obligations.VectorBits : Prop := Claims.VectorBitwiseForms ∧ Claims.VectorSelect ∧ Claims.VectorFieldsAndSums

/-- R184: VCMP under the types R183 allows; a signed comparison under s32 and s64, an unsigned one under n32 and n64. -/
def Claims.VectorCompare : Prop :=
  ∀ (s : State) (d : BitVec 7) (a b : BitVec 8), Running s → vecOk [4, 5, 10, 11] [a.toNat, b.toNat] s = true →
    let t := s.spl.type
    let x := fun l => ival t (s.grp.getVal t a.toNat l)
    let y := fun l => ival t (s.grp.getVal t b.toNat l)
    PredResult (.vcmpEq d a b) s d.toNat (fun l => decide (x l = y l)) ∧
    PredResult (.vcmpNe d a b) s d.toNat (fun l => decide (x l ≠ y l)) ∧
    PredResult (.vcmpLt d a b) s d.toNat (fun l => decide (x l < y l)) ∧
    PredResult (.vcmpLe d a b) s d.toNat (fun l => decide (x l ≤ y l)) ∧
    PredResult (.vcmpGt d a b) s d.toNat (fun l => decide (x l > y l)) ∧
    PredResult (.vcmpGe d a b) s d.toNat (fun l => decide (x l ≥ y l))

/-- R188: the predicate forms. The vector ones write pD in the lanes they execute in, and a write to p0 is ignored; PCNT and PTOS
write scalar registers from the lanes of Exec that are not dead, whatever the guard holds. -/
def Claims.PredicateForms : Prop :=
  ∀ (s : State) (d a b : BitVec 7) (i : BitVec 3) (n : Bool), Running s →
    let x := fun l => s.grp.getPr a.toNat l != i.getLsbD 0
    let y := fun l => s.grp.getPr b.toNat l != i.getLsbD 1
    let m := (s.spl.exec &&& ~~~s.grp.dead) &&& maskOf fun l => s.grp.getPr a.toNat l
    PredResult (.pand d a b i) s d.toNat (fun l => (x l && y l) != i.getLsbD 2) ∧
    PredResult (.por d a b i) s d.toNat (fun l => (x l || y l) != i.getLsbD 2) ∧
    PredResult (.pxor d a b i) s d.toNat (fun l => (x l != y l) != i.getLsbD 2) ∧
    PredResult (.pnot d a) s d.toNat (fun l => !s.grp.getPr a.toNat l) ∧
    PredResult (.pmov d a) s d.toNat (fun l => s.grp.getPr a.toNat l) ∧
    PredResult (.pset d n) s d.toNat (fun _ => n) ∧
    PredResult (.pfroms d a) s d.toNat (fun l => (s.getS (a.toNat + l / 32)).getLsbD (l % 32)) ∧
    ScalarResult (.pcnt d a) s d (BitVec.ofNat 32 ((List.range 96).filter fun l => m.getLsbD l).length) ∧
    SplitResult (.ptos d a) s
      (((s.spl.setS d.toNat (maskWord m 0)).setS (d.toNat + 1) (maskWord m 1)).setS (d.toNat + 2) (maskWord m 2))

/-- The integer comparisons and the predicate forms. -/
def Obligations.ComparesAndPredicates : Prop := Claims.VectorCompare ∧ Claims.PredicateForms

/-- R186, R189 to R191, R45, R47: the vector float forms in which no trap is enabled: one rounding under MODE.Round of the exact
result, element by element. n of VFLDEXP beyond ±6000 gives the results of ±6000: every format under- or overflows there. -/
def Claims.VectorFloatElements : Prop :=
  ∀ (s : State) (d a b : BitVec 8), Running s → vecOk floatTypes [d.toNat, a.toNat, b.toNat] s = true →
    s.spl.round ≠ 5 → s.spl.trapInv = false → s.spl.trapDiv = false →
    let t := s.spl.type
    let rm := s.spl.round
    let ea := fun l k => elem t (s.grp.getVal t a.toNat l) k
    let eb := fun l k => elem t (s.grp.getVal t b.toNat l) k
    let x := fun l k => readF (tyFmt t) s.spl.ftz (ea l k)
    let y := fun l k => readF (tyFmt t) s.spl.ftz (eb l k)
    let z := fun l k => readF (tyFmt t) s.spl.ftz (elem t (s.grp.getVal t d.toNat l) k)
    let rounded := fun n => flushOut (tyFmt t) s.spl.ftz (roundTo (tyFmt t) rm false n)
    VectorElems (.vfadd d a b) s d.toNat (fun l k => rounded (sumN rm [x l k, y l k])) ∧
    VectorElems (.vfsub d a b) s d.toNat (fun l k => rounded (sumN rm [x l k, (y l k).neg])) ∧
    VectorElems (.vfmul d a b) s d.toNat (fun l k => rounded (mulN (x l k) (y l k))) ∧
    VectorElems (.vfma d a b) s d.toNat (fun l k => rounded (sumN rm [mulN (x l k) (y l k), z l k])) ∧
    VectorElems (.vfmin d a b) s d.toNat (fun l k => rounded (minN (x l k) (y l k))) ∧
    VectorElems (.vfmax d a b) s d.toNat (fun l k => rounded (maxN (x l k) (y l k))) ∧
    VectorElems (.vfldexp d a b) s d.toNat (fun l k => rounded (scaleN
      (max (-6000) (min 6000 (if (tyOf t).n = 2 then signed 16 (eb l k) else signed 32 (eb l k)))) (x l k))) ∧
    VectorElems (.vfabs d a) s d.toNat (fun l k => rounded (x l k).abs) ∧
    VectorElems (.vfneg d a) s d.toNat (fun l k => rounded (x l k).neg) ∧
    VectorElems (.vfrnd d a) s d.toNat (fun l k => rounded (roundN rm (x l k))) ∧
    VectorElems (.vfrc d a) s d.toNat (fun l k => rounded (fracN (x l k))) ∧
    VectorElems (.vfgexp d a) s d.toNat (fun l k => rounded (gexpN (x l k))) ∧
    (t = 8 ∨ t = 9 → VectorElems (.vfclass d a) s d.toNat (fun l k => classF (tyFmt t) (ea l k))) ∧
    (t ≠ 9 →
      let once := fun n => flushOut (tyFmt t) s.spl.ftz (roundTo (tyFmt t) 0 false n)
      VectorElems (.vexp2 d a) s d.toNat (fun l k => once (exp2T (x l k)).1) ∧
      VectorElems (.vlog2 d a) s d.toNat (fun l k => once (log2T (x l k)).1) ∧
      VectorElems (.vsin d a) s d.toNat (fun l k => once (sinT (x l k)).1) ∧
      VectorElems (.vcos d a) s d.toNat (fun l k => once (cosT (x l k)).1) ∧
      VectorElems (.vtanh d a) s d.toNat (fun l k => once (tanhT (x l k)).1) ∧
      VectorElems (.vrsq d a) s d.toNat (fun l k => once (rsqT (x l k)).1) ∧
      (∀ n, (s.actTab (s.spl.bank * 4 + n.toNat)).st ≠ 1 → VectorElems (.vact d a n) s d.toNat (fun l k =>
        once (actValue (s.actTab (s.spl.bank * 4 + n.toNat)) (x l k)).1))) ∧
    (t = 6 ∨ t = 7 → VectorResult (.vdot2 d a b) s d.toNat (fun l => BitVec.ofNat 32
      (flushOut fp32 s.spl.ftz (roundTo fp32 rm false (sumN rm [mulN (x l 0) (y l 0), mulN (x l 1) (y l 1),
        readF fp32 s.spl.ftz (s.grp.getV d.toNat l).toNat])))))

/-- R190: the float comparisons under f32 and f64. eq, lt, le, gt and ge are false where an operand is NaN, ne and un are true there. -/
def Claims.VectorFloatCompare : Prop :=
  ∀ (s : State) (d : BitVec 7) (a b : BitVec 8), Running s → vecOk [8, 9] [a.toNat, b.toNat] s = true → s.spl.round ≠ 5 →
    let t := s.spl.type
    let x := fun l => readF (tyFmt t) s.spl.ftz (s.grp.getVal t a.toNat l)
    let y := fun l => readF (tyFmt t) s.spl.ftz (s.grp.getVal t b.toNat l)
    let un := fun l => (x l).isNaN || (y l).isNaN
    PredResult (.vfcmpUn d a b) s d.toNat un ∧
    PredResult (.vfcmpOrd d a b) s d.toNat (fun l => !un l) ∧
    PredResult (.vfcmpLt d a b) s d.toNat (fun l => !un l && ltN (x l) (y l)) ∧
    PredResult (.vfcmpGt d a b) s d.toNat (fun l => !un l && ltN (y l) (x l)) ∧
    PredResult (.vfcmpLe d a b) s d.toNat (fun l => !un l && !ltN (y l) (x l)) ∧
    PredResult (.vfcmpGe d a b) s d.toNat (fun l => !un l && !ltN (x l) (y l)) ∧
    PredResult (.vfcmpEq d a b) s d.toNat (fun l => !un l && !ltN (x l) (y l) && !ltN (y l) (x l)) ∧
    PredResult (.vfcmpNe d a b) s d.toNat (fun l => un l || ltN (x l) (y l) || ltN (y l) (x l))

/-- The float forms and comparisons. -/
def Obligations.VectorFloats : Prop := Claims.VectorFloatElements ∧ Claims.VectorFloatCompare

/-- R198 to R201: the conversions, where no trap is enabled. -/
def Obligations.VectorConversions : Prop :=
  ∀ (s : State) (d a b : BitVec 8), Running s → s.spl.trapInv = false →
    let t := s.spl.type
    let va := fun l => (s.grp.getV a.toNat l).toNat
    let vb := fun l => (s.grp.getV b.toNat l).toNat
    (∀ f : ElemType, f.code < 14 → t < 14 →
      let count := fun u => if isPair u then 1 else (tyOf u).n
      let e := max (count f.code) (count t)
      s.within a.toNat (regsFor f.code e) = true → s.within d.toNat (regsFor t e) = true →
      (isPair f.code = true ∨ isPair t = true → a.toNat % 2 = 0) → (isPair t = true → d.toNat % 2 = 0) →
      ∃ v : Nat → Nat → Word, LaneResult (.vcvt d a f) s v s.grp.getPr ∧
        (∀ r l, ¬(s.writeLanes.getLsbD l = true ∧ d.toNat ≤ r ∧ r < d.toNat + regsFor t e) → v r l = s.grp.getV r l) ∧
        ∀ l k, l < 96 → s.writeLanes.getLsbD l = true → k < e →
          (if isPair t then (v (d.toNat + 2 * k + 1) l ++ v (d.toNat + 2 * k) l).toNat
            else elem t (v (d.toNat + k / (tyOf t).n) l).toNat (k % (tyOf t).n)) =
          (convert s.spl f.code t (runElem s.grp f.code a.toNat l k)).1 % 2 ^ (tyOf t).w) ∧
    (∀ m, t = 8 → s.within a.toNat 1 = true → s.within d.toNat 1 = true →
      let input := fun l => if s.execLanes.getLsbD l then decodeF fp32 (va l) else .fin false 0 0
      let block := fun k => quantise m s.spl.round ((List.range 32).map fun j => input (32 * k + j))
      VectorResult (.vquant d a m) s d.toNat (fun l =>
        BitVec.ofNat 32 ((block (l / 32)).1 * 2 ^ 16 + ((block (l / 32)).2[l % 32]?).getD 0))) ∧
    (∀ m, vecOk [6, 7, 8] [d.toNat, a.toNat] s = true →
      VectorElems (.vdeq d a m) s d.toNat (fun l k =>
        roundTo (tyFmt t) 0 false (mxValue m (va l / 2 ^ 16 % 256) (va l / 2 ^ (8 * k) % 256)))) ∧
    (vecOk [2, 3, 6, 7] [d.toNat, a.toNat, b.toNat] s = true →
      VectorResult (.vpack d a b) s d.toNat (fun l => (s.grp.getV b.toNat l).truncate 16 ++ (s.grp.getV a.toNat l).truncate 16)) ∧
    (vecOk [0, 1, 12, 13] [d.toNat, a.toNat, b.toNat] s = true →
      VectorElems (.vpack d a b) s d.toNat (fun l k => (if k % 2 = 0 then va l else vb l) / 2 ^ (8 * (k / 2)) % 256)) ∧
    (∀ h : Bool, vecOk [2, 3, 6, 7] [d.toNat, a.toNat] s = true →
      VectorResult (.vunpack d a h) s d.toNat (fun l =>
        let e : BitVec 16 := (s.grp.getV a.toNat l >>> (if h then 16 else 0)).truncate 16
        if t = 2 then e.signExtend 32 else if t = 3 then e.zeroExtend 32
        else BitVec.ofNat 32 (roundTo fp32 0 false (decodeF (tyFmt t) e.toNat)))) ∧
    (∀ h : Bool, vecOk [0, 1, 12, 13] [d.toNat, a.toNat] s = true →
      VectorResult (.vunpack d a h) s d.toNat (fun l =>
        let wide : Nat → BitVec 16 := fun j =>
          let e : BitVec 8 := (s.grp.getV a.toNat l >>> (8 * (j + if h then 2 else 0))).truncate 8
          if t = 0 then e.signExtend 16 else if t = 1 then e.zeroExtend 16
          else BitVec.ofNat 16 (roundTo fp16 0 false (decodeF (tyFmt t) e.toNat))
        wide 1 ++ wide 0)) ∧
    (∀ f, f = .s4 ∨ f = .n4 ∨ f = .e2m1 →
      let code := fun l j => roundTo e4m3 0 false (let v := va l / 2 ^ (4 * j) % 16
        match f with | .s4 => intN (signed 4 v) | .n4 => intN v | _ => decodeF e2m1 v)
      VectorPairResult (.vexpand d a f) s d.toNat (fun l => BitVec.ofNat 64
        ((List.range 8).foldl (fun acc j => acc + code l j * 2 ^ (8 * j)) 0))) ∧
    (∀ f, f = .e2m3 ∨ f = .e3m2 →
      let code := fun l j => roundTo e4m3 0 false (decodeF (if f = .e2m3 then e2m3 else e3m2) (va l / 2 ^ (6 * j) % 64))
      VectorResult (.vexpand d a f) s d.toNat (fun l => BitVec.ofNat 32
        ((List.range 4).foldl (fun acc j => acc + code l j * 2 ^ (8 * j)) 0)))

/-- R202 to R206: the cross-lane forms; QDIFF on a float type where no trap is enabled. The active set is the lanes that execute, helpers apart. -/
def Claims.CrossLaneForms : Prop :=
  ∀ (s : State) (d a b i : BitVec 8) (p : BitVec 2), Running s → vecOk anyTypes [d.toNat, a.toNat, b.toNat] s = true →
    let t := s.spl.type
    let own := fun l => s.grp.getVal t a.toNat l
    let quad := fun l => if s.grp.dead.getLsbD l || !((s.grp.capable ||| s.grp.helpers).getLsbD l) then 0 else own l
    let lane := fun k => if s.execLanes.getLsbD k then own k else 0
    let same := ∀ l k, s.execLanes.getLsbD l = true → s.execLanes.getLsbD k = true → own l = own k
    VectorValue (.qswapx d a) s d.toNat (fun l => quad (l / 4 * 4 + (l % 4 ^^^ 1))) ∧
    VectorValue (.qswapy d a) s d.toNat (fun l => quad (l / 4 * 4 + (l % 4 ^^^ 2))) ∧
    VectorValue (.qbcast d a p) s d.toNat (fun l => quad (l / 4 * 4 + p.toNat)) ∧
    (∀ y : Bool,
      let hi := fun l => quad (l / 4 * 4 + (if y then l % 4 ||| 2 else l % 4 ||| 1))
      let lo := fun l => quad (l / 4 * 4 + (if y then l % 4 &&& 1 else l % 4 &&& 2))
      (t ∈ [0, 1, 2, 3, 4, 5, 10, 11] → VectorElems (.qdiff d a y) s d.toNat (fun l k =>
        wrapT t s.spl.sat (ival t (elem t (hi l) k) - ival t (elem t (lo l) k)))) ∧
      (t ∈ floatTypes → s.spl.round ≠ 5 → s.spl.trapInv = false → VectorElems (.qdiff d a y) s d.toNat (fun l k =>
        flushOut (tyFmt t) s.spl.ftz (roundTo (tyFmt t) s.spl.round false (sumN s.spl.round
          [readF (tyFmt t) s.spl.ftz (elem t (hi l) k), (readF (tyFmt t) s.spl.ftz (elem t (lo l) k)).neg]))))) ∧
    VectorValue (.vshfl d a b) s d.toNat (fun l =>
      if (s.grp.getV b.toNat l).toNat < 96 then lane (s.grp.getV b.toNat l).toNat else own l) ∧
    VectorValue (.vshflup d a i) s d.toNat (fun l => if i.toNat ≤ l then lane (l - i.toNat) else own l) ∧
    VectorValue (.vshfldn d a i) s d.toNat (fun l => if l + i.toNat < 96 then lane (l + i.toNat) else own l) ∧
    VectorValue (.vshflx d a i) s d.toNat (fun l => if l ^^^ i.toNat < 96 then lane (l ^^^ i.toNat) else own l) ∧
    LaneResult (.vmatch d a false) s (fun r l =>
      if s.writeLanes.getLsbD l ∧ d.toNat ≤ r ∧ r < d.toNat + 3 then
        maskWord (maskOf fun k => s.execLanes.getLsbD k && own k == own l) (r - d.toNat) else s.grp.getV r l) s.grp.getPr ∧
    (same → LaneResult (.vmatch d a true) s (fun r l =>
      if s.writeLanes.getLsbD l ∧ d.toNat ≤ r ∧ r < d.toNat + 3 then maskWord s.execLanes (r - d.toNat)
      else s.grp.getV r l) s.grp.getPr) ∧
    (¬same → LaneResult (.vmatch d a true) s (fun r l =>
      if s.writeLanes.getLsbD l ∧ d.toNat ≤ r ∧ r < d.toNat + 3 then 0 else s.grp.getV r l) s.grp.getPr)

/-- R205: the votes and the ballot, which write scalar registers from the active set. -/
def Claims.VotesAndBallot : Prop :=
  ∀ (s : State) (d a : BitVec 7), Running s →
    let yes := fun l => s.grp.getPr a.toNat l
    let m := s.execLanes &&& maskOf fun l => yes l
    (∀ v, (∀ l, s.execLanes.getLsbD l = true → yes l = true) → v = .all ∨ v = .uni → ScalarResult (.vvote v d a) s d 1) ∧
    ((∃ l, s.execLanes.getLsbD l = true ∧ yes l = true) → ScalarResult (.vvote .any d a) s d 1) ∧
    ((∀ l, s.execLanes.getLsbD l = true → yes l = false) →
      ScalarResult (.vvote .uni d a) s d 1 ∧ ScalarResult (.vvote .any d a) s d 0) ∧
    ((∃ l, s.execLanes.getLsbD l = true ∧ yes l = false) → ScalarResult (.vvote .all d a) s d 0) ∧
    ((∃ l k, s.execLanes.getLsbD l = true ∧ yes l = true ∧ s.execLanes.getLsbD k = true ∧ yes k = false) →
      ScalarResult (.vvote .uni d a) s d 0) ∧
    SplitResult (.vballot d a) s
      (((s.spl.setS d.toNat (maskWord m 0)).setS (d.toNat + 1) (maskWord m 1)).setS (d.toNat + 2) (maskWord m 2))

/-- R206, R62, R63: the reductions and the scans over the active set. That MODE.Round 5 stops the scans of float types only is the model's reading
(log 103). -/
def Claims.ReductionsAndScans : Prop :=
  ∀ (s : State) (d a : BitVec 8), Running s →
    let t := s.spl.type
    let w := (tyOf t).w
    let ls := (List.range 96).filter fun l => s.execLanes.getLsbD l
    let col := fun k => ls.map fun l => elem t (s.grp.getVal t a.toNat l) k
    (vecOk [4, 5, 10, 11] [d.toNat, a.toNat] s = true →
      VectorElems (.vredi d a .add) s d.toNat (fun _ _ => wrapT t s.spl.sat ((col 0).map (ival t)).sum) ∧
      VectorElems (.vredi d a .and) s d.toNat (fun _ _ => (col 0).foldl (· &&& ·) (2 ^ w - 1)) ∧
      VectorElems (.vredi d a .or) s d.toNat (fun _ _ => (col 0).foldl (· ||| ·) 0) ∧
      VectorElems (.vredi d a .xor) s d.toNat (fun _ _ => (col 0).foldl (· ^^^ ·) 0) ∧
      VectorElems (.vredi d a .min) s d.toNat (fun _ _ => wrapT t false (((col 0).map (ival t)).foldl min (maxT t))) ∧
      VectorElems (.vredi d a .max) s d.toNat (fun _ _ => wrapT t false (((col 0).map (ival t)).foldl max (minT t)))) ∧
    (vecOk floatTypes [d.toNat, a.toNat] s = true → s.spl.round ≠ 5 → s.spl.trapInv = false →
      VectorElems (.vsumf d a) s d.toNat (fun _ k =>
        if ls = [] then 0
        else flushOut (tyFmt t) s.spl.ftz (roundTo (tyFmt t) s.spl.round false
          (sumN s.spl.round ((col k).map (readF (tyFmt t) s.spl.ftz)))))) ∧
    (vecOk [4, 5, 6, 7, 8, 9, 10, 11] [d.toNat, a.toNat] s = true → (t ∈ floatTypes → s.spl.round ≠ 5) → ∀ o e,
      ∃ v : Nat → Nat → Word, LaneResult (.vscan d a o e) s v s.grp.getPr ∧
      (∀ r l, ¬(s.execLanes.getLsbD l = true ∧ (r = d.toNat ∨ isPair t = true ∧ r = d.toNat + 1)) → v r l = s.grp.getV r l) ∧
      (∀ l k, s.execLanes.getLsbD l = true → k < (tyOf t).n →
        let before := ((List.range l).filter fun j => s.execLanes.getLsbD j).map fun j => elem t (s.grp.getVal t a.toNat j) k
        let own := elem t (s.grp.getVal t a.toNat l) k
        elem t (if isPair t then (v (d.toNat + 1) l ++ v d.toNat l).toNat else (v d.toNat l).toNat) k = (match before, e with
          | [], true => scanIdentity t o
          | [], false => scanFirst s.spl t own
          | x :: r, true => r.foldl (scanStep s.spl t o) (scanFirst s.spl t x)
          | x :: r, false => scanStep s.spl t o (r.foldl (scanStep s.spl t o) (scanFirst s.spl t x)) own)))

/-- The quad, shuffle, match, vote, ballot, reduction and scan forms. -/
def Obligations.CrossLane : Prop := Claims.CrossLaneForms ∧ Claims.VotesAndBallot ∧ Claims.ReductionsAndScans

/-- R185, R186, R180: the divider forms, no trap enabled. The word issues at once, and its results are written when it completes. -/
def Obligations.DividerForms : Prop :=
  ∀ (s : State) (d a b : BitVec 8), Running s → FlagFree s → s.spl.trapDiv = false → s.spl.trapInv = false →
    let t := s.spl.type
    let w := (tyOf t).w
    let x := fun l k => ival t (elem t (s.grp.getVal t a.toNat l) k)
    let y := fun l k => ival t (elem t (s.grp.getVal t b.toNat l) k)
    let quotient := fun l k => if y l k = 0 then (0 : Int) else (x l k).tdiv (y l k)
    let remainder := fun l k => x l k - quotient l k * y l k
    let elems := fun (q : Nat → Nat) (f : Nat → Nat → Int) => ∀ l k, k < (tyOf t).n → elem t (q l) k = wrap w (f l k)
    (vecOk intTypes [d.toNat, a.toNat, b.toNat] s = true →
      (∃ q, elems q quotient ∧ LongResult (.vdiv d a b) .dividerComplete s (written s s.writeLanes [(d.toNat, q)])) ∧
      (∃ r, elems r remainder ∧ LongResult (.vrem d a b) .dividerComplete s (written s s.writeLanes [(d.toNat, r)])) ∧
      (s.within d.toNat (if isPair t then 4 else 2) = true → ∃ q r, elems q quotient ∧ elems r remainder ∧
        LongResult (.vdivm d a b) .dividerComplete s
          (written s s.writeLanes [(d.toNat, q), (d.toNat + (if isPair t then 2 else 1), r)]))) ∧
    (vecOk floatTypes [d.toNat, a.toNat, b.toNat] s = true → s.spl.round ≠ 5 →
      let f := tyFmt t
      let p := fun v l k => readF f s.spl.ftz (elem t (s.grp.getVal t v l) k)
      let rounded := fun n => flushOut f s.spl.ftz (roundTo f s.spl.round false n)
      let once := fun n => flushOut f s.spl.ftz (roundTo f 0 false n)
      (∃ q, (∀ l k, k < (tyOf t).n → elem t (q l) k = rounded (divN (p a.toNat l k) (p b.toNat l k))) ∧
        LongResult (.vfdiv d a b) .dividerComplete s (written s s.writeLanes [(d.toNat, q)])) ∧
      (t = 9 →
        (∃ q, (∀ l, elem t (q l) 0 = rounded (divN (intN 1) (p a.toNat l 0))) ∧
          LongResult (.vrcp d a) .dividerComplete s (written s s.writeLanes [(d.toNat, q)])) ∧
        (∃ q, (∀ l, elem t (q l) 0 = rounded (sqrtN (p a.toNat l 0))) ∧
          LongResult (.vsqrt d a) .dividerComplete s (written s s.writeLanes [(d.toNat, q)]))) ∧
      (t ≠ 9 →
        (∃ q, (∀ l k, k < (tyOf t).n → elem t (q l) k = once (rcpT (p a.toNat l k)).1) ∧
          LaneResultN 1 (.vrcp d a) s (written s s.writeLanes [(d.toNat, q)]) s.grp.getPr) ∧
        (∃ q, (∀ l k, k < (tyOf t).n → elem t (q l) k = rounded (sqrtN (p a.toNat l k))) ∧
          LaneResultN 1 (.vsqrt d a) s (written s s.writeLanes [(d.toNat, q)]) s.grp.getPr)))

/-- R234, R235, R240, R243: the global loads, where every accessing lane's access is aligned and reaches memory of the module,
and no buffered store and no unanswered atomic of the lane meets it. Each lane receives the bytes of memory at its address, the helper lanes 0; memory
stands. -/
def Claims.GlobalLoads : Prop :=
  ∀ (s : State) (d v : BitVec 8) (j : BitVec 6) (h : BitVec 2) (c : Scope) (pa : Nat → Nat), Running s → FlagFree s → s.acqBusy = false →
    let reads := fun (m : Nat) (i : Instr) =>
      (∀ l, s.execLanes.getLsbD l = true → s.addrFM v.toNat j.toNat l % m = 0 ∧ Hits s .read m (s.addrFM v.toNat j.toNat l) (pa l) ∧
        s.sbHit s.focus.blk s.focus.grp l false (pa l) m = false ∧ s.atomAhead l (pa l) m = false ∧ s.rangeOf (pa l) ≠ .host) →
      LongResult i .loadComplete s (fun r l =>
        if d.toNat ≤ r ∧ r < d.toNat + m / 4 then
          if s.execLanes.getLsbD l then BitVec.ofNat 32 (s.rdNum (pa l + 4 * (r - d.toNat)) 4)
          else if (s.helpersOf s.execLanes).getLsbD l then 0 else s.grp.getV r l
        else s.grp.getV r l)
    reads 4 (.ldG32 d v j h) ∧ reads 8 (.ldG64 d v j h) ∧ reads 16 (.ldG128 d v j h) ∧ reads 4 (.ldAcq d v j c)

/-- R244, R26: loads from scratch, where the block's latest matrix word has written none of it (R277; log 90), and from constant space. -/
def Claims.ScratchLoads : Prop :=
  ∀ (s : State) (d v : BitVec 8) (b : BitVec 6) (z : AccSize), Running s → FlagFree s →
    let n := accBytes z
    let at_ := s.offFSM v.toNat b.toNat
    let result := fun (i : Instr) (byte : Nat → Byte) => LongResult i .loadComplete s (fun r l =>
      if d.toNat ≤ r ∧ r < d.toNat + n / 4 then
        if s.execLanes.getLsbD l then
          let o := at_ l + 4 * (r - d.toNat)
          byte (o + 3) ++ byte (o + 2) ++ byte (o + 1) ++ byte o
        else if (s.helpersOf s.execLanes).getLsbD l then 0 else s.grp.getV r l
      else s.grp.getV r l)
    (s.acqBusy = false → s.blk.ms.old = [] →
      (∀ l, s.execLanes.getLsbD l = true → at_ l % n = 0 ∧ at_ l + n ≤ s.scrBytes s.focus.blk ∧
        s.sbHit s.focus.blk s.focus.grp l true (at_ l) n = false) →
      result (.lds d v b z) (fun o => s.blk.scratch.get o)) ∧
    ((∀ l, s.execLanes.getLsbD l = true → at_ l % n = 0) →
      result (.ldc d v b z) (fun o => s.grid.args.get (o % 65536)))

/-- R182: SLD reads size bytes at sA + off × size, and extends them as the form says. -/
def Claims.ScalarLoads : Prop :=
  ∀ (s : State) (d a b : BitVec 7) (z : LdSize) (pa : Nat), Running s → FlagFree s → s.acqBusy = false →
    let n := ldBytes z
    let va := s.addrScalar a.toNat b.toNat n
    va % n = 0 → Hits s .read n va pa → s.sbHit s.focus.blk s.focus.grp 96 false pa n = false → s.atomAhead 96 pa n = false →
    s.rangeOf pa ≠ .host →
    LongScalarResult (.sld z d a b) .loadComplete s (match z with
      | .n8 => s.spl.setS d.toNat ((s.byteAt pa).zeroExtend 32)
      | .s8 => s.spl.setS d.toNat ((s.byteAt pa).signExtend 32)
      | .n16 => s.spl.setS d.toNat ((s.byteAt (pa + 1) ++ s.byteAt pa).zeroExtend 32)
      | .s16 => s.spl.setS d.toNat ((s.byteAt (pa + 1) ++ s.byteAt pa).signExtend 32)
      | .b32 => s.spl.setS d.toNat (BitVec.ofNat 32 (s.rdNum pa 4))
      | .b64 => s.spl.setP d.toNat (BitVec.ofNat 64 (s.rdNum pa 8)))

/-- The loads. -/
def Obligations.Loads : Prop := Claims.GlobalLoads ∧ Claims.ScratchLoads ∧ Claims.ScalarLoads

/-- R234 to R241, R244, R243, R182, R239: the stores, aligned and in local memory or scratch, with room in the store buffer: the word
completes with its writes in a new buffer entry, in ascending lane order; no byte changes yet. ST.rel at sys scope reads the MMIO windows
that its group has written first (R380, R397). That a scalar store belongs to no one lane (lane 96) is the model's reading (log 35). -/
def Claims.StoresAreBuffered : Prop :=
  ∀ (s : State) (d v : BitVec 8) (j : BitVec 6) (h : BitVec 2) (c : Scope) (pa : Nat → Nat),
    Running s → FlagFree s → s.acqBusy = false → s.grp.sb.length < 32 →
    let bytes := fun l n => (List.range (n / 4)).flatMap fun k => toBytes 4 (s.grp.getV (d.toNat + k) l).toNat
    let at_ := s.addrFM v.toNat j.toNat
    let stores := fun (n : Nat) (i : Instr) =>
      (∀ l, s.execLanes.getLsbD l = true → at_ l % n = 0 ∧ Hits s .write n (at_ l) (pa l)) →
      Buffered i s ((accessing s).map fun l => { lane := l, scr := false, at_ := pa l, bytes := bytes l n, rmw := none })
    stores 4 (.stG32 d v j h) ∧ stores 8 (.stG64 d v j h) ∧ stores 16 (.stG128 d v j h) ∧
    (fenceReady s = true → c ≠ .sys ∨ s.grp.mmioDirty = [] → stores 4 (.stRel d v j c)) ∧
    (fenceReady s = true → (∀ l, s.execLanes.getLsbD l = true → at_ l % 4 = 0 ∧ Hits s .write 4 (at_ l) (pa l)) →
      let ws := (accessing s).map fun l => ({ lane := l, scr := false, at_ := pa l, bytes := bytes l 4, rmw := none } : SbWrite)
      Does 1 (.stRel d v j .sys) s (if ws = [] then s.flushed else s.flushed.pushSb ws none)) ∧
    (∀ (b : BitVec 6) (z : AccSize), let off := s.offFSM v.toNat b.toNat
      (∀ l, s.execLanes.getLsbD l = true → off l % accBytes z = 0 ∧ off l + accBytes z ≤ s.scrBytes s.focus.blk) →
      Buffered (.sts d v b z) s
        ((accessing s).map fun l => { lane := l, scr := true, at_ := off l, bytes := bytes l (accBytes z), rmw := none })) ∧
    (∀ (e a b : BitVec 7) (z : StSize) (p : Nat), let n := stBytes z
      s.addrScalar a.toNat b.toNat n % n = 0 → Hits s .write n (s.addrScalar a.toNat b.toNat n) p →
      Buffered (.sst z e a b) s [{ lane := 96, scr := false, at_ := p, bytes := toBytes n (s.getP e.toNat).toNat, rmw := none }])

/-- R245, R248, R249: RED makes one update for each lane; SCATADD one for each distinct address, at its lowest lane, with the
operands of its lanes in ascending order, and belongs to no one lane (lane 96, the model's reading, log 35). Both wait in the store buffer. -/
def Claims.UpdatesAreBuffered : Prop :=
  ∀ (s : State) (d a : BitVec 8) (o : AtomOp) (wide : Bool) (c : Scope) (pa : Nat → Nat),
    Running s → FlagFree s → s.acqBusy = false → s.grp.sb.length < 32 →
    let n := if wide then 8 else 4
    let operand := fun l => if wide then (s.grp.getVP d.toNat l).toNat else (s.grp.getV d.toNat l).toNat
    let update := fun l scr at_ lane vs => ({ lane := lane, scr := scr, at_ := at_ l, bytes := [], rmw := some (o, 8 * n, vs) } : SbWrite)
    let distinct := fun (at_ : Nat → Nat) => (accessing s).filter fun l => !(accessing s).any fun k => decide (k < l) && at_ k == at_ l
    let sharing := fun (at_ : Nat → Nat) l => ((accessing s).filter fun k => at_ k == at_ l).map operand
    ((∀ l, s.execLanes.getLsbD l = true → s.addrFA a.toNat l false % n = 0 ∧
        Hits s .atomic n (s.addrFA a.toNat l false) (pa l) ∧ s.rangeOf (pa l) ≠ .host) →
      Buffered (.red d a o false wide c) s ((accessing s).map fun l => update l false pa l [operand l]) ∧
      Buffered (.scatadd d a o false wide c) s ((distinct pa).map fun l => update l false pa 96 (sharing pa l))) ∧
    (let off := fun l => s.addrFA a.toNat l true
     (∀ l, s.execLanes.getLsbD l = true → off l % n = 0 ∧ off l + n ≤ s.scrBytes s.focus.blk) →
      Buffered (.red d a o true wide c) s ((accessing s).map fun l => update l true off l [operand l]) ∧
      Buffered (.scatadd d a o true wide c) s ((distinct off).map fun l => update l true off 96 (sharing off l)))

/-- R239, R237, R232: the oldest entry of a group's buffer that has not been sent is performed: each of its writes in order; after a FENCE or a REL of
the group only where everything before it has been performed (R395, R397). Bytes outside them read as before (where the function logs no dirty
pages), and the last write of a byte stands. That the entries are performed in order is the model's choice (logs 4, 25). -/
def Claims.BufferedWritesArePerformed : Prop :=
  ∀ (s : State) (b g : Nat) (e : SbEntry) (before rest : List SbEntry), (s.blkOf b).live = true →
    (s.grpOf b g).sb = before ++ e :: rest → e.writes ≠ [] → e.fail = none →
    (∀ w ∈ e.writes, w.tok = none ∧ w.rmw = none ∧ (w.scr = true ∨ s.canWrite w.at_ = true)) →
    (∀ x ∈ before, State.SbEntry.waits x = false) → (∀ x ∈ before ++ rest, x.id ≠ e.id ∧ x.writes ≠ []) →
    NoDirtyLog s (s.gridOf (s.blkOf b).grid).fn → s.mayFollow b g e = true →
    ∃ t, exec (.storeAck b g) s = .next t ∧
      (t.grpOf b g).sb = before ++ rest ∧
      (∀ a, (∀ w ∈ e.writes, w.scr = true ∨ a < w.at_ ∨ w.at_ + w.bytes.length ≤ a) → t.byteAt a = s.byteAt a) ∧
      (∀ a, (∀ w ∈ e.writes, w.scr = false ∨ a < w.at_ ∨ w.at_ + w.bytes.length ≤ a) →
        (t.blkOf b).scratch.get a = (s.blkOf b).scratch.get a) ∧
      (∀ ws w after, e.writes = ws ++ w :: after → ∀ k, (h : k < w.bytes.length) →
        (∀ x ∈ after, x.scr ≠ w.scr ∨ w.at_ + k < x.at_ ∨ x.at_ + x.bytes.length ≤ w.at_ + k) →
        (if w.scr then (t.blkOf b).scratch.get (w.at_ + k) else t.byteAt (w.at_ + k)) = w.bytes[k])

/-- Stores and updates stand in the store buffer until they are performed. -/
def Obligations.BufferedStores : Prop := Claims.StoresAreBuffered ∧ Claims.UpdatesAreBuffered ∧ Claims.BufferedWritesArePerformed

/-- R246, R245: ATOM on local memory or scratch, in lanes whose words do not meet: each word takes its new value at issue, the
old values are the results, and no other byte changes. On a bound word it is a release before, at sys scope with the reads of the MMIO
windows written (R247, R380, R395); after a FENCE or a REL it is one too, once all before it has been performed. Scratch stands as the block's latest
matrix word has left it (R277; log 90). -/
def Obligations.Atomics : Prop :=
  ∀ (s : State) (d a : BitVec 8) (o : AtomOp) (scr wide : Bool) (c : Scope) (pa : Nat → Nat) (bnd : Bool),
    Running s → FlagFree s → s.acqBusy = false → NoDirtyLog s s.fn →
    let n := if wide then 8 else 4
    let at_ := fun l => s.addrFA a.toNat l scr
    let u₀ := if (bnd = true ∧ c = .sys) ∨ s.grp.fenced = 5 then s.flushed else s
    let old := fun l => if scr then s.scrNum s.focus.blk (pa l) n else s.rdNum (pa l) n
    let x := fun l => if wide then (s.grp.getVP d.toNat l).toNat else (s.grp.getV d.toNat l).toNat
    let y := fun l => if wide then (s.grp.getVP (d.toNat + 2) l).toNat else (s.grp.getV (d.toNat + 1) l).toNat
    (bnd = true ↔ ∃ l, s.execLanes.getLsbD l = true ∧ s.isBound scr (at_ l) n = true) → (bnd = true → fenceReady s = true) →
    (s.grp.fenced = 0 ∨ s.grp.sb = [] ∧ s.atomsOut s.focus.blk s.focus.grp = false) → (scr = true → s.blk.ms.old = []) →
    (∀ l, s.execLanes.getLsbD l = true → at_ l % n = 0 ∧
      s.sbHit s.focus.blk s.focus.grp l scr (pa l) n = false ∧
      (if scr then pa l = at_ l ∧ at_ l + n ≤ s.scrBytes s.focus.blk
       else Hits s .atomic n (at_ l) (pa l) ∧ s.rangeOf (pa l) ≠ .host ∧ s.canWrite (pa l) = true)) →
    (∀ l k, s.execLanes.getLsbD l = true → s.execLanes.getLsbD k = true → l ≠ k → pa l + n ≤ pa k ∨ pa k + n ≤ pa l) →
    ∃ id t u, exec (.atom d a o scr wide c) s = .next t ∧ IssueFrame s t ∧ t.spl = bound (.atom d a o scr wide c) s id ∧
      t.grp = { u₀.grp with splits := t.grp.splits, lastIssue := s.clock, overdue := false, yielded := t.spl.gaveWay } ∧
      t.blk = { s.blk with groups := t.blk.groups, busy := t.blk.busy, scratch := t.blk.scratch } ∧
      t = { u₀ with mem := t.mem, poison := t.poison, blocks := t.blocks, cores := t.cores, clock := t.clock, ops := t.ops, nextId := t.nextId } ∧
      (∀ l, s.execLanes.getLsbD l = true →
        (if scr then t.scrNum s.focus.blk (pa l) n else t.rdNum (pa l) n) = atomNew o (8 * n) (old l) (x l) (y l) % 2 ^ (8 * n)) ∧
      (∀ q, scr = true ∨ (∀ l, s.execLanes.getLsbD l = true → q < pa l ∨ pa l + n ≤ q) → t.byteAt q = s.byteAt q) ∧
      (∀ q, scr = false ∨ (∀ l, s.execLanes.getLsbD l = true → q < pa l ∨ pa l + n ≤ q) →
        t.blk.scratch.get q = s.blk.scratch.get q) ∧
      exec (.atomicComplete id) t = .next u ∧ Completed t u id ∧
      ∀ r l, l < 96 → u.grp.getV r l =
        if s.execLanes.getLsbD l ∧ d.toNat ≤ r ∧ r < d.toNat + n / 4 then BitVec.ofNat 32 (old l / 2 ^ (32 * (r - d.toNat)))
        else s.grp.getV r l

/-- R232, R230, R6: a write of the device to memory: the bytes written read back, no other byte changes but that of the dirty bitmap
that the log of the function on the frame's home die sets (unless a cellar command holds the bitmap's page, R344), and a sector written whole is no longer poisoned. -/
def Obligations.MemoryWrite : Prop :=
  ∀ (s : State) (fn pa : Nat) (bs : List Byte),
    let t := s.wr fn pa bs
    let x := s.fnBlock fn (s.homeDie pa)
    let log := x.dirtyBase + (s.dirtyBit pa).getD 0 / 8
    (∀ k, (h : k < bs.length) → t.byteAt (pa + k) = bs[k]) ∧
    (∀ a, a < pa ∨ pa + bs.length ≤ a → (x.flags.getLsbD 0 = true → s.dirtyBit pa ≠ none → a ≠ log) →
      t.byteAt a = s.byteAt a) ∧
    (∀ i, x.flags.getLsbD 0 = true → s.heldPage log = false → s.dirtyBit pa = some i → log < pa ∨ pa + bs.length ≤ log →
      t.byteAt log = s.byteAt log ||| (1#8 <<< (i % 8))) ∧
    (∀ p, p ∈ t.poison ↔ p ∈ s.poison ∧ ¬(pa ≤ 32 * p ∧ 32 * p + 32 ≤ pa + bs.length)) ∧
    (MemInv s → MemInv t)

/-- R242, R395, R399, R397, R400, R380: PREF, and the ordering words when what they wait for is done. A FENCE and a REL make the group's later writes
releases at their scope, and at sys scope each MMIO window written is read; nothing else changes. A fence that must wait does not issue. -/
def Claims.FencesAndObjects : Prop :=
  ∀ (s : State) (v : BitVec 8) (j : BitVec 6) (h : BitVec 2) (c : BitVec 3) (a : BitVec 7) (p : Bool), Running s →
    let released := (if c = 4 then s.flushed else s).modG fun g => { g with fenced := max g.fenced (c.toNat + 1) }
    let x := if p then (s.getS a.toNat).toNat else (s.getP a.toNat).toNat
    (FlagFree s → Does 1 (.pref v j h) s s) ∧
    (fenceReady s = true → Does 0 (.fence c) s released) ∧
    (fenceReady s = false → Holds (.fence c) s) ∧
    (x % 4 = 0 → s.isBound p x 4 = true →
      (s.groupBusy s.focus.blk s.focus.grp [.load, .atomic] = false → Does 0 (.acq c a p) s s) ∧
      (s.groupBusy s.focus.blk s.focus.grp [.load, .atomic] = true → Holds (.acq c a p) s) ∧
      (fenceReady s = true → Does 0 (.rel c a p) s released) ∧
      (fenceReady s = false → Holds (.rel c a p) s))

/-- R401, R402, R394: BIND writes the entry of the region binding table that sD names, UNBIND makes one invalid; no other entry changes. -/
def Claims.BindingTable : Prop :=
  ∀ (s : State) (d a b : BitVec 7), Running s →
    let w := (s.getS d.toNat).toNat
    let size := (s.getS (d.toNat + 1)).toNat
    let rs := w.testBit 6
    let os := w.testBit 7
    let base := if rs then (s.getS a.toNat).toNat else (s.getP a.toNat).toNat
    let obj := if os then (s.getS b.toNat).toNat else (s.getP b.toNat).toNat
    let entry := fun (t : State) k => (t.ctxOf s.fn s.ctx).binds.get {} k
    (w < 256 → base % 128 = 0 → size ≠ 0 → size % 128 = 0 → base + size ≤ (if rs then 2 ^ 32 else 2 ^ 56) → obj % 4 = 0 →
      ∃ u, Does 0 (.bind d a b) s u ∧ u = { s with fns := u.fns } ∧
        (∀ f, f ≠ s.fn → u.fnOf f = s.fnOf f) ∧ u.fnOf s.fn = { s.fnOf s.fn with ctxs := (u.fnOf s.fn).ctxs } ∧
        (∀ c, c ≠ s.ctx → u.ctxOf s.fn c = s.ctxOf s.fn c) ∧
        u.ctxOf s.fn s.ctx = { s.ctxOf s.fn s.ctx with binds := (u.ctxOf s.fn s.ctx).binds } ∧
        ∀ k, entry u k = if k = w % 64 then { valid := true, regionScr := rs, base := base, size := size, objScr := os, obj := obj }
          else entry s k) ∧
    (let n := (s.getS a.toNat).toNat
     n < 64 → ∃ u, Does 0 (.unbind a) s u ∧ u = { s with fns := u.fns } ∧
      (∀ f, f ≠ s.fn → u.fnOf f = s.fnOf f) ∧ u.fnOf s.fn = { s.fnOf s.fn with ctxs := (u.fnOf s.fn).ctxs } ∧
      (∀ c, c ≠ s.ctx → u.ctxOf s.fn c = s.ctxOf s.fn c) ∧
      u.ctxOf s.fn s.ctx = { s.ctxOf s.fn s.ctx with binds := (u.ctxOf s.fn s.ctx).binds } ∧
      ∀ k, entry u k = if k = n then { entry s k with valid := false } else entry s k)

/-- The fences, the object forms and the binding table. -/
def Obligations.FencesAndBindings : Prop := Claims.FencesAndObjects ∧ Claims.BindingTable

/-- R281, R282, R408 to R411: the barrier words on a numbered barrier. The arrival that takes the pending count to 0 completes the
phase: the count starts again, the phase number rises, and the splits that wait for it are ready. BART has no numbered form (R407). -/
def Claims.NumberedBarriers : Prop :=
  ∀ (s : State) (d a b : BitVec 7), Running s →
    let n := a.toNat % 16
    let x := s.blk.bars.get {} n
    let v := (s.getS b.toNat).toNat % 65536
    let put := fun (y : NumBar) => s.modB fun z => { z with bars := z.bars.set n y }
    let token := x.phase.zeroExtend 32
    let arrives := fun (i : Instr) =>
      (v < x.pending.toNat → Does 0 i s ((put { x with pending := x.pending - BitVec.ofNat 16 v }).setS d.toNat token)) ∧
      (v = x.pending.toNat → ∃ u : State, Does 0 i s (u.setS d.toNat token) ∧ u = { s with blocks := u.blocks } ∧
        (∀ c, u.blkOf c = if c = s.focus.blk then
            { s.blk with groups := u.blk.groups, ms := { s.ms with waiting := false },
                         bars := s.blk.bars.set n { x with pending := x.expected, phase := x.phase + 1 } }
          else { s.blkOf c with groups := (u.blkOf c).groups }) ∧
        (∀ c g, u.grpOf c g = { s.grpOf c g with splits := (u.grpOf c g).splits }) ∧
        ∀ c g e, u.splOf c g e = if c = s.focus.blk ∧ (s.splOf c g e).status = .waiting (.barNum n) then
            { s.splOf c g e with status := .ready, replay := some State.woken } else s.splOf c g e)
    (s.acqBusy = false → Does 0 (.bari .num a b) s (put { x with expected := BitVec.ofNat 16 v, pending := BitVec.ofNat 16 v })) ∧
    (x.expected ≠ 0 → fenceReady s = true → v ≠ 0 → arrives (.bara .num d a b)) ∧
    Instr.wf (.bart .num d a b) = false ∧
    (s.acqBusy = false → x.expected ≠ 0 → x.phase.toNat ≠ v → Does 0 (.barw .num a b) s s) ∧
    (s.acqBusy = false → x.expected ≠ 0 → x.phase.toNat = v → s.spl.replay ≠ some State.woken →
      Waits (.barw .num a b) s (.barNum n)) ∧
    (s.spl.replay = some State.woken → Does 0 (.barw .num a b) s s) ∧
    (s.acqBusy = false → Does 0 (.barq .num d a) s
      ((((s.setS d.toNat (x.pending ++ x.expected)).setS (d.toNat + 1) 0).setS (d.toNat + 2) (x.phase.zeroExtend 32)).setS (d.toNat + 3) 0))

/-- R404, R405, R407 to R411: the barrier words on a word in scratch or memory, aligned, within reach and well bound. w is the word
before. An arrival at a word of sys scope is a release that reads the MMIO windows written (R380). -/
def Claims.WordBarriers : Prop :=
  ∀ (s : State) (sp : BarSpace) (d a b : BitVec 7) (scr : Bool) (at_ : Nat), Running s →
    AtWord s sp (barOperand s sp a) scr at_ →
    let w := s.bwRead s.focus.blk scr at_
    let v := (s.getS b.toNat).toNat
    let write := s.bwWrite s.focus.blk scr at_
    let after := (if bwScope w = 4 then s.flushed else s).bwWrite s.focus.blk scr at_
    let count := v % 65536
    let added := (s.getS (b.toNat + 1)).toNat
    let token := BitVec.ofNat 32 (bwPhase w)
    let bindOk := bwBound w = true → bindBad s scr (barOperand s sp a) (bwIndex w) = false
    let arrives := fun (i : Instr) (n : Nat) =>
      let p := bwPending w - count
      let q := bwBytes w + n
      (p ≠ 0 ∨ q ≠ 0 → ∃ r, Does 0 i s ((after r).setS d.toNat token) ∧ SameReserved r w ∧
        BarWord r (bwExpected w) p q (bwPhase w) (bwWaiters w) (bwScope w) (bwIndex w) (bwBound w)) ∧
      (p = 0 → q = 0 → ∃ (r : Nat) (u : State), Does 0 i s (u.setS d.toNat token) ∧ SameReserved r w ∧
        BarWord r (bwExpected w) (bwExpected w) 0 (1 - bwPhase w) 0 (bwScope w) (bwIndex w) (bwBound w) ∧
        u = { after r with blocks := u.blocks } ∧
        (∀ c, u.blkOf c = { (after r).blkOf c with groups := (u.blkOf c).groups }) ∧
        (∀ c g, u.grpOf c g = { (after r).grpOf c g with splits := (u.grpOf c g).splits }) ∧
        ∀ c g e, u.splOf c g e =
          if (s.splOf c g e).status = .waiting (.barWord scr at_) ∧ (scr = false ∨ c = s.focus.blk) then
            { s.splOf c g e with status := .ready, replay := some State.woken } else s.splOf c g e)
    (v < 2 ^ 26 → 1 ≤ bits v 18 16 → bits v 18 16 ≤ (if scr then 1 else 4) →
      (v.testBit 19 = true → bindBad s scr (barOperand s sp a) (bits v 25 20) = false) →
      ∃ r, Does 0 (.bari sp a b) s (write r) ∧ SameReserved r w ∧
        BarWord r count count 0 (bwPhase w) (bwWaiters w) (bits v 18 16) (bits v 25 20) (v.testBit 19)) ∧
    (bindOk → fenceReady s = true → bwExpected w ≠ 0 → 1 ≤ bwScope w → bwScope w ≤ 4 → count ≤ bwPending w →
      (count ≠ 0 → arrives (.bara sp d a b) 0) ∧
      (bwBytes w + added < 2 ^ 48 → arrives (.bart sp d a b) added)) ∧
    (s.spl.replay = some State.woken ∨ (bindOk ∧ bwExpected w ≠ 0 ∧ bwPhase w ≠ v % 2) → Does 0 (.barw sp a b) s s) ∧
    (s.spl.replay ≠ some State.woken → bindOk → bwExpected w ≠ 0 → bwPhase w = v % 2 →
      ∃ r, SameReserved r w ∧
        BarWord r (bwExpected w) (bwPending w) (bwBytes w) (bwPhase w) (min (bwWaiters w + 1) 255) (bwScope w) (bwIndex w) (bwBound w) ∧
        exec (.barw sp a b) s = .next ((write r).modS fun x =>
          { x with status := .waiting (.barWord scr at_), lastIssue := s.clock, held := none })) ∧
    Does 0 (.barq sp d a) s
      ((((s.setS d.toNat (BitVec.ofNat 32 w)).setS (d.toNat + 1) (BitVec.ofNat 32 (w / 2 ^ 32))).setS (d.toNat + 2)
        (BitVec.ofNat 32 (w / 2 ^ 64))).setS (d.toNat + 3) (BitVec.ofNat 32 (w / 2 ^ 96)))

/-- The barriers. -/
def Obligations.Barriers : Prop := Claims.NumberedBarriers ∧ Claims.WordBarriers

/-- R262, R33: PATLD writes qP with the record at the pair sA, which is aligned, in memory of the module and well formed. -/
def Claims.PatternLoad : Prop :=
  ∀ (s : State) (p : BitVec 3) (a : BitVec 7) (pa : Nat), Running s → FlagFree s → s.acqBusy = false →
    let va := (s.getP a.toNat).toNat
    let r := BitVec.ofNat 512 (s.rdNum pa 64)
    va % 64 = 0 → Hits s .read 64 va pa → s.sbHit s.focus.blk s.focus.grp 96 false pa 64 = false → s.rangeOf pa ≠ .host →
      patCheck r = none →
      Does 1 (.patld p a) s (s.modG fun g => { g with q := g.q.set p.toNat r })

/-- R252 to R257, R263, R318: a data command whose record has what the command needs and whose scratch range fits stands last in its
queue; the device has accepted it. A command without elements completes at once, and a full engine makes the word wait. -/
def Claims.EngineCommands : Prop :=
  ∀ (s : State) (q : BitVec 2) (p : BitVec 3) (a b d : BitVec 7), Running s → FlagFree s →
    let pat := s.grp.q.get p.toNat
    let n := patElems pat
    let scr := (s.getS a.toNat).toNat
    let w := (s.getS b.toNat).toNat
    let limit := s.scrBytes s.focus.blk
    let command := fun (i : Instr) (kind : EngKind) (need : Bool) (total : Nat) =>
      (engHeld s.grp ≥ 32 → Holds i s) ∧
      (engHeld s.grp < 32 → patBytes pat ≠ 0 → need = true →
        (n = 0 → Accepts i s s) ∧
        (n ≠ 0 → scr % 32 = 0 → scr + total ≤ limit → (w = 0xFFFFFFFF ∨ w % 16 = 0 ∧ w + 16 ≤ limit) →
          Accepts i s (enqueued s q.toNat kind pat scr (if w = 0xFFFFFFFF then none else some w) 0 total)))
    let direct := !patIndirect pat && !patTranspose pat && !patDequant pat
    command (.scp q p a b) .scp direct (n * patBytes pat) ∧
    command (.scpo q p a b) .scpo direct (n * patBytes pat) ∧
    command (.sgath q p a b) .sgath (patIndirect pat) (n * patBytes pat) ∧
    command (.sscat q p a b) .sscat (patIndirect pat) (n * patBytes pat) ∧
    command (.sdeq q p a b) .sdeq (patDequant pat) (64 * n) ∧
    command (.sxpos q p a b) .sxpos (patTranspose pat) (8 * patBytes pat * (32 * ((n + 255) / 256))) ∧
    (engHeld s.grp < 32 → scr % 4 = 0 → w % 4 = 0 → scr + w ≤ limit → Accepts (.sfill d a b) s
      (if w = 0 then s else enqueued s 0 .fill 0 scr none (s.getS d.toNat) w)) ∧
    (engHeld s.grp ≥ 32 → Holds (.sfill d a b) s)

/-- R264 to R268: SCLOSE closes a batch and answers its number, SWAIT waits until a batch is complete, SQFENCE makes later commands of the
named queues wait for those that they hold, and SCANCEL takes every command of the named queues away, where none has a sector write or a
message outstanding. -/
def Claims.EngineControl : Prop :=
  ∀ (s : State) (d a : BitVec 7) (m : BitVec 4), Running s →
    let g := s.grp
    let commands := fun (x : Group) => x.eng.flatMap (·.2)
    (FlagFree s → (g.closed - g.done).toNat < 255 → ∃ id t u, exec (.sclose d) s = .next t ∧ IssueFrame s t ∧
      t.spl = bound (.sclose d) s id ∧
      t.grp = { g with splits := t.grp.splits, lastIssue := s.clock, overdue := false, yielded := t.spl.gaveWay, closed := g.closed + 1, done := t.grp.done } ∧
      (∃ k, t.grp.done = g.done + BitVec.ofNat 16 k ∧ k ≤ (g.closed - g.done).toNat + 1 ∧
        (∀ j, j < k → ∀ c ∈ commands g, c.batch ≠ g.done + BitVec.ofNat 16 (j + 1)) ∧
        (k = (g.closed - g.done).toNat + 1 ∨ ∃ c ∈ commands g, c.batch = g.done + BitVec.ofNat 16 (k + 1))) ∧
      t = { s with blocks := t.blocks, cores := t.cores, clock := t.clock, ops := t.ops, nextId := t.nextId } ∧
      exec (.loadComplete id) t = .next u ∧ Completed t u id ∧
      (∀ r, u.spl.getS r = (s.spl.setS d.toNat ((g.closed + 1).zeroExtend 32)).getS r) ∧ u.grp.v = g.v) ∧
    (FlagFree s → 255 ≤ (g.closed - g.done).toNat → Holds (.sclose d) s) ∧
    (let n : BitVec 16 := (s.getS a.toNat).truncate 16
     (g.closed - n).toNat < 2 ^ 15 →
      ((g.done - n).toNat < 2 ^ 15 → Does 0 (.swait a) s s) ∧
      (2 ^ 15 ≤ (g.done - n).toNat → Holds (.swait a) s)) ∧
    (FlagFree s → ∃ f, Accepts (.sqfence m) s (s.modG fun x => { x with engFence := f }) ∧
      ∀ q id, q < 4 → (∃ c ∈ commands g, c.id = id) →
        ((∃ e ∈ f, e.1.testBit q = true ∧ id ∈ e.2) ↔
          (∃ e ∈ g.engFence, e.1.testBit q = true ∧ id ∈ e.2) ∨
            m.toNat.testBit q = true ∧ ∃ r ∈ g.eng, m.toNat.testBit r.1 = true ∧ ∃ c ∈ r.2, c.id = id)) ∧
    (FlagFree s → (∀ r ∈ g.eng, m.toNat.testBit r.1 = true → ∀ c ∈ r.2, c.kind ≠ .lxin ∧ c.kind ≠ .lxout ∧ State.engWriting c = false ∧ c.stop = []) →
      (∀ r ∈ s.remotes, r.2.blk = s.focus.blk → r.2.grp = s.focus.grp → r.2.engine = none) →
      ∃ u, Accepts (.scancel m) s u ∧ u = { s with blocks := u.blocks, parks := u.parks } ∧
        (∀ b, b ≠ s.focus.blk → u.blkOf b = s.blkOf b) ∧ u.blk = { s.blk with groups := u.blk.groups } ∧
        (∀ k, k ≠ s.focus.grp → u.grpOf s.focus.blk k = s.grpOf s.focus.blk k) ∧
        u.grp = { g with eng := u.grp.eng, engPark := u.grp.engPark, done := u.grp.done } ∧
        (∀ r ∈ u.grp.eng, m.toNat.testBit r.1 = false ∧ r ∈ g.eng) ∧
        (∀ r ∈ g.eng, m.toNat.testBit r.1 = false → r.2 ≠ [] → r ∈ u.grp.eng))

/-- The words that command the engines. -/
def Obligations.EngineWords : Prop := Claims.PatternLoad ∧ Claims.EngineCommands ∧ Claims.EngineControl

/-- R254, R256 to R259, R263: the next sector of a command that writes scratch, each element readable: the bytes of the sector are
those of the command, and no other byte of scratch changes but those of the barrier word that the write credits. -/
def Claims.EngineScratchSectors : Prop :=
  ∀ (s : State) (b g q : Nat) (c : EngCmd) (later : List EngCmd) (e : Nat → List Byte) (sc : Nat → Nat),
    (s.grpOf b g).eng.get [] q = c :: later → s.engMay b g q c = true → c.done < c.steps → 
    (c.done = 0 → (s.grpOf b g).sb = [] ∧ s.atomsOut b g = false) → c.got = [] → c.stop = [] →
    let p := c.pat
    let w := patBytes p
    let n := patElems p
    let plane := 32 * ((n + 255) / 256)
    let readable := ∀ k, k < n → ElementIs s b p k (e k)
    c.scr % 32 = 0 ∨ c.kind = .fill →
    (match c.kind with
      | .fill => True
      | .scp | .sgath => w ≠ 0 ∧ 32 % w = 0 ∧ c.bytes = n * w ∧ readable
      | .sdeq => w = 16 ∧ c.bytes = 64 * n ∧ readable ∧ ∀ k, k < n → ∃ ps, HitsIn s b .engRead 1 ((patTable p + k) % 2 ^ 64) ps ∧
          s.rangeOf ps ≠ .host ∧ sc k = (s.byteAt ps).toNat
      | .sxpos => c.bytes = 8 * w * plane ∧ readable
      | _ => False) →
    let byte := fun (k : Nat) => match c.kind with
      | .fill => BitVec.ofNat 8 (c.fill.toNat / 2 ^ (8 * (k % 4)))
      | .sdeq =>
        let nibble := ofBytes (e (k / 64)) / 16 ^ (k % 64 / 2) % 16
        BitVec.ofNat 8 (roundTo bf16 0 false (mxValue .mxe2m1 (sc (k / 64)) nibble) / 2 ^ (8 * (k % 2)))
      | .sxpos => BitVec.ofNat 8 (((List.range 8).map fun j =>
          let i := 8 * (k % plane) + j
          if decide (i < n) && (ofBytes (e i)).testBit (k / plane) then 2 ^ j else 0).sum)
      | _ => ((e (k / w))[k % w]?).getD 0
    let lo := max c.scr (32 * (c.scr / 32 + c.done))
    let hi := min (c.scr + c.bytes) (32 * (c.scr / 32 + c.done) + 32)
    let after := fun (t : State) => t = { s with blocks := t.blocks } ∧
      (t.grpOf b g).eng.get [] q = { c with done := c.done + 1, asked := [], got := [] } :: later
    (c.word = none → ∃ t, exec (.engineSectorWrite b g q) s = .next t ∧ after t ∧
      (∀ x, x ≠ b → t.blkOf x = s.blkOf x) ∧
      t.blkOf b = { s.blkOf b with scratch := (t.blkOf b).scratch, groups := (t.blkOf b).groups, ms := (t.blkOf b).ms } ∧
      (t.blkOf b).ms = { (s.blkOf b).ms with old := (t.blkOf b).ms.old } ∧
      (∀ x, x ≠ g → t.grpOf b x = s.grpOf b x) ∧ t.grpOf b g = { s.grpOf b g with eng := (t.grpOf b g).eng } ∧
      ∀ a, (t.blkOf b).scratch.get a = if lo ≤ a ∧ a < hi then byte (a - c.scr) else (s.blkOf b).scratch.get a) ∧
    (∀ x, c.word = some x → x + 16 ≤ lo ∨ hi ≤ x →
      let v := s.scrNum b x 16
      let left := bwBytes v - (hi - lo)
      hi - lo ≤ bwBytes v → ∃ t, exec (.engineSectorWrite b g q) s = .next t ∧ after t ∧ SameReserved (t.scrNum b x 16) v ∧
        (if bwPending v = 0 ∧ left = 0 then
          BarWord (t.scrNum b x 16) (bwExpected v) (bwExpected v) 0 (1 - bwPhase v) 0 (bwScope v) (bwIndex v) (bwBound v)
         else BarWord (t.scrNum b x 16) (bwExpected v) (bwPending v) left (bwPhase v) (bwWaiters v) (bwScope v) (bwIndex v) (bwBound v)) ∧
        (∀ a, a < x ∨ x + 16 ≤ a →
          (t.blkOf b).scratch.get a = if lo ≤ a ∧ a < hi then byte (a - c.scr) else (s.blkOf b).scratch.get a) ∧
        ∀ y h k, t.splOf y h k =
          if bwPending v = 0 ∧ left = 0 ∧ y = b ∧ (s.splOf y h k).status = .waiting (.barWord true x) then
            { s.splOf y h k with status := .ready, replay := some State.woken } else s.splOf y h k)

/-- R254, R258, R264: an element that a command takes from scratch to memory, alone in its sector; and a command with nothing left to
write, which leaves its queue. -/
def Claims.EngineStores : Prop :=
  ∀ (s : State) (b g q : Nat) (c : EngCmd) (later : List EngCmd),
    (s.grpOf b g).eng.get [] q = c :: later → s.engMay b g q c = true →
    c.stop = [] →
    (∀ va pa, c.kind = .scpo ∨ c.kind = .sscat → c.got = [] → 3 ∉ c.asked → c.done < c.steps →
      (c.done = 0 → (s.grpOf b g).sb = [] ∧ s.atomsOut b g = false) →
      patBytes c.pat ≠ 0 → ElementAt s b c.pat c.done va → HitsIn s b .engWrite (patBytes c.pat) va pa → s.canWrite pa = true →
      (c.done + 1 < patElems c.pat → ∃ next, ElementAt s b c.pat (c.done + 1) next ∧ next / 32 ≠ va / 32) →
      c.word = none →
      let bs := getBytes (s.blkOf b).scratch (c.scr + c.done * patBytes c.pat) (patBytes c.pat)
      ∃ t, exec (.engineSectorWrite b g q) s = .next t ∧
        t = { s.wr (s.gridOf (s.blkOf b).grid).fn pa bs with blocks := t.blocks } ∧
        (∀ x, x ≠ b → t.blkOf x = s.blkOf x) ∧ t.blkOf b = { s.blkOf b with groups := (t.blkOf b).groups } ∧
        (∀ x, x ≠ g → t.grpOf b x = s.grpOf b x) ∧ t.grpOf b g = { (s.markMmio b g pa).grpOf b g with eng := (t.grpOf b g).eng } ∧
        (t.grpOf b g).eng.get [] q = { c with done := c.done + 1, asked := [], got := [], put := 1 } :: later) ∧
    (c.kind ≠ .lxin → c.kind ≠ .lxout → c.steps ≤ c.done → (∀ x ∈ later, x.id ≠ c.id) →
      ((s.grpOf b g).eng.map (·.1)).Nodup → (∀ r ∈ s.remotes, ¬(r.2.blk = b ∧ r.2.grp = g ∧ r.2.engine = some q)) →
      ∃ t, exec (.engineCommandComplete b g q) s = .next t ∧ t = { s with blocks := t.blocks } ∧
        (∀ x, x ≠ b → t.blkOf x = s.blkOf x) ∧ t.blkOf b = { s.blkOf b with groups := (t.blkOf b).groups } ∧
        (∀ x, x ≠ g → t.grpOf b x = s.grpOf b x) ∧
        t.grpOf b g = { s.grpOf b g with eng := (t.grpOf b g).eng, engPark := (t.grpOf b g).engPark, done := (t.grpOf b g).done } ∧
        (t.grpOf b g).eng.get [] q = later ∧
        ∀ k, k ≠ q → (t.grpOf b g).eng.get [] k = (s.grpOf b g).eng.get [] k)

/-- The sectors of an engine's commands. -/
def Obligations.EngineSectors : Prop := Claims.EngineScratchSectors ∧ Claims.EngineStores

/-- R303, R304, R309, R310, R319 to R324, R316, R317, R318, R325: the Loft words issue where the context owns the bay and the fields are
well formed: the operation is sent to its bay with its operands. -/
def Obligations.LoftWords : Prop :=
  ∀ (s : State) (d a b : BitVec 7) (o : LoftOp) (c : LoftCc) (q : BitVec 2) (p : BitVec 3), Running s → FlagFree s →
    let D := s.getS d.toNat
    let A := s.getS a.toNat
    let B := s.getS b.toNat
    let M := s.getS (d.toNat + 1)
    let bay := s.getS (a.toNat + 1)
    let K := s.getS (b.toNat + 1) ++ s.getS b.toNat
    let n := bay.toNat
    let clear := fun (x : Word) => FieldOk x ∧ fOverlap D x = false
    (MayUse s bay →
      (FieldOk D → clear A →
        Does 1 (.lops o d a b) s (sent s (.lops o d a b) n D A 0 0 (if o = .not then 0 else K) 0) ∧
        (fWidth D = 1 → Does 1 (.lcmps c d a b) s (sent s (.lcmps c d a b) n D A 0 0 K 0)) ∧
        Does 1 (.lpop d a) s (sent s (.lpop d a) n D A 0 0 0 0) ∧
        Does 1 (.lshift d a b) s (sent s (.lshift d a b) n D A 0 0 (B.signExtend 64) 0) ∧
        (clear B ∨ o = .not → Does 1 (.lop o d a b) s (sent s (.lop o d a b) n D A (if o = .not then 0 else B) 0 0 0)) ∧
        (clear B → fWidth D = 1 → Does 1 (.lcmp c d a b) s (sent s (.lcmp c d a b) n D A B 0 0 0)) ∧
        (clear B → clear M → fWidth M = 1 → Does 1 (.lsel d a b) s (sent s (.lsel d a b) n D A B M 0 0))) ∧
      (FieldOk A → Does 1 (.lsrch d a b) s (sent s (.lsrch d a b) n 0 A 0 0 K d.toNat)) ∧
      (let pat := s.grp.q.get p.toNat
       FieldOk D → patBytes pat ≠ 0 → patTranspose pat = true → A.toNat + patElems pat ≤ 262144 → engHeld s.grp < 32 →
        let command := fun (i : Instr) (kind : EngKind) (dst src : Word) =>
          if patElems pat = 0 then Accepts i s s
          else
            let u := sent s i n dst src 0 0 0 0
            let cmd : EngCmd := { id := s.nextId + 1, kind := kind, pat := pat, scr := A.toNat, word := none, fill := 0, bytes := 0,
                                  bay := n, field := D, batch := s.grp.closed + 1, done := 0, fence := engFences s.grp q.toNat,
                                  op := s.nextId, asked := [], got := [] }
            Does 1 i s (({ u with nextId := s.nextId + 2 }).modG fun g =>
              { g with eng := g.eng.set q.toNat (g.eng.get [] q.toNat ++ [cmd]) })
        command (.lxin d a q p) .lxin D 0 ∧ command (.lxout d a q p) .lxout 0 D)) ∧
    (MayUse s A → Does 1 (.lfree a) s (sent s (.lfree a) A.toNat 0 0 0 0 0 0)) ∧
    (s.lostOf = 0 → A.toNat < 64 ∨ A = 0xFFFFFFFF →
      Does 1 (.lbay d a) s (sent s (.lbay d a) (min A.toNat 64) 0 0 0 0 0 d.toNat)) ∧
    (s.lostOf = 0 → s.groupBusy s.focus.blk s.focus.grp [.loft] = false →
      (∀ f ∈ s.grp.fails, f.code ≠ 0x0F) → Does 0 .lwait s s) ∧
    (s.lostOf = 0 → s.groupBusy s.focus.blk s.focus.grp [.loft] = true → Holds .lwait s)

/-- R303, R307, R310, R312, R319 to R324: what an operation does to its bay, in every one of the 262,144 lanes, where nothing of it is
lost or fails its check. -/
def Claims.LoftOperations : Prop :=
  ∀ (s : State) (die bay : Nat) (j : LoftJob), s.bayHead die bay = some j → j.die = die → j.bay = bay → OwnOp s j →
    s.jobOwns j = true → (s.bayOf die bay).reclaiming = false →
    s.lostInfo die bay (State.jobSources j) = none → s.jobErrors j = none →
    let x := s.bayOf die bay
    let A := fieldValue x j.srcA
    let B := fieldValue x j.srcB
    let K : Int := if fSigned j.srcA then j.scalar.toInt else j.scalar.toNat
    let w := fWidth j.dst
    let bit := fun (f : Word) l i => (fieldValue x f l).fmod (2 ^ (i + 1) : Nat) ≥ (2 ^ i : Nat)
    let result := fun (value : Nat → Int → Prop) => ∃ t y, exec (.loftOperationEnd die bay) s = .next t ∧ LoftEnds s t j bay y [] ∧
      y = { x with planes := y.planes, lost := x.lost &&& ~~~State.fieldPlanes j.dst, bad := y.bad } ∧
      (∀ q, y.bad.get q = if fBase j.dst ≤ q ∧ q < fBase j.dst + w then 0 else x.bad.get q) ∧
      (∀ q, q < fBase j.dst ∨ fBase j.dst + w ≤ q → y.planes.get q = x.planes.get q) ∧
      ∀ l, l < 262144 → value l (fieldBits y j.dst l)
    let arith := fun (o : LoftOp) (other : Nat → Int) => match o with
      | .add => result fun l r => r = (A l + other l) % (2 ^ w : Nat)
      | .sub => result fun l r => r = (A l - other l) % (2 ^ w : Nat)
      | .mul => result fun l r => r = (A l * other l) % (2 ^ w : Nat)
      | .not => result fun l r => r = (-A l - 1) % (2 ^ w : Nat)
      | .and => result fun l r => ∀ i, i < w → (r.toNat.testBit i = true ↔
          bit j.srcA l i ∧ (other l).fmod (2 ^ (i + 1) : Nat) ≥ (2 ^ i : Nat))
      | .or => result fun l r => ∀ i, i < w → (r.toNat.testBit i = true ↔
          bit j.srcA l i ∨ (other l).fmod (2 ^ (i + 1) : Nat) ≥ (2 ^ i : Nat))
      | .xor => result fun l r => ∀ i, i < w → (r.toNat.testBit i = true ↔
          ¬(bit j.srcA l i ↔ (other l).fmod (2 ^ (i + 1) : Nat) ≥ (2 ^ i : Nat)))
      | .andn => result fun l r => ∀ i, i < w → (r.toNat.testBit i = true ↔
          bit j.srcA l i ∧ ¬(other l).fmod (2 ^ (i + 1) : Nat) ≥ (2 ^ i : Nat))
    let compare := fun (c : LoftCc) (other : Nat → Int) => w = 1 → result fun l r => r = if (match c with
      | .eq => decide (A l = other l) | .lt => decide (A l < other l) | .le => decide (A l ≤ other l)
      | .gt => decide (A l > other l) | .ge => decide (A l ≥ other l)) then 1 else 0
    match j.form with
    | .lop o _ _ _ => arith o B
    | .lops o _ _ _ => arith o fun _ => K
    | .lcmp c _ _ _ => compare c B
    | .lcmps c _ _ _ => compare c fun _ => K
    | .lpop _ _ => result fun l r =>
        r = (((List.range (fWidth j.srcA)).filter fun i => (fieldBits x j.srcA l).testBit i).length : Int) % (2 ^ w : Nat)
    | .lsel _ _ _ => fWidth j.mask = 1 → result fun l r =>
        r = (if fieldBits x j.mask l = 1 then A l else B l) % (2 ^ w : Nat)
    | .lshift _ _ _ => result fun l r =>
        r = (let from_ := (l : Int) - j.scalar.toInt
             if 0 ≤ from_ ∧ from_ < 262144 then A from_.toNat else 0) % (2 ^ w : Nat)
    | .lsrch _ _ _ => ∃ t n low, exec (.loftOperationEnd die bay) s = .next t ∧ LoftEnds s t j bay x [(j.sreg, n), (j.sreg + 1, low)] ∧
        n.toNat = ((List.range 262144).filter fun l => decide (A l = K)).length ∧
        (if n = 0 then low = 0xFFFFFFFF else A low.toNat = K ∧ ∀ l, l < low.toNat → A l ≠ K)
    | _ => True

/-- R312, R326: an operation reads a plane that is lost, or a row that fails its parity, or forms a result whose residue fails: the
destination keeps its planes, what R312 declares lost is lost, and the group has LoftDataError, with the lowest such plane, their number
and the cause, at the next header of any of its splits. -/
def Claims.LoftErrors : Prop :=
  ∀ (s : State) (die bay : Nat) (j : LoftJob), s.bayHead die bay = some j → j.die = die → j.bay = bay → bay < 64 → OwnOp s j →
    s.jobOwns j = true → (s.bayOf die bay).reclaiming = false → Cells.wf (s.bayOf die bay).bad = true →
    (s.grpOf j.blk j.grp).ended = false →
    let x := s.bayOf die bay
    let reads := fun (q : Nat) => (State.jobSources j).any fun w => decide (fBase w ≤ q ∧ q < fBase w + fWidth w)
    let writes := fun (q : Nat) => (match j.form with | .lsrch _ _ _ => false | _ => true) &&
      decide (fBase j.dst ≤ q ∧ q < fBase j.dst + fWidth j.dst)
    let lost := fun (q : Nat) => x.lost.getLsbD q && reads q
    let failed := fun (q : Nat) => x.bad.get q != 0 && reads q
    let adds := match j.form with
      | .lop o _ _ _ | .lops o _ _ _ => o = .add ∨ o = .sub ∨ o = .mul
      | _ => False
    let reports := fun (cause : Nat) (set : Nat → Bool) (y : Bay) => ∃ t u p, exec (.loftOperationEnd die bay) s = .next t ∧
      LoftEnds s u j bay y [] ∧ set p = true ∧ (∀ q, q < p → set q = false) ∧
      t = u.addFail j.blk j.grp { code := 0x0F, stream := false, info := BitVec.ofNat 64 (bay + p * 2 ^ 6 +
        min (((List.range 512).filter set).length - 1) 63 * 2 ^ 15 + cause * 2 ^ 21) }
    let losing := fun (set : Nat → Bool) (y : Bay) => ∀ q, q < 512 → y.lost.getLsbD q = (x.lost.getLsbD q || set q)
    (match j.form with | .lbay _ _ | .lfree _ | .lxin _ _ _ _ | .lxout _ _ _ _ => False | _ => True) →
    ((∃ q, q < 512 ∧ lost q = true) → reports 2 lost x) ∧
    ((∀ q, q < 512 → lost q = false) → (∃ q, q < 512 ∧ failed q = true) →
      ∃ y, y = { x with lost := y.lost } ∧ losing (fun q => failed q || writes q) y ∧ reports 0 (fun q => failed q || writes q) y) ∧
    ((∀ q, q < 512 → lost q = false ∧ failed q = false) → adds → x.resid = true →
      ∃ y, y = { x with lost := y.lost, resid := false } ∧ losing writes y ∧ reports 1 writes y)

/-- R258, R312, R318: LXIN writes bit j of an element into plane j of the field, in the element's own lane, and its sign or zeros above
it; LXOUT writes an element, extended from the field in its lane, to memory (here one alone in its sector). A plane or a row written only
in part keeps its marks. A command with nothing left leaves its queue and its bay, and completes for its flag. -/
def Claims.LoftMoves : Prop :=
  ∀ (s : State) (b g q : Nat) (c : EngCmd) (later : List EngCmd),
    (s.grpOf b g).eng.get [] q = c :: later → s.engMay b g q c = true → c.stop = [] → c.word = none → c.asked = [] → c.got = [] →
    FieldOk c.field → c.scr + patElems c.pat ≤ 262144 → patBytes c.pat ∈ [1, 2, 4, 8] →
    let d := (s.blkOf b).die
    let w := patBytes c.pat
    let n := patElems c.pat
    let F := fBase c.field
    let x := s.bayOf d c.bay
    let first := c.done = 0 → (s.grpOf b g).sb = [] ∧ s.atomsOut b g = false
    let kept := fun (t : State) => (∀ k, k ≠ b → t.blkOf k = s.blkOf k) ∧ t.blkOf b = { s.blkOf b with groups := (t.blkOf b).groups } ∧
      (∀ k, k ≠ g → t.grpOf b k = s.grpOf b k)
    (∀ e : Nat → List Byte, c.kind = .lxin → c.done = 0 → n ≠ 0 → first → (∀ k, k < n → ElementIs s b c.pat k (e k)) →
      ∃ t y, exec (.engineSectorWrite b g q) s = .next t ∧ t = { s with blocks := t.blocks, dies := t.dies } ∧ kept t ∧
        t.grpOf b g = { s.grpOf b g with eng := (t.grpOf b g).eng } ∧
        (t.grpOf b g).eng.get [] q = { c with done := 1, asked := [], got := [] } :: later ∧
        (∀ k, k ≠ d → t.dieOf k = s.dieOf k) ∧ t.dieOf d = { s.dieOf d with bays := (t.dieOf d).bays } ∧
        (∀ k, t.bayOf d k = if k = c.bay then y else s.bayOf d k) ∧ y = { x with planes := y.planes, lost := y.lost, bad := y.bad } ∧
        (∀ p l, l < 262144 → (y.planes.get p).getLsbD l =
          if F ≤ p ∧ p < F + fWidth c.field ∧ c.scr ≤ l ∧ l < c.scr + n then
            (if p - F < 8 * w then (ofBytes (e (l - c.scr))).testBit (p - F)
             else fSigned c.field && (ofBytes (e (l - c.scr))).testBit (8 * w - 1))
          else (x.planes.get p).getLsbD l) ∧
        (∀ p, p < 512 → y.lost.getLsbD p = (x.lost.getLsbD p && !decide (n = 262144 ∧ F ≤ p ∧ p < F + fWidth c.field))) ∧
        ∀ p k, k < 128 → (y.bad.get p).getLsbD k = ((x.bad.get p).getLsbD k &&
          !decide (F ≤ p ∧ p < F + fWidth c.field ∧ c.scr ≤ 2048 * k ∧ 2048 * k + 2048 ≤ c.scr + n))) ∧
    (∀ va pa bs, c.kind = .lxout → c.done < n → first → s.engLost b c = none → ElementAt s b c.pat c.done va →
      HitsIn s b .engWrite w va pa → s.canWrite pa = true →
      (c.done + 1 < n → ∃ next, ElementAt s b c.pat (c.done + 1) next ∧ next / 32 ≠ va / 32) →
      bs.length = w → (ofBytes bs : Int) = fieldValue x c.field (c.scr + c.done) % (2 ^ (8 * w) : Nat) →
      ∃ t, exec (.engineSectorWrite b g q) s = .next t ∧
        t = { s.wr (s.gridOf (s.blkOf b).grid).fn pa bs with blocks := t.blocks } ∧ kept t ∧
        t.grpOf b g = { (s.markMmio b g pa).grpOf b g with eng := (t.grpOf b g).eng } ∧
        (t.grpOf b g).eng.get [] q = { c with done := c.done + 1, asked := [], got := [], put := 1 } :: later) ∧
    (∀ j, j ∈ (s.dieOf d).loft → j.op = c.op → j.die = d → j.blk = b → j.grp = g → OwnOp s j →
      c.kind = .lxin ∨ c.kind = .lxout → c.steps ≤ c.done → (∀ k ∈ later, k.id ≠ c.id) →
      ((s.grpOf b g).eng.map (·.1)).Nodup → (∀ r ∈ s.remotes, ¬(r.2.blk = b ∧ r.2.grp = g ∧ r.2.engine = some q)) →
      ∃ t, exec (.engineCommandComplete b g q) s = .next t ∧
        t = { s with blocks := t.blocks, dies := t.dies, ops := s.ops.del c.op } ∧ kept t ∧
        (∀ k, k ≠ d → t.dieOf k = s.dieOf k) ∧
        t.dieOf d = { s.dieOf d with loft := (s.dieOf d).loft.filter fun k => k.op != c.op } ∧
        (t.grpOf b g).eng.get [] q = later ∧ (∀ k, k ≠ q → (t.grpOf b g).eng.get [] k = (s.grpOf b g).eng.get [] k) ∧
        ∀ k, (t.splOf b g k).holdsOp c.op = false)

/-- R304, R314 to R317: LBAY answers the bay it has or takes, or why it takes none; LFREE and a reclaim return a bay to the cache, and
a reclaim leaves the loss to be delivered. -/
def Claims.LoftBays : Prop :=
  ∀ (s : State) (die op : Nat) (j : LoftJob),
    (s.dies.findSome? fun e => e.2.loft.find? fun k => k.op == op) = some j → j.op = op → OwnOp s j →
    s.bayHead j.die j.bay = some j → (s.bayOf j.die j.bay).reclaiming = false →
    let bay := s.bayOf j.die
    let own := fun n => (bay n).mode = 2 ∧ (bay n).fn = j.fn ∧ (bay n).ctx = j.ctx ∧ (bay n).reclaiming = false
    let computes := fun (p : Bay → Bool) => ((List.range 64).filter fun n => (bay n).mode == 2 && p (bay n)).length
    let answers := fun (w : Word) => ∃ t, exec (.lbayComplete op) s = .next t ∧
      exec (.loftOperationEnd j.die j.bay) s = .next t ∧ ∃ n, LoftEnds s t j n (bay n) [(j.sreg, w)]
    (∀ d a, j.form = .lbay d a → j.bay ≤ 64 → s.jobMoves j = true →
      (j.bay < 64 →
        (own j.bay → answers (BitVec.ofNat 32 j.bay)) ∧
        ((bay j.bay).mode = 1 → answers 0x80000001) ∧
        ((bay j.bay).mode = 2 → ¬own j.bay → answers 0x80000002)) ∧
      (j.bay = 64 → (∀ n, n < 64 → (bay n).mode ≠ 0) → answers 0x80000005) ∧
      (∀ n, (if j.bay < 64 then n = j.bay else n < 64 ∧ ∀ k, k < n → (bay k).mode ≠ 0) → (bay n).mode = 0 →
        if computes (fun _ => true) ≥ (s.dieOf j.die).computeMax then answers 0x80000003
        else if computes (fun x => x.fn == j.fn) ≥ (s.fnBlock j.fn j.die).maxBays then answers 0x80000004
        else (bay n).badPlanes (BitVec.allOnes 128) = 0 → ∃ t, exec (.lbayComplete op) s = .next t ∧ exec (.loftOperationEnd j.die j.bay) s = .next t ∧
          LoftEnds s t j n { mode := 2, fn := j.fn, ctx := j.ctx } [(j.sreg, BitVec.ofNat 32 n)])) ∧
    (∀ a, j.form = .lfree a → s.jobOwns j = true → ∃ t, exec (.lfreeComplete op) s = .next t ∧ exec (.loftOperationEnd j.die j.bay) s = .next t ∧
      LoftEnds s t j j.bay {} []) ∧
    (∀ v, v.testBit 31 = true → v < 2 ^ 32 → let n := v % 64
      let x := s.bayOf die n
      x.mode = 2 → (∀ k ∈ (s.dieOf die).loft, k.bay ≠ n) →
      exec (.loftReclaim die v) s = .next (((s.modDie die fun d => { d with
        bays := d.bays.set n {}
        lostMask := d.lostMask.set (x.fn * 64 + x.ctx) (d.lostMask.get 0 (x.fn * 64 + x.ctx) ||| (1 <<< n)) }).event
          x.fn die 0x07 n 0 0 x.fn 0 x.ctx)))

/-- The operations of the bays as they complete. -/
def Obligations.LoftResults : Prop := Claims.LoftOperations ∧ Claims.LoftErrors ∧ Claims.LoftMoves ∧ Claims.LoftBays

/-- R349 to R354, R360: KVX answers, in each lane that executes, the address of the slot of its position: a page that the entry lists, at
the place of the position in it. The write form needs a shelf that only its sequence holds. Nothing is written. -/
def Claims.PantryAddresses : Prop :=
  ∀ (s : State) (d a : BitVec 8) (slot : Nat → Nat), Running s → FlagFree s → s.acqBusy = false → s.grp.sb = [] → WalkFresh s →
    let found := fun (write : Bool) => ∀ l, s.execLanes.getLsbD l = true →
      let h := (s.grp.getV a.toNat l).toNat
      let pos := (s.grp.getV (a.toNat + 1) l).toNat
      ∃ x sh j at_ e, OnShelf s h pos x sh ∧ (write = true → shRef sh = 1) ∧ j = (pos - shStart sh) / s.panTpp ∧
        EntryAt s x j sh at_ ∧ WalkReads s at_ 4 e ∧ e % 2 ^ 30 ≠ 0x3FFFFFFF ∧
        slot l = (s.pan (0x20 + 24 * (e / 2 ^ 30)) 8 + e % 2 ^ 30 * (s.panTpp * s.panSlot) +
          (pos - shStart sh) % s.panTpp * s.panSlot) % 2 ^ 64
    let answer := fun r l =>
      if s.execLanes.getLsbD l = true ∧ r = d.toNat then BitVec.ofNat 32 (slot l)
      else if s.execLanes.getLsbD l = true ∧ r = d.toNat + 1 then BitVec.ofNat 32 (slot l / 2 ^ 32)
      else s.grp.getV r l
    (found false → LongResult (.kvxRd d a) .pantryWalkComplete s answer) ∧
    (found true → LongResult (.kvxWr d a) .pantryWalkComplete s answer)

/-- R361, R359: KVPIN and KVREL of a lane, where the change log is off: the count of the shelf rises or falls by one, the count before
or after is the answer, and no other byte of memory changes. (The release of the last count gives pages back.) -/
def Claims.PantryCounts : Prop :=
  ∀ (s : State) (d a : BitVec 8) (l sh pa : Nat), Running s → FlagFree s → s.acqBusy = false → s.grp.sb = [] → WalkFresh s →
    accessing s = [l] → NoDirtyLog s s.fn → s.panOn = true → (s.pan 0x88 1).testBit 7 = false →
    let x := (s.grp.getV a.toNat l).toNat
    x < s.pan 0x14 4 → WalkReads s (shelfAt s x) 64 sh → shBad s sh = false →
    WalkHits s .atomic 2 (shelfAt s x + 0x18) pa → s.canWrite pa = true → s.rangeOf pa ≠ .host →
    let counts := fun (i : Instr) (n answer : Nat) => ∃ id t u, exec i s = .next t ∧ IssueFrame s t ∧ t.spl = bound i s id ∧
      t.grp = { s.grp with splits := t.grp.splits, lastIssue := s.clock, overdue := false, yielded := t.spl.gaveWay } ∧
      t.blk = { s.blk with groups := t.blk.groups, busy := t.blk.busy } ∧ t.rdNum pa 2 = n ∧ (∀ q, q < pa ∨ pa + 2 ≤ q → t.byteAt q = s.byteAt q) ∧
      t = { s with mem := t.mem, poison := t.poison, blocks := t.blocks, cores := t.cores, clock := t.clock, ops := t.ops, nextId := t.nextId } ∧
      exec (.pantryWalkComplete id) t = .next u ∧ Completed t u id ∧
      ∀ r k, k < 96 → u.grp.getV r k = if r = d.toNat ∧ k = l then BitVec.ofNat 32 answer else s.grp.getV r k
    (shRef sh ≠ 65535 → counts (.kvpin d a) (shRef sh + 1) (shRef sh)) ∧
    (1 < shRef sh → counts (.kvrel d a) (shRef sh - 1) (shRef sh - 1))

/-- R354, R360, R361, R362: the lanes of a Pantry word that find what they look for have their results, those that fail have all ones,
and then the trap of the lowest lane that failed is taken. Here the lanes of KVX look for slots that exist, or fail at what they read; one
lane of KVPIN or KVREL fails. -/
def Claims.PantryFailures : Prop :=
  ∀ (s : State) (d a : BitVec 8), Running s → FlagFree s → s.acqBusy = false → s.grp.sb = [] → WalkFresh s →
    let info := fun (l reason x : Nat) => BitVec.ofNat 64 (l + 2 ^ 15 + reason * 2 ^ 8 + x % 2 ^ 32 * 2 ^ 32)
    let seqBad := fun (q : Nat) => bits q 7 0 = 0 ∨ 16 < bits q 7 0 ∨ 3 < bits q 15 8 ∨ bits q 511 16 ≠ 0
    let fails := fun (write : Bool) (l h pos code : Nat) (i : DWord) =>
      ((s.panOn = false ∨ s.pan 0x10 4 ≤ h) ∧ code = 0x06 ∧ i = info l 1 h) ∨
      (s.panOn = true ∧ h < s.pan 0x10 4 ∧ ∃ q, WalkReads s (seqAt s h) 128 q ∧
        ((seqBad q ∧ code = 0x06 ∧ i = info l 2 h) ∨
         (¬seqBad q ∧
          let x := bits q 543 512
          (s.pan 0x14 4 ≤ x ∧ code = 0x06 ∧ i = info l 3 x) ∨
          (x < s.pan 0x14 4 ∧ ∃ sh, WalkReads s (shelfAt s x) 64 sh ∧
            let malformed := shBad s sh = true ∨ shParent sh ≠ 0xFFFFFFFF ∨ shStart sh ≠ 0
            ((malformed ∧ code = 0x06 ∧ i = info l 3 x) ∨
             (¬malformed ∧ bitOf (shFlags sh) 4 = true ∧ code = 0x10 ∧ i = info l 0 x) ∨
             (¬malformed ∧ bitOf (shFlags sh) 4 = false ∧ bits q 7 0 = 1 ∧
               (if write = true then shLength sh < pos else shLength sh ≤ pos) ∧ code = 0x06 ∧ i = info l 4 h)))))) ∨
      (∃ x sh, OnShelf s h pos x sh ∧
        ((write = true ∧ shRef sh ≠ 1 ∧ code = 0x06 ∧ i = info l 5 x) ∨
         (write = false ∧ ∃ at_ e, EntryAt s x ((pos - shStart sh) / s.panTpp) sh at_ ∧ WalkReads s at_ 4 e ∧ e % 2 ^ 30 = 0x3FFFFFFF ∧
           code = 0x06 ∧ i = info l 6 x)))
    let traps := fun (i : Instr) (value : Nat → Nat → Option Word) (code : Nat) (inf : DWord) => ∃ v,
      let u := s.modG fun g => { g with v := v }
      (∀ r l, l < 96 → u.grp.getV r l = (value r l).getD (s.grp.getV r l)) ∧ Traps i s u code inf
    let found := fun (write : Bool) (l at_ : Nat) =>
      let pos := (s.grp.getV (a.toNat + 1) l).toNat
      ∃ x sh j ea e, OnShelf s (s.grp.getV a.toNat l).toNat pos x sh ∧ (write = true → shRef sh = 1) ∧ j = (pos - shStart sh) / s.panTpp ∧
        EntryAt s x j sh ea ∧ WalkReads s ea 4 e ∧ e % 2 ^ 30 ≠ 0x3FFFFFFF ∧
        at_ = (s.pan (0x20 + 24 * (e / 2 ^ 30)) 8 + e % 2 ^ 30 * (s.panTpp * s.panSlot) + (pos - shStart sh) % s.panTpp * s.panSlot) % 2 ^ 64
    (∀ (write : Bool) (slot : Nat → Nat) (fail : Nat → Option (Nat × DWord)) (low code : Nat) (inf : DWord),
      (∀ l, s.execLanes.getLsbD l = true → match fail l with
        | none => found write l (slot l)
        | some (c, i) => slot l = 2 ^ 64 - 1 ∧ fails write l (s.grp.getV a.toNat l).toNat (s.grp.getV (a.toNat + 1) l).toNat c i) →
      s.execLanes.getLsbD low = true → fail low = some (code, inf) → (∀ l, l < low → s.execLanes.getLsbD l = true → fail l = none) →
      traps (if write then .kvxWr d a else .kvxRd d a) (fun r l =>
        if s.execLanes.getLsbD l = false then none
        else if r = d.toNat + 1 then some (BitVec.ofNat 32 (slot l / 2 ^ 32))
        else if r = d.toNat then some (BitVec.ofNat 32 (slot l)) else none) code inf) ∧
    (∀ l, accessing s = [l] →
      let x := (s.grp.getV a.toNat l).toNat
      let refused := fun (i : Instr) (reason : Nat) =>
        traps i (fun r k => if r = d.toNat ∧ k = l then some (BitVec.allOnes 32) else none) 0x06 (info l reason x)
      let both := fun (reason : Nat) => refused (.kvpin d a) reason ∧ refused (.kvrel d a) reason
      (s.panOn = false → both 1) ∧
      (s.panOn = true → s.pan 0x14 4 ≤ x → both 3) ∧
      (∀ sh, s.panOn = true → x < s.pan 0x14 4 → WalkReads s (shelfAt s x) 64 sh →
        (shBad s sh = true → both 3) ∧
        (shBad s sh = false → (shRef sh = 65535 → refused (.kvpin d a) 7) ∧ (shRef sh = 0 → refused (.kvrel d a) 7))))

/-- R353 to R356, R359 to R361: the updates of one lane's walk, with the shelf's record at ps, a ring at pr and the log's next record at
pg. A count changes; KVX.wr adds a position at the end of the last shelf, or takes a page for an absent entry; KVREL of the last count gives
back the shelf's page, where it has one, and clears the shelf. While the log is on the change is recorded. No other byte of memory changes. -/
def Claims.PantryUpdates : Prop :=
  ∀ (s : State) (d a : BitVec 8) (l x ps pr pg : Nat), Running s → FlagFree s → s.acqBusy = false → s.grp.sb = [] → WalkFresh s →
    accessing s = [l] → NoDirtyLog s s.fn → s.panOn = true → x < s.pan 0x14 4 →
    let stands := fun (va len pa : Nat) => (∀ k n acc, 0 < n → k + n ≤ len → acc = .read ∨ acc = .atomic → WalkHits s acc n (va + k) (pa + k)) ∧
      ∀ q, pa ≤ q → q < pa + len → s.canWrite q = true ∧ s.rangeOf q ≠ .host
    let f := s.fnOf s.fn
    let sh := s.rdNum ps 64
    let entry := fun (j : Nat) => s.rdNum (ps + 0x20 + 4 * j) 4
    let logs := (s.pan 0x88 1).testBit 7
    let becomes := fun (i : Instr) (l' : List (Nat × Nat × Nat)) (log : Option (Nat × Nat)) (inUse : Nat → Nat) (wide : Bool) (answer : Nat) =>
      let all := l' ++ match log with
        | some (kind, v) => if logs then [(pg, 8, x + kind * 2 ^ 32), (pg + 8, 8, v)] else []
        | none => []
      ∃ id t u, exec i s = .next t ∧ IssueFrame s t ∧ t.spl = bound i s id ∧
        t.grp = { s.grp with splits := t.grp.splits, lastIssue := s.clock, overdue := false, yielded := t.spl.gaveWay } ∧
        t.blk = { s.blk with groups := t.blk.groups, busy := t.blk.busy } ∧
        (∀ e ∈ all, t.rdNum e.1 e.2.1 = e.2.2) ∧ (∀ q, (∀ e ∈ all, q < e.1 ∨ e.1 + e.2.1 ≤ q) → t.byteAt q = s.byteAt q) ∧
        t = { s with mem := t.mem, poison := t.poison, blocks := t.blocks, cores := t.cores, clock := t.clock, ops := t.ops, nextId := t.nextId, fns := t.fns } ∧
        (∀ k, k ≠ s.fn → t.fnOf k = s.fnOf k) ∧
        t.fnOf s.fn = { f with inUse := (t.fnOf s.fn).inUse, logWrite := if logs ∧ log.isSome then f.logWrite + 1 else f.logWrite } ∧
        (∀ k, (t.fnOf s.fn).inUse.get 0 k = inUse k) ∧
        exec (.pantryWalkComplete id) t = .next u ∧ Completed t u id ∧
        ∀ r k, k < 96 → u.grp.getV r k =
          if wide = true ∧ r = d.toNat + 1 ∧ k = l then BitVec.ofNat 32 (answer / 2 ^ 32)
          else if r = d.toNat ∧ k = l then BitVec.ofNat 32 answer else s.grp.getV r k
    let same := fun (k : Nat) => f.inUse.get 0 k
    let slot := fun (e pos : Nat) => (s.pan (0x20 + 24 * (e / 2 ^ 30)) 8 + e % 2 ^ 30 * (s.panTpp * s.panSlot) + pos % s.panTpp * s.panSlot) % 2 ^ 64
    let z := s.rdNum (pr + 16) 1
    let head := s.rdNum pr 8
    let tail := s.rdNum (pr + 8) 8
    let ring := fun (t : Nat) => stands (ringAt s t) (0x40 + 4 * 2 ^ z) pr ∧ (pr + 0x40 + 4 * 2 ^ z ≤ ps ∨ ps + 64 ≤ pr)
    let place := fun (i : Nat) => pr + 0x40 + 4 * (i % 2 ^ z)
    stands (shelfAt s x) 64 ps → shBad s sh = false →
    (logs = true → stands (s.pan 0x80 8 + 16 * (f.logWrite % 2 ^ (s.pan 0x88 1 % 32))) 16 pg ∧ (pg + 16 ≤ ps ∨ ps + 64 ≤ pg) ∧
      (pg + 16 ≤ pr ∨ pr + 0x40 + 4 * 2 ^ z ≤ pg)) →
    ((s.grp.getV a.toNat l).toNat = x →
      (shRef sh ≠ 65535 → becomes (.kvpin d a) [(ps + 0x18, 2, shRef sh + 1)] (some (3, shRef sh + 1)) same false (shRef sh)) ∧
      (1 < shRef sh → becomes (.kvrel d a) [(ps + 0x18, 2, shRef sh - 1)] (some (3, shRef sh - 1)) same false (shRef sh - 1)) ∧
      (shRef sh = 1 → logs = false → s.pan 0x14 4 ≤ shOverflow sh →
        let cleared := [(ps + 0x18, 2, 0), (ps + 4, 4, 0), (ps + 0x1B, 1, 0)]
        ((∀ j, j < 6 → entry j % 2 ^ 30 = 0x3FFFFFFF) → becomes (.kvrel d a) cleared none same false 0) ∧
        (∀ k, k < 6 → entry k % 2 ^ 30 ≠ 0x3FFFFFFF → (∀ j, j < 6 → j ≠ k → entry j % 2 ^ 30 = 0x3FFFFFFF) →
          let t := entry k / 2 ^ 30
          ring t → tail + 1 < 2 ^ 64 → f.pantryRecl.getLsbD 30 = false →
          becomes (.kvrel d a) (cleared ++ [(pr + 8, 8, tail + 1), (place tail, 4, entry k % 2 ^ 30), (ps + 0x20 + 4 * k, 4, t * 2 ^ 30 + 0x3FFFFFFF)])
            none (fun j => if j = t then same t - 1 else same j) false 0))) ∧
    (∀ q, let pos := (s.grp.getV (a.toNat + 1) l).toNat
      let j := pos / s.panTpp
      let t := bits q 15 8
      (s.grp.getV a.toNat l).toNat < s.pan 0x10 4 → WalkReads s (seqAt s (s.grp.getV a.toNat l).toNat) 128 q → bits q 7 0 = 1 → t ≤ 3 →
      bits q 511 16 = 0 → bits q 543 512 = x → shParent sh = 0xFFFFFFFF → shStart sh = 0 → bitOf (shFlags sh) 4 = false → shRef sh = 1 → j < 6 →
      (pos = shLength sh → pos + 1 < 2 ^ 32 → entry j % 2 ^ 30 ≠ 0x3FFFFFFF →
        becomes (.kvxWr d a) [(ps + 4, 4, pos + 1)] (some (1, pos + 1)) same true (slot (entry j) pos)) ∧
      (pos < shLength sh → entry j % 2 ^ 30 = 0x3FFFFFFF → ring t → f.pantryRecl.getLsbD 30 = false →
        let fails := fun (empty : Nat) => ∃ v,
          let u := s.modG fun g => { g with v := v }
          (∀ r k, k < 96 → u.grp.getV r k = if (r = d.toNat ∨ r = d.toNat + 1) ∧ k = l then BitVec.allOnes 32 else s.grp.getV r k) ∧
          Traps (.kvxWr d a) s u 0x11 (BitVec.ofNat 64 (l + t * 2 ^ 8 + empty * 2 ^ 12 + 2 ^ 15))
        (head = tail → fails 1) ∧
        (head ≠ tail → s.pan (0x30 + 24 * t) 4 + s.pan (0x34 + 24 * t) 4 ≤ same t → fails 0) ∧
        (∀ n, head < tail → same t < s.pan (0x30 + 24 * t) 4 + s.pan (0x34 + 24 * t) 4 → n = s.rdNum (place head) 4 → n ≠ 0xFFFFFFFF →
          let e := t * 2 ^ 30 + n % 2 ^ 30
          becomes (.kvxWr d a) [(pr, 8, head + 1), (place head, 4, 0xFFFFFFFF), (ps + 0x20 + 4 * j, 4, e), (ps + 0x1B, 1, shFlags sh ||| 2 ^ t)]
            (some (2, e + j * 2 ^ 32)) (fun k => if k = t then same t + 1 else same k) true (slot e pos))))

/-- R350, R357: a write of PANTRYRECL: a request is pending until the function's pages in use of the tier reach the target, and is
announced by a record, in the ring of die 0 (DEDUCED, log 12); while one is pending no other is taken. -/
def Claims.PantryReclaim : Prop :=
  ∀ (s : State) (fn v : Nat), v < 2 ^ 32 →
    let f := s.fnOf fn
    let pending := f.pantryRecl.getLsbD 30
    let tier := v / 2 ^ 28 % 4
    let target := v % 2 ^ 28
    let fields := BitVec.ofNat 32 (v % 2 ^ 30)
    let put := fun (r : Word) => s.modFn fn fun f => { f with pantryRecl := r }
    (pending = true → v.testBit 31 = true → exec (.pantryreclWrite fn v) s = .next s) ∧
    (pending = false → v.testBit 31 = true → exec (.pantryreclWrite fn v) s = .next
      ((put (if f.inUse.get 0 tier ≤ target then fields else fields ||| (1 <<< 30))).event fn 0 0x08 0 0 0 fn 0 (tier + target * 2 ^ 32))) ∧
    (v.testBit 31 = false → exec (.pantryreclWrite fn v) s = .next
      (put (if pending = true ∧ target < f.inUse.get 0 tier then fields ||| (1 <<< 30) else fields)))

/-- The Pantry's words as they complete. -/
def Obligations.PantryWords : Prop := Claims.PantryAddresses ∧ Claims.PantryCounts ∧ Claims.PantryFailures ∧ Claims.PantryUpdates ∧ Claims.PantryReclaim

/-- R269, R270, R277, R286, R296 to R302: how a matrix word reads scratch (a byte that a store still in a buffer writes is old or new,
DESIGN CHOICE, log 90), and the words that configure it, load its registers, meet barriers, loop, jump,
commit and end. -/
def Claims.StreamControl : Prop :=
  ∀ (s : State) (g : BitVec 5) (f : BitVec 4) (st w : Bool) (r k : BitVec 3) (i : BitVec 16) (n : BitVec 2) (b : BitVec 4)
    (o : BitVec 21) (o24 : BitVec 24), Running s →
    let u := msTaken s
    let at_ := 64 * i.toNat
    let size := s.scrBytes s.focus.blk
    let bar := s.blk.bars.get {} b.toNat
    let seen := s.ms.seen.get b.toNat
    let count := s.ms.k.get k.toNat
    ((Instr.mscfgGuard g).wf = true → Becomes (.mscfgGuard g) s (u.modM fun m => { m with g := g.toNat })) ∧
    ((Instr.mscfgRound f st r).wf = true → Becomes (.mscfgRound f st r) s (u.modM fun m => { m with fmt := f, rm := r.toNat, sat := st })) ∧
    ((∀ x ∈ s.blk.groups, x.2.sb = []) → ∀ a l, scrAt s a l = s.scr s.focus.blk a l) ∧
    (∀ a l j, j < l → (scrAt s a l)[j]? = some (s.blk.scratch.get (a + j)) ∨ (scrAt s a l)[j]? = bufferedByte s (a + j)) ∧
    (at_ + 4 ≤ size → Becomes (.mscfgScale i) s
      (u.modM fun m => { m with scale := BitVec.ofNat 32 (ofBytes (scrAt s at_ 4)) })) ∧
    (∃ wide, Becomes (.mscfgWide n w) s
        (u.modM fun m => { m with wide := wide, a := (m.a.del (2 * n.toNat)).del (2 * n.toNat + 1) }) ∧
      ∀ j, j ∈ wide ↔ if j = n.toNat then w = true else j ∈ s.ms.wide) ∧
    (at_ + 64 ≤ size →
      (∃ d, Becomes (.ldtDescriptors n i) s (u.modM fun m => { m with d := d }) ∧ ∀ j, d.get j =
        if 4 * n.toNat ≤ j ∧ j < 4 * n.toNat + 4 then BitVec.ofNat 128 (ofBytes (scrAt s (at_ + 16 * (j - 4 * n.toNat)) 16))
        else s.ms.d.get j) ∧
      ∃ c, Becomes (.ldtCounters i) s (u.modM fun m => { m with k := c }) ∧ ∀ j, c.get j =
        if j < 8 then BitVec.ofNat 32 (ofBytes (scrAt s (at_ + 4 * j) 4)) else s.ms.k.get j) ∧
    (bar.expected ≠ 0 →
      (1 < bar.pending.toNat → Becomes (.msbar b) s
        (u.modB fun x => { x with bars := x.bars.set b.toNat { bar with pending := bar.pending - 1 } })) ∧
      (bar.pending = 1 → ∃ v : State, Becomes (.msbar b) s v ∧ v = { u with blocks := v.blocks } ∧
        v.blk = { u.blk with bars := s.blk.bars.set b.toNat { bar with pending := bar.expected, phase := bar.phase + 1 }
                             groups := v.blk.groups } ∧
        (∀ x, x ≠ s.focus.blk → v.blkOf x = { s.blkOf x with groups := (v.blkOf x).groups }) ∧
        (∀ x y, v.grpOf x y = { s.grpOf x y with splits := (v.grpOf x y).splits }) ∧
        ∀ x y e, v.splOf x y e = if x = s.focus.blk ∧ (s.splOf x y e).status = .waiting (.barNum b.toNat) then
          { s.splOf x y e with status := .ready, replay := some State.woken } else s.splOf x y e)) ∧
    (bar.phase ≠ seen → Becomes (.mswait b) s (u.modM fun m => { m with seen := m.seen.set b.toNat (seen + 1) })) ∧
    (bar.phase = seen → s.blk.groups.any (fun x => !x.2.ended) = true →
      exec (.mswait b) s = .next (s.modM fun m => { m with waiting := true })) ∧
    (let low : BitVec 16 := count.truncate 16 + 1
     let high : BitVec 16 := (count >>> 16).truncate 16
     Becomes (.msloop k o) s (if low.toNat < high.toNat then
         u.modM fun m => { m with k := m.k.set k.toNat (high ++ low), pc := target s.ms.hdr o }
       else u.modM fun m => { m with k := m.k.set k.toNat (high ++ (0 : BitVec 16)) })) ∧
    Becomes (.msjmp o24) s (u.modM fun m => { m with pc := target s.ms.hdr o24 }) ∧
    (s.grid.restartable = false → Becomes (.msrestart i) s u) ∧
    (s.grid.restartable = true → ∃ kc dc, (∀ j, kc.get j = if j < 8 ∧ s.grid.msMask.getLsbD j then s.ms.k.get j else 0) ∧
      (∀ j, dc.get j = if j < 16 ∧ s.grid.msMask.getLsbD (j + 8) then s.ms.d.get j else 0) ∧
      Becomes (.msrestart i) s ((u.modM fun m => { m with commit := some (i.toNat, kc, dc) }).commitDone s.focus.blk i.toNat)) ∧
    Becomes .msend s (u.modM fun m => { m with ended := true })

/-- R278, R279, R286: LDT fills a tile register with the rows of its record, 64 bytes each, and its scales; rows beyond those of the
record are 0, their scales 127; a record without scales leaves the scales 0. No store to scratch stands in a buffer (log 90). -/
def Claims.TileLoad : Prop :=
  ∀ (s : State) (n d : BitVec 4) (x : Bool) (z : BitVec 6), Running s →
    let r := effRec s x d z
    let scratch := s.blk.scratch
    let per := 16 / codeBits r.fmt
    (∀ g ∈ s.blk.groups, g.2.sb = []) → recCheck s r = none → 64 ≤ r.stride → r.scaled = isMx r.fmt →
      ∃ t, Becomes (.ldtTile n x d z) s ((msTaken s).modM fun m => { m with t := m.t.set n.toNat t }) ∧
        t.valid = true ∧ t.tag = BitVec.ofNat 4 r.fmt ∧
        (∀ i k, i < 64 → k < 64 → t.data.get (64 * i + k) = if i < r.used then scratch.get (r.offset + i * r.stride + k) else 0) ∧
        (r.scaled = true → ∀ i k, i < 64 → k < 4 → t.scales.get (4 * i + k) =
          if i < r.used then (if k < per then scratch.get (r.scaleOff + i * per + k) else 0) else 127) ∧
        (r.scaled = false → ∀ k, t.scales.get k = 0)

/-- The words of the matrix stream that steer it, and its tile load. -/
def Obligations.StreamWords : Prop := Claims.StreamControl ∧ Claims.TileLoad

/-- R58, R60, R57: what a row becomes when terms are added to it: each mantissa is the exact sum of the terms cut toward zero at the
row's exponent, clamped where the row is pinned. PrepareRow gives an unset row the exponent that brings the largest term to bit W − 2 − G,
and takes low bits away only where the sum might not fit: the least multiple of four after which it does. E is not bounded (DESIGN CHOICE, log
68); what counts as one renormalisation is log 33. -/
def Claims.AccumulatorTerms : Prop :=
  ∀ (r : Row) (w g : Nat) (c l : Int) (terms : Nat → List Machine.Num), w = 64 ∨ w = 128 → 2 ≤ g → g ≤ 16 → r.h < w →
    let ts := (List.range 64).map terms
    let finite := ts.flatten.filter isTerm
    let p := (prepareRow r finite w g c).1
    let out := accumulate r w g c ts
    let exact := fun j => p.at_ j + ((terms j).map (truncAt p.e)).sum
    let low : Int := -((2 ^ (w - 1) : Nat) : Int)
    let high : Int := (2 ^ (w - 1) : Nat) - 1
    (∀ j, j < 64 → out.1.at_ j = if r.pinned then max low (min high (exact j)) else exact j) ∧
    (∀ j, j < 64 → out.1.tag j = (terms j).foldl (fun t v => tagJoin t (tagOf v)) (r.tag j)) ∧
    out.1.e = p.e ∧ out.1.unset = p.unset ∧ out.1.pinned = r.pinned ∧ out.2.1 = (prepareRow r finite w g c).2 ∧
    out.2.2 = (if r.pinned then ((List.range 64).filter fun j => exact j < low ∨ high < exact j).length else 0) ∧
    (finite = [] ∨ r.pinned = true → p = r ∧ out.2.1 = false) ∧
    (r.pinned = false → (∀ t ∈ finite, ilog2 t ≤ l) → (∃ t ∈ finite, ilog2 t = l) →
      let a := if r.unset then 0 else 2 ^ (w - 1 - r.h)
      let e := if r.unset then l - ((w : Int) - 2 - g) else r.e
      let b := l + 1 - e + c
      let up := fun (x : Int) => if 0 ≤ x then 2 ^ x.toNat else 1
      let fits := fun (k : Nat) => (if a = 0 then 0 else max (a / 2 ^ k) 1) + up (b - k) ≤ 2 ^ (w - 1 - g)
      p.unset = false ∧ (out.2.1 = true ↔ 2 ^ (w - 1) < a + up b) ∧
      (out.2.1 = false → p.e = e ∧ ∀ j, p.at_ j = r.at_ j) ∧
      (out.2.1 = true → b ≤ 80000 → ∃ k : Nat, 4 ∣ k ∧ 0 < k ∧ fits k ∧ (∀ j, 0 < j → j < k → 4 ∣ j → ¬fits j) ∧
        p.e = e + k ∧ ∀ j, j < 64 → p.at_ j = halfEven (r.at_ j) k))

/-- R55, R271, R280, R287, R288, R109: MMA reads B into the reuse latch, MMA.r takes it from there: each row of the accumulator takes the
terms of its row of A with every row of B; the core's credit pays for the cycles. Without credit the MMA is held, and counted once. -/
def Claims.MatrixMultiply : Prop :=
  ∀ (s : State) (n : BitVec 3) (t : BitVec 4) (x : Bool) (d : BitVec 4) (z : BitVec 6), Running s → Unarmed s →
    let rec_ := effRec s x d z
    let f := (s.ms.t.get {} t.toNat).tag.toNat
    let core := s.coreOf s.blk.die s.blk.core
    let multiplied := fun (i : Instr) (l : Latch) =>
      (0 < core.credit → ∃ u : State, Becomes i s u ∧
        u = { (msTaken s).modCore s.blk.die s.blk.core fun y => { y with credit := y.credit - mmaCycles f, issuedWin := true } with
          blocks := u.blocks } ∧
        (∀ b, b ≠ s.focus.blk → u.blkOf b = s.blkOf b) ∧ u.blk = { s.blk with ms := u.ms } ∧
        u.ms = { (msTaken s).ms with a := u.ms.a, latch := l } ∧
        RowsBecome s.ms u.ms n.toNat fun i r => accumulate r (s.ms.width n.toNat) s.ms.g (mmaC f)
          ((latchRows l).map fun b => termsOf f (((tileRows s.ms t.toNat)[i]?).getD ([], [])) b)) ∧
      (core.credit ≤ 0 → exec i s = .next
        ((s.modCore s.blk.die s.blk.core fun y => { y with heldWin := true }).modB fun b =>
          { b with msHeld := if b.ms.heldOnce then b.msHeld else b.msHeld + 1, ms := { b.ms with heldOnce := true, waiting := true } }))
    (mmaOk s n.toNat t.toNat rec_.fmt = true → rec_.scaled = isMx rec_.fmt → bRowBytes rec_.fmt ≤ rec_.stride → recCheck s rec_ = none →
      multiplied (.mma n t x d z) (readB s rec_)) ∧
    (s.ms.latch.valid = true → mmaOk s n.toNat t.toNat s.ms.latch.fmt.toNat = true → multiplied (.mmaR n t) s.ms.latch)

/-- What a multiply adds to a row, and the words that multiply. -/
def Obligations.Multiplications : Prop := Claims.AccumulatorTerms ∧ Claims.MatrixMultiply

/-- R290 to R292, R285: the words that manage accumulators, on a tile that is no odd half of a wide pair. Each row whose exponent changes
counts one renormalisation (log 33); E is not bounded where it is added to (log 68). No store to scratch stands in a buffer where scratch is
read (log 90). -/
def Claims.AccumulatorWords : Prop :=
  ∀ (s : State) (n m : BitVec 3) (e : BitVec 16) (x : Bool) (d : BitVec 4) (z : BitVec 6), Running s → Unarmed s →
    s.ms.oddWide n.toNat = false →
    let w := s.ms.width n.toNat
    let rows := fun (i : Instr) (f : Nat → Row → Row × Bool × Nat) => ∃ a, Becomes i s ((msTaken s).modM fun m => { m with a := a }) ∧
      RowsBecome s.ms { s.ms with a := a } n.toNat f
    rows (.accpin n e) (fun _ r =>
      let exact := fun j => if r.unset then 0 else if r.e = e.toInt then r.at_ j
        else roundInt 0 (decide (r.at_ j < 0)) (r.at_ j).natAbs (r.e - e.toInt)
      let moved := r.unset = false ∧ r.e ≠ e.toInt
      let ms := (List.range 64).map fun j => if moved then (clampW w (exact j)).1 else exact j
      ({ r with e := e.toInt, unset := false, pinned := true, m := if r.unset then [] else ms, h := rowH w ms }, false,
        ((List.range 64).filter fun j => moved ∧ (clampW w (exact j)).2 = true).length)) ∧
    rows (.accunpin n) (fun _ r => ({ r with pinned := false }, false, 0)) ∧
    rows (.accren n) (fun _ r =>
      let zero := (List.range 64).all fun j => r.at_ j == 0 && r.tag j == 0
      let moved := fun (k : Int) (f : Int → Int) =>
        let ms := (List.range 64).map fun j => f (r.at_ j)
        { r with e := r.e + k, m := ms, h := rowH w ms }
      if r.unset ∨ r.pinned then (r, false, 0)
      else if zero then (emptyRow w, false, 0)
      else if r.h < s.ms.g then
        let k := 4 * ((s.ms.g - r.h + 3) / 4)
        (moved k fun v => halfEven v k, true, 0)
      else if s.ms.g + 4 ≤ r.h then
        let k := min ((r.h - s.ms.g) / 4) ((r.e + 32768).toNat / 4) * 4
        (moved (-(k : Int)) fun v => v * (2 ^ k : Nat), k != 0, 0)
      else (r, false, 0)) ∧
    (s.ms.oddWide m.toNat = false → rows (.accaddAcc n m) fun i r => addRow w s.ms.g (accRow s.ms m.toNat i) r) ∧
    (let rec_ := effRec s x d z
     (∀ g ∈ s.blk.groups, g.2.sb = []) → rec_.scaled = false → rawBytes w ≤ rec_.stride → recCheck s rec_ = none →
      rows (.accaddScratch n x d z) fun i r => addRow w s.ms.g
        (if i < rec_.used then rawRow w (getBytes s.blk.scratch (rec_.offset + i * rec_.stride) (rawBytes w)) else {}) r)

/-- R61, R277, R293 to R295: reading accumulators out to scratch: rounded to the target format (an exact zero reads +0, DESIGN CHOICE, log 67),
raw, or as a record of what happened. No other byte of scratch changes; the stream remembers what stood there until its next word (log 90). -/
def Claims.AccumulatorReads : Prop :=
  ∀ (s : State) (n : BitVec 3) (x : Bool) (d : BitVec 4) (z : BitVec 6) (c : Bool) (i : BitVec 16), Running s →
    s.ms.oddWide n.toNat = false →
    let r := effRec s x d z
    let w := s.ms.width n.toNat
    let row := accRow s.ms n.toNat
    let writes := fun (word : Instr) (a : State → Stream → Stream) (p : Cells 8 → Prop) => ∃ scratch old,
      Becomes word s (((msTaken s).modM fun m => { a s m with old := old }).modB fun b => { b with scratch := scratch }) ∧ p scratch ∧
        ∀ q, match old.find? fun o => o.1 == q with
          | some o => o.2 = s.blk.scratch.get q
          | none => scratch.get q = s.blk.scratch.get q
    (recCheck s r = none → r.fmt = s.ms.fmt.toNat → r.scaled = isMx r.fmt → 64 * codeBits r.fmt / 8 ≤ r.stride →
      writes (.accrd n x d z) (fun _ m => m) fun scratch =>
        let value := fun l => (outRow s.ms (row l)).1
        let scale := fun l => (outRow s.ms (row l)).2
        (∀ l k, l < r.used → (h : k < (value l).length) → scratch.get (r.offset + l * r.stride + k) = (value l)[k]) ∧
        (∀ l k, l < r.used → (h : k < (scale l).length) → scratch.get (r.scaleOff + 2 * l + k) = (scale l)[k]) ∧
        ∀ a, (∀ l, l < r.used → (a < r.offset + l * r.stride ∨ r.offset + l * r.stride + (value l).length ≤ a) ∧
            (a < r.scaleOff + 2 * l ∨ r.scaleOff + 2 * l + (scale l).length ≤ a)) → scratch.get a = s.blk.scratch.get a) ∧
    (recCheck s r = none → r.scaled = false → rawBytes w ≤ r.stride →
      writes (.accrdw n x d z) (fun _ m => m) fun scratch =>
        (∀ l, l < r.used → -32768 ≤ (row l).e → (row l).e < 32768 →
          (∀ j, j < 64 → -((2 ^ (w - 1) : Nat) : Int) ≤ (row l).at_ j ∧ (row l).at_ j < (2 ^ (w - 1) : Nat) ∧ (row l).tag j < 4) →
          let back := rawRow w (getBytes scratch (r.offset + l * r.stride) (rawBytes w))
          back.e = (row l).e ∧ back.unset = (row l).unset ∧ ∀ j, j < 64 → back.at_ j = (row l).at_ j ∧ back.tag j = (row l).tag j) ∧
        ∀ a, (∀ l, l < r.used → a < r.offset + l * r.stride ∨ r.offset + l * r.stride + rawBytes w ≤ a) →
          scratch.get a = s.blk.scratch.get a) ∧
    (64 * i.toNat + 64 ≤ s.scrBytes s.focus.blk →
      writes (.accstat c n i)
        (fun s m => if c then { m with a := m.a.set n.toNat { s.ms.acc n.toNat with events := 0, overflows := 0 } } else m) fun scratch =>
        let at_ := 64 * i.toNat
        getNum scratch at_ 4 = (s.ms.acc n.toNat).events.toNat ∧ getNum scratch (at_ + 4) 4 = (s.ms.acc n.toNat).overflows.toNat ∧
        getNum scratch (at_ + 8) 1 = (if s.ms.isWide n.toNat then 1 else 0) ∧
        getNum scratch (at_ + 9) 1 = ((List.range 64).filter fun l => !(row l).unset).length ∧
        getNum scratch (at_ + 10) 1 = ((List.range 64).filter fun l => (row l).pinned).length ∧
        ∀ a, a < at_ ∨ at_ + 64 ≤ a → scratch.get a = s.blk.scratch.get a)

/-- The words on accumulators. -/
def Obligations.Accumulators : Prop := Claims.AccumulatorWords ∧ Claims.AccumulatorReads

/-- R151, R161, R162, R166, R118, R138: BRA, BRX, YIELD and NOP. T is the lanes that BRX takes, N the others of Live; a
ninth deferral record is refused. -/
def Claims.Branches : Prop :=
  ∀ (s : State) (o : BitVec 24), Running s →
    let T := maskOf fun l => s.spl.exec.getLsbD l && !s.grp.dead.getLsbD l && s.guardAt l
    let N := s.spl.live &&& ~~~T
    let there := target s.spl.hdr o
    let u := wordTaken (.brx o) s
    let rest := fun (x : Split) => { x with live := N, exec := x.exec &&& ~~~T, execCopy := x.exec &&& ~~~T }
    Becomes (.bra o) s ((wordTaken (.bra o) s).modS fun x =>
      { x with pc := if (s.spl.guard = 0 ∧ s.spl.guardInv = false) ∨ T ≠ 0 then there else x.pc }) ∧
    (T = 0 → Becomes (.brx o) s u) ∧
    (T ≠ 0 → N = 0 → Becomes (.brx o) s (u.modS fun x => { x with pc := there })) ∧
    (T ≠ 0 → N ≠ 0 →
      (∀ e, u.grp.emptyEntry = some e → s.copyBad e s.spl.depth = none →
        Becomes (.brx o) s (((u.copySpills s.focus.ent e s.spl.depth s.spl.depth).modSplOf s.focus.blk s.focus.grp e fun _ =>
          { u.spl with live := T, exec := T, execCopy := T, pc := there, left := 0, ll := 0, status := .ready, defs := [],
                       frame := none, replay := none, yieldBit := false, atH := none }).modS rest)) ∧
      (u.grp.emptyEntry = none → s.spl.defs.length < 8 → Becomes (.brx o) s (u.modS fun x => rest { x with
        defs := { live := T, exec := T, pc := there, depth := x.depth, mode := x.mode, sig := x.sig, holds := x.holds } :: x.defs })) ∧
      (u.grp.emptyEntry = none → 8 ≤ s.spl.defs.length → Traps (.brx o) s s 0x01 (BitVec.ofNat 32 s.spl.pc ++ encode (.brx o)))) ∧
    Becomes .yield s (wordEnds .yield s fun x => { x with yieldBit := true }) ∧
    Becomes .nop s (wordTaken .nop s)

/-- R118, R119, R153, R156, R157, R160, R270: a clause header opens its clause, after the deferral record that it absorbs, and one that it installs in an empty
entry; at a merge
point a split waits for the others, and joins one that waits there; then the header issues once its Wait flags read clear. The matrix stream only passes it. -/
def Claims.ClauseHeaders : Prop :=
  ∀ (s : State) (w : BitVec 12) (a b len : BitVec 4) (merge yield seed : Bool),
    let i := Instr.clauseHeader w a b len merge yield seed
    let x := s.spl
    let absorbs := merge = true ∧ ∃ d ∈ x.defs.head?, d.pc = x.pc ∧ d.depth = x.depth ∧ d.mode = x.mode
    let since := match x.status with | .waiting (.merge c) => c | _ => s.clock
    (s.focus.stream = true → exec i s = .next (s.modM fun m => { m with hdr := m.pc, pc := m.pc + 4, left := len.toNat })) ∧
    (s.focus.stream = false → Running s → ∀ v : State,
      (¬absorbs → v = s) →
      (absorbs → v = s.modS fun y => { y with
        live := y.live ||| (y.defs.headD (recordOf y 0 0)).live
        exec := y.exec ||| (y.defs.headD (recordOf y 0 0)).exec
        execCopy := y.exec ||| (y.defs.headD (recordOf y 0 0)).exec
        holds := joinHolds y.holds (y.defs.headD (recordOf y 0 0)).holds
        defs := y.defs.tail }) →
      let opens := fun (u : State) =>
        (u.spl.clear w = true → Becomes i s (headerTaken i len.toNat a.toNat b.toNat yield seed u)) ∧
        (u.spl.clear w = false → exec i s = .next (u.modS fun y => { y with status := .waiting (.header w), merged := true }))
      (∀ e d, v.spl.defs = [d] → v.grp.emptyEntry = some e → d.depth ≤ 16 → merge = false ∨ x.merged = true → ∃ own : Cells 32,
        (∀ k, own.get k = if k < d.depth then s.stackEntry s.focus.ent x.depth k else 0) ∧
        opens ((v.modSplOf s.focus.blk s.focus.grp e fun _ => { v.spl with
          live := d.live, exec := d.exec, execCopy := d.exec, pc := d.pc, depth := d.depth, mode := d.mode, sig := d.sig,
          holds := d.holds, stack := own, defs := [], left := 0, ll := 0, status := .ready, frame := none, replay := none,
          merged := false, yieldBit := false, held := none, atH := none }).modS fun y => { y with defs := [] })) ∧
      (v.spl.defs = [] ∨ v.grp.emptyEntry = none →
      let alone := ∀ k, k < 4 → matchesAt v k = false
      let waits := v.otherReady v.focus.ent = true ∧ s.clock < since + 1024
      (merge = false ∨ x.merged = true ∨ (alone ∧ ¬waits) → opens v) ∧
      (merge = true → x.merged = false → alone → waits →
        exec i s = .next (v.modS fun y => { y with status := .waiting (.merge since) })) ∧
      (∀ k, merge = true → x.merged = false → k < 4 → matchesAt v k = true → (∀ j, j < 4 → j ≠ k → matchesAt v j = false) →
        let low := min s.focus.ent k
        let high := max s.focus.ent k
        let y := v.splOf s.focus.blk s.focus.grp k
        (v.splOf s.focus.blk s.focus.grp high).defs = [] →
        let u := { ((v.moveOps s.focus.blk s.focus.grp high low).modSplOf s.focus.blk s.focus.grp high fun _ => {}).modSplOf s.focus.blk s.focus.grp low (fun z => { z with
            live := v.spl.live ||| y.live
            exec := v.spl.exec ||| y.exec
            execCopy := v.spl.exec ||| y.exec
            holds := joinHolds (joinHolds [] v.spl.holds) y.holds
            status := .ready
            merged := true }) with focus := { s.focus with ent := low } }
        opens u)))

/-- Branches, and the headers of clauses. -/
def Obligations.ControlFlow : Prop := Claims.Branches ∧ Claims.ClauseHeaders

/-- R154, R155, R158, R163 to R165: CALL, CALLX, RET and EXIT. The youngest sixteen entries of a return stack stand in the split, older
ones in scratch. -/
def Obligations.CallsAndReturns : Prop :=
  ∀ (s : State) (o : BitVec 24) (a : BitVec 7), Running s →
    let x := s.spl
    let n := x.depth
    let e := s.focus.ent
    let called := fun (i : Instr) (at_ : Nat) =>
      let push := fun (y : Split) => { y with stack := y.stack.set n (BitVec.ofNat 32 (x.pc + 4)), depth := n + 1, pc := at_ }
      (n < 16 → Becomes i s ((wordTaken i s).modS push)) ∧
      (16 ≤ n → n < 48 → s.spillBad e (n - 16) = false → Becomes i s
        (((wordTaken i s).writeScr s.focus.blk (s.spillAt e (n - 16)).toNat (toBytes 4 (x.stack.get (n - 16)).toNat)).modS fun y =>
          push { y with stack := y.stack.set (n - 16) 0 }))
    let back := (x.stack.get (n - 1)).toNat
    let pop := fun (y : Split) => { y with stack := y.stack.set (n - 1) 0, depth := n - 1, pc := back }
    let ends := fun (h : Split → Split) => ((wordTaken .exit s).modS h).modG fun g => { g with yielded := x.yieldBit }
    let left := (ends fun _ => { yieldBit := x.yieldBit }).moveOps s.focus.blk s.focus.grp e 4
    called (.call o) (target x.hdr o) ∧
    ((s.getS a.toNat).toNat % 4 = 0 → called (.callx a) (s.getS a.toNat).toNat) ∧
    (n ≠ 0 → (∀ d ∈ x.defs.head?, d.depth ≠ n) →
      (n ≤ 16 → Becomes .ret s ((wordTaken .ret s).modS pop)) ∧
      (16 < n → s.spillBad e (n - 17) = false → Becomes .ret s ((wordTaken .ret s).modS fun y =>
        { pop y with stack := (pop y).stack.set (n - 17) (BitVec.ofNat 32 (s.scrNum s.focus.blk (s.spillAt e (n - 17)).toNat 4)) }))) ∧
    (∀ d rest, n ≠ 0 → x.defs = d :: rest → d.depth = n →
      Becomes .ret s ((wordTaken .ret s).modS fun y => { y with
        live := d.live
        exec := d.exec
        execCopy := d.exec
        pc := d.pc
        mode := d.mode
        sig := d.sig
        holds := d.holds
        defs := insertRecord { live := y.live, exec := y.exec, pc := back, depth := n - 1, mode := y.mode, sig := y.sig,
                               holds := y.holds } rest })) ∧
    (x.defs = [] →
      (left.grp.ended = false → Becomes .exit s left) ∧
      (left.grp.ended = true → (∀ f ∈ s.grp.fails, f.code = 0x08) → Becomes .exit s (left.modG fun g => { g with fails := [] }))) ∧
    (∀ d rest, x.defs = d :: rest → d.depth ≤ 16 → ∃ held : Cells 32,
      (∀ k, held.get k = if k < d.depth then s.stackEntry e n k else 0) ∧
      Becomes .exit s (ends fun y => { y with
        live := d.live, exec := d.exec, execCopy := d.exec, pc := d.pc, depth := d.depth, mode := d.mode, sig := d.sig,
        holds := d.holds, stack := held, defs := rest, left := 0, ll := 0, status := .ready, merged := false }))

/-- R168 to R170, R177, R124, R125, R141: MODE and MODES write the fields of MODE but SigEn; WAITF waits until the flags named are clear; SIGCHK
passes where nothing differs; SLEEP waits. -/
def Claims.ModeAndWaits : Prop :=
  ∀ (s : State) (g a d : BitVec 7) (v st f b x y z : Bool) (t : BitVec 4) (r : BitVec 3) (m : BitVec 12) (c : BitVec 24) (n : BitVec 16),
    Running s →
    let i := Instr.mode g v t r st f b x y z
    let old := s.spl.mode
    let from_ := s.getS a.toNat
    let new := (from_ &&& 0xFFFFF8) ||| (old &&& 4)
    let good := bits from_.toNat 15 12 < 14 ∧ bits from_.toNat 11 9 < 6
    (i.wf = true → ∃ w, Does 0 i s (s.modS fun p => { p with mode := w }) ∧
      let p := { s.spl with mode := w }
      p.guard = g.toNat ∧ p.guardInv = v ∧ p.type = t.toNat ∧ p.round = r.toNat ∧ p.sat = st ∧ p.ftz = f ∧ p.bank = b.toNat ∧
        p.trapDiv = x ∧ p.trapInv = y ∧ p.trapAcc = z ∧ p.sigEn = s.spl.sigEn) ∧
    (good → Does 0 (.modes a) s (s.modS fun p => { p with mode := new })) ∧
    (good → Does 0 (.modesSwap d a) s ((s.setS d.toNat old).modS fun p => { p with mode := new })) ∧
    (s.spl.clear m = true → Does 0 (.waitf m) s s) ∧
    (s.spl.clear m = false → Waits (.waitf m) s (.mask m)) ∧
    (s.spl.sigEn = false ∨ (s.spl.sig.truncate 24 = c ∧ s.spl.execCopy = s.spl.exec) → Does 0 (.sigchk c) s s) ∧
    (n ≠ 0 → Becomes (.sleep n) s (wordEnds (.sleep n) s fun p => { p with status := .waiting (.sleep (s.clock + 16 * n.toNat)) })) ∧
    (n = 0 → Becomes (.sleep n) s (wordEnds (.sleep n) s fun p => { p with yieldBit := true }))

/-- R123, R174, R414: SYSR reads the special register that its number names, the high half of a pair as it was latched with the low half; SYSW
writes TRAPCODE and TRAPINFO. -/
def Claims.SpecialRegisters : Prop :=
  ∀ (s : State) (d : BitVec 7), Running s →
    let x := s.spl
    let g := s.grp
    let cycles := (s.coreOf s.blk.die s.blk.core).cycles
    let half := fun (k : Nat) (v : DWord) => (v >>> (32 * k)).truncate 32
    let reads := fun (n : BitVec 16) (v : Word) => Does 0 (.sysr d n) s (s.setS d.toNat v)
    let value := s.getS d.toNat
    reads 0x00 x.mode ∧ reads 0x01 g.role ∧ reads 0x02 (BitVec.ofNat 32 s.focus.ent) ∧ reads 0x03 (BitVec.ofNat 32 x.depth) ∧
    reads 0x04 (BitVec.ofNat 32 g.gid) ∧ reads 0x05 (BitVec.ofNat 32 s.blk.lin) ∧ reads 0x06 (BitVec.ofNat 32 s.blk.span) ∧
    reads 0x07 (BitVec.ofNat 32 s.blk.grid) ∧ reads 0x08 (maskWord g.dead 0) ∧ reads 0x09 (maskWord g.dead 1) ∧
    reads 0x0A (maskWord g.dead 2) ∧ reads 0x0B x.sig ∧ reads 0x0C g.sbcount ∧ reads 0x0D (g.done ++ g.closed) ∧
    reads 0x0E s.mgstat ∧ reads 0x0F (s.grid.phase.zeroExtend 32) ∧ reads 0x10 (x.trapCode &&& 0xFF) ∧
    Does 0 (.sysr d 0x11) s ((s.modS fun p => { p with latTrap := some (half 1 x.trapInfo) }).setS d.toNat (half 0 x.trapInfo)) ∧
    Does 0 (.sysr d 0x12) s ((s.modS fun p => { p with latTrap := none }).setS d.toNat (x.latTrap.getD (half 1 x.trapInfo))) ∧
    Does 0 (.sysr d 0x13) s ((s.modS fun p => { p with latCycles := some (half 1 cycles) }).setS d.toNat (half 0 cycles)) ∧
    Does 0 (.sysr d 0x14) s ((s.modS fun p => { p with latCycles := none }).setS d.toNat (x.latCycles.getD (half 1 cycles))) ∧
    Does 0 (.sysr d 0x15) s ((s.modS fun p => { p with latBay := some (half 1 s.lbay) }).setS d.toNat (half 0 s.lbay)) ∧
    Does 0 (.sysr d 0x16) s ((s.modS fun p => { p with latBay := none }).setS d.toNat (x.latBay.getD (half 1 s.lbay))) ∧
    Does 0 (.sysw d 0x10) s (s.modS fun p => { p with trapCode := value &&& 0xFF }) ∧
    Does 0 (.sysw d 0x11) s (s.modS fun p => { p with trapInfo := half 1 x.trapInfo ++ value }) ∧
    Does 0 (.sysw d 0x12) s (s.modS fun p => { p with trapInfo := value ++ half 0 x.trapInfo })

/-- MODE, the waits, and the special registers. -/
def Obligations.ModeAndSpecialRegisters : Prop := Claims.ModeAndWaits ∧ Claims.SpecialRegisters

/-- R171, R172, R173, R412, R415: TRAP, and the failures that wait for a header, enter the handler of the grid with a frame; without one, or
inside a handler, the block fails. RTE goes back. -/
def Obligations.TrapsAndReturns : Prop :=
  ∀ (s : State) (c : BitVec 16), Running s →
    let x := s.spl
    Traps (.trap c) s s 0x18 (c.zeroExtend 64) ∧
    (x.frame.isSome = true ∨ s.grid.trapEntry = none →
      Becomes (.trap c) s ((startWord (encode (.trap c)) s).failBlock s.focus.blk 0x18 (c.zeroExtend 64) 0)) ∧
    (∀ b g e f rest, s.splitMay b g e = true → s.midClause b g e = false → (s.splOf b g e).atH = none → (s.grpOf b g).fails = f :: rest →
      let y := s.splOf b g e
      let taken := s.modGrp b g fun z => { z with fails := rest }
      let header : Frame := { pc := y.pc, hdr := y.pc, ll := 0, left := 0, flagA := y.flagA, flagB := y.flagB, yieldBit := y.yieldBit,
                               ofStream := f.stream, atH := true, word := 0, mode := y.mode, sig := y.sig }
      (y.frame.isSome = true → exec (.trapDeliveryH b g e) s = .next s) ∧
      (∀ entry, y.frame = none → (s.gridOf (s.blkOf b).grid).trapEntry = some entry →
        exec (.trapDeliveryH b g e) s = .next (taken.modSplOf b g e (entered header f.code f.info entry))) ∧
      (y.frame = none → (s.gridOf (s.blkOf b).grid).trapEntry = none →
        exec (.trapDeliveryH b g e) s = .next (taken.failBlock b f.code f.info 0))) ∧
    (∀ f, x.frame = some f → f.ofStream = false →
      let back := fun (p : Split) => { p with mode := f.mode, frame := none, hdr := f.hdr, flagA := f.flagA, flagB := f.flagB, ll := f.ll }
      let atHeader := fun (p : Split) => { back p with sig := f.sig, pc := f.pc, left := 0, ll := 0, atH := some f.pc }
      let returns := fun (i : Instr) (h : Split → Split) => Becomes i s (wordEnds i s h)
      (f.atH = true → returns .rteRetry atHeader ∧ returns .rteCont atHeader) ∧
      (f.atH = false →
        returns .rteRetry (fun p => { back p with sig := f.sig, pc := f.pc, left := f.left,
                                                  yieldBit := if f.left = 0 then p.yieldBit else f.yieldBit }) ∧
        (f.left ≠ 0 → returns .rteCont fun p =>
          { back p with sig := crc32c f.sig f.word, pc := f.pc + 4, left := f.left - 1, yieldBit := f.yieldBit }) ∧
        (f.left = 0 → prim f.word ≥ 0xF0 → returns .rteCont fun p =>
          { back p with sig := crc32c (if f.word.getLsbD 1 then 0xFFFFFFFF else f.sig) f.word, pc := f.pc + 4, hdr := f.pc, ll := 0,
                        left := (fld f.word 4 4).toNat, flagA := (fld f.word 12 4).toNat, flagB := (fld f.word 8 4).toNat,
                        yieldBit := f.word.getLsbD 2 })))

/-- R175, R71, R66: QSUB to a device-side queue of the split's function and context, with room, once the group's writes are performed: the
WriteIndex rises to V, and the firmware is told as by a doorbell. -/
def Claims.QueueSubmission : Prop :=
  ∀ (s s' : State) (a b : BitVec 7) (w : Nat), Running s → FlagFree s → fenceReady s = true →
    let q := (s.getS a.toNat).toNat % 65536
    let v := (s.getP b.toNat).toNat
    let x := s.queueOf q
    let i := Instr.qsub a b
    let s₀ := startWord (encode i) s
    let who := FarWho.split s.focus.blk s.focus.grp s.focus.ent
    q < 4096 → x.enabled = true → x.cls.testBit 2 = true → x.fn = s.fn → x.ctx = s.ctx → v ≤ x.readIdx + 2 ^ x.z →
      (s₀.asAgent who).cbRead q 0 8 = (s', some w) →
      let put := (s'.cbWrite q 0 (toBytes 8 (max w v))).1.modQueue q fun y => { y with submits := y.submits ++ [(max w v, s.blk.grid)] }
      let told := if x.cls % 4 = 0 then put.modGrid s.blk.grid fun y => { y with qsubs := y.qsubs ++ [(q, max w v)] } else put
      let served := told.serveDoorbell q
      served.farAsk = none → exec i s = .next (endWord true ((served.agentDone s₀ who).startOp { kind := .queue }))

/-- R176, R429: RCOMMIT in a restartable grid, by the only split of its group: the group holds a commit of the number with its restart-live
registers; the record begins to be written when every agent holds one. Elsewhere it has no effect. -/
def Claims.RestartCommit : Prop :=
  ∀ (s : State) (n : BitVec 16), Running s →
    (s.grid.restartable = false → Does 0 (.rcommit n) s s) ∧
    (s.grid.restartable = true → s.focus.ent < 4 → (∀ e, e < 4 → e ≠ s.focus.ent → (s.splOf s.focus.blk s.focus.grp e).status = .empty) →
      s.spl.defs = [] → ∃ vals : Cells 32,
        (∀ r, vals.get r = if r < 32 ∧ (((s.grid.descs[s.grp.slot]?).getD (0, 0, 0)).2.1).getLsbD r then s.getS r else 0) ∧
        let u := s.modG fun g => { g with commit := some (n.toNat, vals) }
        (((startWord (encode (.rcommit n)) u).allHold s.focus.blk n.toNat = false) → Does 0 (.rcommit n) s u) ∧
        (((startWord (encode (.rcommit n)) u).allHold s.focus.blk n.toNat = true) → Does 0 (.rcommit n) s
          (u.modB fun x => { x with writing := x.writing ++ [(n.toNat, u.recordBody s.focus.blk)] })))

/-- QSUB and RCOMMIT. -/
def Obligations.QueueAndRestartWords : Prop := Claims.QueueSubmission ∧ Claims.RestartCommit

/-- R195, R196: ACTLD makes its table loading and waits; the load ends with the 3136 bytes at its address, which pass the checks, and the word
completes. -/
def Obligations.ActivationTables : Prop :=
  ∀ (s : State),
    (∀ (a : BitVec 7) (n : BitVec 3), Running s → (s.actTab n.toNat).st ≠ 1 → (s.getP a.toNat).toNat % 64 = 0 →
      s.acqBusy = false → Becomes (.actld a n) s ((((s.modB fun x => { x with
        act := x.act.set n.toNat { st := 1, addr := (s.getP a.toNat).toNat } }).modS
        fun x => { x with loads := some (a.toNat, n.toNat), replay := none, lastIssue := s.clock }).modG
        fun g => { g with lastIssue := s.clock, overdue := false, yielded := false }))) ∧
    (∀ b g e a n p0 p1, (s.splOf b g e).loads = some (a, n) → (s.splOf b g e).status = .ready → (s.blkOf b).live = true →
      (s.grpOf b g).sb = [] → (∀ x ∈ s.far, x.who ≠ .split b g e) →
      let u := { s with focus := { blk := b, grp := g, ent := e } }
      let va := (u.actTab n).addr
      let m := min 3136 (4096 - va % 4096)
      HitsIn s b .read m va p0 → s.rangeOf p0 ≠ .host → (m < 3136 → HitsIn s b .read (3136 - m) (va + m) p1 ∧ s.rangeOf p1 ≠ .host) →
      let byte := fun k => if k < m then s.byteAt (p0 + k) else s.byteAt (p1 + (k - m))
      ∀ lo hi : Machine.Num,
        lo = decodeF fp32 (byte 3 ++ byte 2 ++ byte 1 ++ byte 0).toNat → hi = decodeF fp32 (byte 7 ++ byte 6 ++ byte 5 ++ byte 4).toNat →
        (∀ k, 0x10 ≤ k → k < 0x40 → byte k = 0) → lo.isNaN = false → lo.isInf = false → hi.isNaN = false → hi.isInf = false →
        ltN lo hi = true → ∃ t data, exec (.actldLoadEnd b g e) s = .next t ∧
          (∀ k, data.get k = if k < 3136 then byte k else 0) ∧
          Ticked (wordTaken (.actld (BitVec.ofNat 7 a) (BitVec.ofNat 3 n)) ((u.setAct n
            { st := 2, data := data, addr := va, w := BitVec.ofNat 32 (roundTo fp32 0 false (divN (intN 256) (sumN 0 [hi, lo.neg]))) }).modS
            fun x => { x with loads := none })) t)

/-- R65: EVQCFG, EVREAD and EVLOST, and what an event record is: it goes to the slot of EvWrite, and is lost where the ring is off. EvRead
rises to no record that is not written yet. A record's sequence number is EvWrite before it is appended (DEDUCED, log 21); a vector beyond
those of the function is dropped (DESIGN CHOICE, log 69). Where the ring is full the newest record says that others are lost. -/
def Obligations.EventQueues : Prop :=
  ∀ (s : State) (fn die base z vec v : Nat) (en : Bool),
    let q := s.evqOf fn die
    let good := en = true ∧ 6 ≤ z ∧ z ≤ 16 ∧ base % 4096 = 0
    let does := fun (e : Instr) (x : EventQ) => ∃ t, exec e s = .next t ∧ EvqBecomes s t fn die x
    (good → does (.evqcfgWrite fn die base z vec en) { base := base, z := z, vec := vec, enabled := true, write := 0, read := 0, lost := q.lost }) ∧
    (¬good → does (.evqcfgWrite fn die base z vec en) { q with base := base, z := z, vec := vec, enabled := false }) ∧
    (q.read ≤ v ∧ v ≤ State.shown q → does (.evreadWrite fn die v) { q with read := v }) ∧
    (v < q.read ∨ State.shown q < v → does (.evreadWrite fn die v) q) ∧
    does (.evlostWrite fn die v) { q with lost := 0 } ∧
    ∀ k o2 o4 o5 o6 w8 w10,
      let t := s.event fn die k o2 o4 o5 o6 w8 w10
      (q.enabled = false → EvqBecomes s t fn die { q with lost := if q.lost = 0xFFFFFFFF then q.lost else q.lost + 1 }) ∧
      (∀ pa, q.enabled = true → q.write - q.read ≠ 2 ^ q.z → DevHits s die fn 0 .write 32 (q.base + 32 * (q.write % 2 ^ q.z)) pa →
        s.canWrite pa = true →
        let u := s.wr fn pa (toBytes 1 k ++ toBytes 1 die ++ toBytes 2 o2 ++ toBytes 1 o4 ++ toBytes 1 o5 ++ toBytes 2 o6 ++ toBytes 8 w8 ++
          toBytes 8 w10 ++ toBytes 8 (q.write % 2 ^ 63))
        EvqBecomes { u with outbox := u.outbox ++ if q.vec < (s.fnOf fn).vectors then [.msix fn q.vec] else [] } t fn die
          { q with write := q.write + 1 }) ∧
      (∀ pa, q.enabled = true → q.write - q.read = 2 ^ q.z → q.write ≠ 0 →
        DevHits s die fn 0 .write 8 (q.base + 32 * ((q.write - 1) % 2 ^ q.z) + 0x18) pa → s.canWrite pa = true →
        EvqBecomes (s.wr fn pa (toBytes 8 ((q.write - 1) % 2 ^ 63 + 2 ^ 63))) t fn die
          { q with lost := if q.lost = 0xFFFFFFFF then q.lost else q.lost + 1 })

/-- R70, R71, R73, R444: a doorbell of the queue's own function on a booted die, where the mirrors agree and no control bit is set, brings in WriteIndex, and a queue
with packets waits for a lane; a WriteIndex out of range is error 0x08. A poll of Control stops a bound queue. -/
def Claims.QueueService : Prop :=
  ∀ (s : State) (d i : Nat), d < 4 → i < 1024 →
    let q := 1024 * d + i
    let x := s.queueOf q
    let bell := Instr.doorbell x.fn d i
    (∀ fn, x.enabled = false ∨ x.fn ≠ fn ∨ s.booted d = false → exec (.doorbell fn d i) s = .next s) ∧
    (∀ pa, x.enabled = true → s.booted d = true → (∀ y ∈ s.far, y.who ≠ .queue q) → (∀ off n, off + n ≤ 0x60 → DevHits s d x.fn x.ctx .read n (x.cb + off) (pa + off)) →
      s.rdNum (pa + 0x40) 12 = x.ring % 2 ^ 64 + x.z * 2 ^ 64 + x.cls * 2 ^ 72 + x.fn * 2 ^ 80 + x.gangClass * 2 ^ 88 →
      s.rdNum (pa + 0x20) 4 = 0 →
      let w := s.rdNum pa 8
      (x.readIdx ≤ w ∧ w ≤ x.readIdx + 2 ^ x.z → ∃ t, exec bell s = .next t ∧ t = { s with queues := t.queues } ∧
        ∀ p, t.queueOf p = if p = q then { x with writeIdx := w, waiting :=
          if x.stopped = false ∧ (x.calls ≠ [] ∨ x.readIdx < w) ∧ s.bound q = false then some (x.waiting.getD s.clock) else none } else s.queueOf p) ∧
      (w < x.readIdx ∨ x.readIdx + 2 ^ x.z < w → x.stopped = false →
        Makes bell s (.queue q) ((((s.asAgent (.queue q)).modQueue q fun y => { y with writeIdx := w }).queueErr q 0x08 0).putWaiting q))) ∧
    (s.bound q = false → exec (.queueControlPoll d i) s = .next s) ∧
    (∀ u v c ok, s.bound q = true → (s.asAgent (.queue q)).cbRead q 0x20 4 = (u, some c) → u.cbTry q 0x20 4 (c - 1) = (v, ok) →
      Makes (.queueControlPoll d i) s (.queue q) (if c % 2 = 0 then u else if ok then v.stopQueue q else v))

/-- R69, R70, R78, R444: enabling a queue takes its shadow entry, and its ReadIndex from the control block; a bad entry is rejected; on a die
that has not booted only the entry's bit is set. The shadow table lies at a physical address (log 13), and the entry's error bit is cleared
(log 42, 74). -/
def Claims.QueueEnabling : Prop :=
  ∀ (s : State) (d i : Nat), d < 4 → i < 1024 →
    let q := 1024 * d + i
    let a := s.shadowAt q
    let s₀ := s.asAgent (.queue q)
    let u := (s₀.shadowBit q 0 true).shadowBit q 2 false
    let f := u.rdNum
    let cls := f (a + 0x11) 1
    let good := 4 ≤ f (a + 0x10) 1 ∧ f (a + 0x10) 1 ≤ 20 ∧ cls % 4 ≠ 3 ∧ bitOf cls 3 = false ∧ cls / 16 ≤ (if cls % 4 = 0 then 7 else 3) ∧
      f (a + 0x12) 1 ≤ 63 ∧ f (a + 0x13) 1 ≤ 15 ∧ f (a + 0x14) 2 ≤ 63 ∧ f (a + 0x18) 4 < 8 ∧ f (a + 0x1C) 36 = 0
    a % 64 = 0 → s.canWrite (a + 0x18) = true → s.rangeOf (a + 0x18) ≠ .host → NoDirtyLog s 64 →
    (s.booted d = false → Makes (.queueEnable d i) s (.queue q) (s₀.shadowBit q 0 true)) ∧
    (s.booted d = true →
    (u = { s₀ with mem := u.mem } ∧ f (a + 0x18) 4 = ((BitVec.ofNat 32 (s.rdNum (a + 0x18) 4) ||| 1) &&& ~~~4).toNat ∧
      ∀ p, p < a + 0x18 ∨ a + 0x1C ≤ p → u.byteAt p = s.byteAt p) ∧
    (¬good → Makes (.queueEnable d i) s (.queue q) (u.event 0 d 0x01 i 0x03 0 (f (a + 0x12) 1) 0 0)) ∧
    (good → (s₀.enableQueue q).farAsk = none → ∃ t, exec (.queueEnable d i) s = .next t ∧
      let x := t.queueOf q
      x.enabled = true ∧ x.ring = f a 8 ∧ x.cb = f (a + 8) 8 ∧ x.z = f (a + 0x10) 1 ∧ x.cls = cls ∧ x.fn = f (a + 0x12) 1 ∧
        x.gangClass = f (a + 0x13) 1 ∧ x.ctx = f (a + 0x14) 2 ∧ x.vector = f (a + 0x16) 2 ∧ x.marker = 0 ∧ x.calls = [] ∧ x.gang = none ∧
        (∀ p, p ≠ q → t.queueOf p = s.queueOf p)))

/-- R74, R77: a free lane of a booted die takes, of the waiting queues of its preferred type, one of the highest class, the longest waiting
among those; a lane gives up an idle queue. What a queue waits for without a doorbell is log 74. -/
def Claims.FirmwareLanes : Prop :=
  ∀ (s : State) (d l i : Nat), d < 4 → l < 32 → i < 1024 →
    let ln := s.laneOf d l
    let q := 1024 * d + i
    let binder := FarWho.queue (1024 * d + 1023)
    let owner := FarWho.queue (1024 * d + ln.queue.getD 0)
    let can := fun (e : Nat × Queue) => e.1 / 1024 = d ∧ e.2.enabled = true ∧ e.2.waiting.isSome = true ∧ s.bound e.1 = false ∧
      e.2.cls % 4 = State.preferred l
    (ln.queue = none → (s.dieOf d).bootstat.getLsbD 31 = true → (q, s.queueOf q) ∈ s.queues → can (q, s.queueOf q) →
      (∀ e ∈ s.queues, can e → e.1 ≠ q → e.2.cls / 16 < (s.queueOf q).cls / 16 ∨
        (e.2.cls / 16 = (s.queueOf q).cls / 16 ∧ (s.queueOf q).waiting.getD 0 < e.2.waiting.getD 0)) →
      (∀ e ∈ s.queues, e.1 = q → e.2 = s.queueOf q) → s.shadowOk q = true → ((s.asAgent binder).bindLane d l).farAsk = none →
      ∃ t, exec (.laneBind d l) s = .next t ∧ t.laneOf d l = { queue := some i, blockedSince := s.clock } ∧
        (t.queueOf q).waiting = none ∧ (t.queueOf q).ring = s.shadow q 0 8) ∧
    (ln.queue.isSome = true ∨ (s.dieOf d).bootstat.getLsbD 31 = false → Makes (.laneBind d l) s binder (s.asAgent binder)) ∧
    (ln.queue = some i → (s.queueOf q).enabled = false → ((s.asAgent owner).releaseLane d l).farAsk = none → ∃ t, exec (.laneRelease d l) s = .next t ∧ t.laneOf d l = {} ∧
      ∀ m, m ≠ l → t.laneOf d m = s.laneOf d m) ∧
    (ln.queue = none → Makes (.laneRelease d l) s owner (s.asAgent owner)) ∧
    (ln.queue = some i → ∃ t, exec (.lookaheadRead d l) s = .next t ∧ t = { s.askHead q with dies := t.dies } ∧
      let old := (s.askHead q).laneOf d l
      t.laneOf d l = { old with ahead := if old.ahead < 16 then old.ahead + 1 else old.ahead }) ∧
    (ln.queue = none → exec (.lookaheadRead d l) s = .next s)

/-- The queues and the lanes that serve them. -/
def Obligations.Queues : Prop := Claims.QueueService ∧ Claims.QueueEnabling ∧ Claims.FirmwareLanes

/-- R68, R73, R74, R86: passing a packet moves the ReadIndex in the ring, or the position in the innermost CALL buffer, whose end closes it. -/
def Claims.PacketPasses : Prop :=
  ∀ (s : State) (d l q n : Nat),
    let x := s.queueOf q
    let t := s.passPacket d l q n
    let y := t.queueOf q
    (x.calls = [] → y.readIdx = x.readIdx + n ∧ y.calls = []) ∧
    (∀ c rest, x.calls = c :: rest → c.2.2 + n < c.2.1 → y.readIdx = x.readIdx ∧ y.calls = (c.1, c.2.1, c.2.2 + n) :: rest ∧ y.gang = x.gang) ∧
    (∀ c, x.calls = [c] → c.2.1 ≤ c.2.2 + n → y.readIdx = x.readIdx ∧ y.calls = [] ∧ y.gang = none) ∧
    t.laneOf d l = { s.laneOf d l with issued := (s.laneOf d l).issued + 1, blockedSince := s.clock, fenceSet := none, waitMet := false,
                                       ahead := (s.laneOf d l).ahead - 1 }

/-- R86: the packets that only order or signal; SIGNAL raises no vector beyond those of the function (DESIGN CHOICE, log 69). -/
def Claims.OrderingPackets : Prop :=
  ∀ (s u : State) (d l q : Nat) (b : List Byte), Serves s d l q b u →
    let x := u.queueOf q
    (pkType b = 0 → Makes (.nopPacket d l) s (.queue q) (u.passPacket d l q (pkSlots b))) ∧
    (pkType b = 4 → (u.laneOf d l).waitMet = true → Makes (.waitsigPacket d l) s (.queue q) (u.passPacket d l q 1)) ∧
    (∀ v met, pkType b = 4 → (u.laneOf d l).waitMet = false → u.readWait q b = (v, some met) →
      Makes (.waitsigPacket d l) s (.queue q) (v.passPacket d l q 1)) ∧
    (pkType b = 5 → Makes (.joinPacket d l) s (.queue q) (u.passPacket d l q 1)) ∧
    (pkType b = 0xB → Makes (.sqfencePacket d l) s (.queue q) (u.passPacket d l q 1)) ∧
    (pkType b = 0xC → Makes (.phasePacket d l) s (.queue q)
      (((u.modQueue q fun y => { y with marker := BitVec.ofNat 32 (pk b 4 4) }).cbPut q 0x24 4 (pk b 4 4)).passPacket d l q 1)) ∧
    (pkType b = 7 → Makes (.returnPacket d l) s (.queue q)
      ((u.modQueue q fun y => { y with calls := x.calls.drop 1, gang := none }).passPacket d l q 0)) ∧
    (pkType b = 6 → ∃ t, Makes (.callPacket d l) s (.queue q) t ∧
      (t.queueOf q).calls = (pk b 8 8, pk b 4 4, 0) :: ((u.skipSlots q 1).1.queueOf q).calls ∧
      (x.calls = [] → (t.queueOf q).readIdx = x.readIdx + 1) ∧ (t.laneOf d l).issued = (u.laneOf d l).issued + 1) ∧
    (∀ pa, pkType b = 3 → DevHits u d x.fn x.ctx .write 8 (pk b 8 8) pa → u.canWrite pa = true → u.poisoned pa 8 = false →
      let w := u.rdNum pa 8
      let v := pk b 0x10 8
      let r := match pk b 4 1 % 16 with | 0 => v | 1 => (w + v) % 2 ^ 64 | _ => w ||| v
      let p := u.wr x.fn pa (toBytes 8 r)
      Makes (.signalPacket d l) s (.queue q) ((if pkFlag b 9 ∧ x.vector < (u.fnOf x.fn).vectors then p.emit (.msix x.fn x.vector)
        else p).passPacket d l q 1))

/-- R80, R86: a WAITSIG at the head is met when a poll, which its barrier holds back, finds its condition true, and ends its queue when it has
waited its time: from when it came to the head or its queue to the lane (DESIGN CHOICE, log 78), by the model's clock (log 24). -/
def Claims.WaitsigPolls : Prop :=
  ∀ (s : State) (d l i : Nat) (b : List Byte),
    let q := 1024 * d + i
    let x := s.queueOf q
    (s.laneOf d l).queue = some i → s.laneHead d l = .pkt b → pkType b = 4 → s.packetError q b = none → (∀ y ∈ s.far, y.who ≠ .queue q) →
    (pkFlag b 8 = true → s.issuedOf q ≠ [] → exec (.waitsigPoll d l) s = .next s) ∧
    (∀ pa, (pkFlag b 8 = true → s.issuedOf q = []) → DevHits s d x.fn x.ctx .read 8 (pk b 8 8) pa → i < 1024 →
      let m := BitVec.ofNat 64 (pk b 0x18 8)
      let v := BitVec.ofNat 64 (s.rdNum pa 8) &&& m
      let w := BitVec.ofNat 64 (pk b 0x10 8) &&& m
      let met := (pk b 4 1 = 0 ∧ v = w) ∨ (pk b 4 1 = 1 ∧ v ≠ w) ∨ (pk b 4 1 = 2 ∧ w ≤ v) ∨ (pk b 4 1 = 3 ∧ v < w) ∨
        (pk b 4 1 = 4 ∧ w.toInt ≤ v.toInt) ∨ (5 ≤ pk b 4 1 ∧ v.toInt < w.toInt)
      (met → ∃ t, exec (.waitsigPoll d l) s = .next t ∧ t = { s with dies := t.dies } ∧
        t.laneOf d l = { s.laneOf d l with waitMet := true }) ∧
      (¬met → exec (.waitsigPoll d l) s = .next s)) ∧
    (pk b 5 3 ≠ 0 → s.laneReady d l = false → (s.laneOf d l).blockedSince + 1024 * pk b 5 3 ≤ s.clock →
      exec (.waitsigTimeout d l) s = .next ((s.queueErr q 0x0D 0).event x.fn d 0x03 i 0x0D 0 x.fn (State.errorSlot x) 0)) ∧
    (s.laneReady d l = true ∨ pk b 5 3 = 0 → exec (.waitsigTimeout d l) s = .next s)

/-- What the firmware makes of a packet. -/
def Obligations.Packets : Prop := Claims.PacketPasses ∧ Claims.OrderingPackets ∧ Claims.WaitsigPolls

/-- R28, R84, R92: a launch that passes its checks obeys them, and its grid is what the packet says. -/
def Claims.LaunchesAreChecked : Prop :=
  ∀ (s : State) (q : Nat) (b : List Byte), match (s.checkLaunch q b).2 with
  | .error e => e ∈ [(0x03, 0), (0x09, 0), (0x0C, 0), (0x0E, 0), (0x10, 0)] ∨ (e.1 = 0x04 ∧ 1 ≤ e.2 ∧ e.2 ≤ 20)
  | .ok g =>
    let x := s.queueOf q
    let inCode := fun (a : Nat) => a % 4 = 0 ∧ a < g.codeBytes
    (g.fn = x.fn ∧ g.ctx = x.ctx ∧ g.queue = q ∧ g.die = q / 1024 ∧ g.dimX = pk b 0x20 4 ∧ g.dimY = pk b 0x24 4 ∧ g.dimZ = pk b 0x28 4 ∧
      g.image = pk b 8 8 ∧ g.prio = pk b 4 1 % 16 ∧ g.scratchBytes = pk b 0x1C 4 ∧ g.phase = BitVec.ofNat 8 (pk b 5 1) ∧
      g.blocksLeft = g.dimX * g.dimY * g.dimZ ∧ g.placed = 0 ∧ g.roles = (List.range 4).map (roleOf b)) ∧
    g.image % 128 = 0 ∧ 1 ≤ g.spanSize ∧ g.spanSize ≤ 768 ∧ g.scratchBytes % 64 = 0 ∧ g.scratchBytes ≤ 3145728 ∧
    g.dimX * g.dimY * g.dimZ ≤ 0xFFFFFFFF ∧ g.prio ≤ x.cls / 16 ∧ g.depth ≤ 8 ∧ g.signal % 8 = 0 ∧
    1 ≤ (g.roles.map fun r => r.2.1).sum ∧ (g.roles.map fun r => r.2.1).sum ≤ 16 ∧
    (∀ r ∈ g.roles, r.2.1 ≠ 0 → inCode r.1 ∧ r.2.2.1 % 8 = 0 ∧ 1 ≤ r.2.2.2 ∧ r.2.2.2 ≤ 4) ∧
    (∀ a, g.matrix = some a → inCode a) ∧ (∀ a, g.trapEntry = some a → inCode a) ∧
    (g.restartable = true → g.restartRec % 64 = 0 ∧ 2 * g.copyBytes ≤ g.restartBytes) ∧
    (g.restartable = false → g.restartRec = 0 ∧ g.restartBytes = 0) ∧
    (∃ r, ({} : Occ).fits g = some r) ∧
    (pkFlag b 9 = true → bitOf x.cls 2 = false ∧ ∃ k, x.gang = some k ∧ (s.gangOf k).id = pk b 0x64 4)

/-- R83, R87, R90: a DISPATCH whose launch passes its checks hands its grid to the distributors, and one that fails is a queue error. -/
def Claims.Dispatches : Prop :=
  ∀ (s u : State) (d l q : Nat) (b : List Byte), Serves s d l q b u → pkType b = 1 →
    Makes (.dispatchPacket d l) s (.queue q) (match u.checkLaunch q b with
    | (v, .error e) => v.queueErr q e.1 e.2
    | (v, .ok g) =>
      let n := v.nextId
      let w := { v with nextId := n + 2, grids := v.grids.set n { g with packet := n + 1, order := n },
                        pkts := v.pkts.set (n + 1) { die := g.queue / 1024, queue := g.queue % 1024, slot := g.slot, kind := 1 } }
      let w := match g.parent with | none => w | some k => w.modGrid k fun y => { y with children := y.children + 1 }
      (if pkFlag b 9 then w else w.modQueue q fun x => { x with gang := none }).passPacket d l q 2)

/-- Launches, and the dispatch of their blocks. -/
def Obligations.Launches : Prop := Claims.LaunchesAreChecked ∧ Claims.Dispatches

/-- R17 to R21, R102, R109: carving gives a block fresh state, and a core that comes into use the budget and the credit of its idle windows: its groups have one ready split at the entry of their role, with every present lane
live, and registers of zeros. -/
def Claims.BlockCarving : Prop :=
  ∀ (s : State) (d c gid lin span : Nat) (parts : List Nat),
    let g := s.gridOf gid
    let t := s.carve d c gid lin span parts
    let b := t.blkOf s.nextId
    let core := s.coreOf d c
    let floor := (s.dieOf d).govFloor
    t = { s with nextId := s.nextId + 1, blocks := t.blocks, cores := t.cores } ∧ (∀ k, k ≠ s.nextId → t.blkOf k = s.blkOf k) ∧
    (∀ x y, State.coreKey x y ≠ State.coreKey d c → t.coreOf x y = s.coreOf x y) ∧
    t.coreOf d c = (if s.cores.has (State.coreKey d c) = true ∨ s.window = 0 then core else { core with b := floor, credit := 8 * floor }) ∧
    b.life = .carved ∧ b.die = d ∧ b.core = c ∧ b.grid = gid ∧ b.lin = lin ∧ b.span = span ∧ b.scratch = [] ∧ b.hasMs = g.matrix.isSome ∧
    b.ms.pc = g.matrix.getD 0 ∧ b.ms.halted = false ∧ b.ms.ended = false ∧ b.act = [] ∧ b.bars = [] ∧ b.busy = 0 ∧ b.groups.length = g.groupList.length ∧
    ∀ k slot idx entry vregs code, g.groupList[k]? = some (slot, idx, entry, vregs, code) →
      let y := t.grpOf s.nextId k
      let n := ((g.descs[slot]?).getD (0, 0, 0)).2.2
      let lanes := if idx + 1 = ((g.roles[slot]?).getD (0, 0, 0, 0)).2.1 ∧ n ≠ 0 then n else 96
      let x := t.splOf s.nextId k 0
      y.gid = k ∧ y.slot = slot ∧ y.index = idx ∧ y.vregs = vregs ∧ y.code = code ∧ y.lanes = lanes ∧ y.dead = 0 ∧ y.sb = [] ∧ y.eng = [] ∧
      (∀ r i, y.getV r i = 0) ∧ (∀ r i, y.getPr r i = (r == 0)) ∧
      x.status = .ready ∧ x.pc = entry ∧ x.left = 0 ∧ (∀ i, i < 96 → x.live.getLsbD i = decide (i < lanes)) ∧ x.exec = x.live ∧ x.depth = 0 ∧
      x.sig = 0xFFFFFFFF ∧ x.frame = none ∧ x.sigEn = g.sigEn ∧ x.type = 4 ∧ x.guard = 0 ∧ (∀ r, r < 125 → x.getS r = 0) ∧
      ∀ e, 0 < e → (t.splOf s.nextId k e).status = .empty

/-- R93 to R98, R445: a placement step without blocks to resume places one span of the first grid in order whose span fits; each block takes the
core with the fewest groups, the lowest among equals, of those that it fits; a die under evacuation places nothing. BLOCK_RELEASE starts a
carved block that brings nothing unfinished; a span passed over for 65536 cycles starves; GANGRES keeps its fields. A core is in use where the fuses and the lanes' test of the last reset leave it so; one set aside by GANGRES
is an ordinary candidate for a block without a gang (DEDUCED, log 43). -/
def Claims.Placement : Prop :=
  ∀ (s : State) (d : Nat),
    ((s.dieOf d).evac.getLsbD 30 = true → exec (.placementStep d) s = .next s) ∧
    ((s.dieOf d).evac.getLsbD 30 = false → s.unitsOn d = [] → s.gridOrder d = [] → exec (.placementStep d) s = .next s) ∧
    (∀ g rest, (s.dieOf d).evac.getLsbD 30 = false → s.unitsOn d = [] → s.gridOrder d = g :: rest →
      (∀ k ∈ g :: rest, (s.gridOf k).starving.contains d = false) → exec (.placementStep d) s = .next (match s.placeSpan d g with
        | some t => t
        | none => (s.modGrid g fun x => if x.passedAt.has d then x else { x with passedAt := x.passedAt.set d s.clock }).tryGrids d rest)) ∧
    (∀ g, let x := s.gridOf g
      let n := x.next.get 0 d
      x.extra.get [] d = [] → x.spanSize = 1 → n < s.spansOn x d → s.spanNumber x d n < State.gridSize x →
      s.placeSpan d g = (s.chooseCore d x).map fun c =>
        (s.carve d c.1 g (s.spanNumber x d n) (s.spanNumber x d n) c.2).modGrid g fun y =>
          { y with next := y.next.set d (n + 1), placed := y.placed + 1, passedAt := y.passedAt.del d, starving := y.starving.filter (· != d) }) ∧
    (∀ g, match s.chooseCore d g with
      | none => ∀ e ∈ s.coresFor d g, (s.occOf d e).fits g = none
      | some (c, parts) => c ∈ s.coresFor d g ∧ (∃ o, (s.occOf d c).fits g = some (parts, o)) ∧
        ∀ e, e ∈ s.coresFor d g → ((s.occOf d e).fits g).isSome = true →
          s.groupsOn d c < s.groupsOn d e ∨ (s.groupsOn d c = s.groupsOn d e ∧ c ≤ e)) ∧
    (∀ c, c ∈ s.coresOf d ↔ c < 96 ∧ Config.fusedCore d c = true ∧
      ∀ p, p < 4 → 32 ≤ ((List.range 34).filter fun l => Config.lanePasses s.boots d c p l).length) ∧
    (∀ g c, c ∈ s.coresFor d g ↔ c ∈ s.coresOf d ∧
      match g.gang with | some k => (d, c) ∈ (s.gangOf k).held | none => s.gangCore d c = none) ∧
    (∀ b, (s.blkOf b).life = .carved → (∀ e ∈ (s.blkOf b).groups, e.2.sb = []) → (∀ o ∈ s.ops, o.2.blk = b → o.2.kind ≠ .divide) →
      (∀ e ∈ s.dies, ∀ j ∈ e.2.loft, j.blk = b → j.stopped = false) →
      (s.ctxOf (s.gridOf (s.blkOf b).grid).fn (s.gridOf (s.blkOf b).grid).ctx).viral = false → exec (.blockRelease b) s = .next (s.modBlk b fun x => { x with life := .running })) ∧
    (∀ b, (s.blkOf b).life ≠ .carved → exec (.blockRelease b) s = .next s) ∧
    (∀ g, (s.gridOf g).passedAt.has d = true → (s.gridOf g).passedAt.get 0 d + 65536 ≤ s.clock → g ∈ s.unplacedOn d → d ∉ (s.gridOf g).starving →
      exec (.spanStarving d g) s = .next (s.modGrid g fun x => { x with starving := x.starving ++ [d] })) ∧
    (∀ g, (s.gridOf g).passedAt.has d = false ∨ s.clock < (s.gridOf g).passedAt.get 0 d + 65536 → exec (.spanStarving d g) s = .next s) ∧
    (∀ k v, 1 ≤ k → k ≤ 15 → exec (.gangresWrite d k v) s =
      .next (s.modDie d fun x => { x with gangres := x.gangres.set k (BitVec.ofNat 32 v &&& 0x7F3F01) })) ∧
    (∀ k v, k = 0 ∨ 15 < k → exec (.gangresWrite d k v) s = .next s)

/-- Blocks are carved, and placed on cores. -/
def Obligations.BlockPlacement : Prop := Claims.BlockCarving ∧ Claims.Placement

/-- R87, R99, R100: the GANG at the head of a lane opens its reservation, and chooses cores on its die; a second member of the same index, or
another member count, ends the gang. A committed reservation lets the packet issue. -/
def Claims.GangReservations : Prop :=
  ∀ (s : State) (d l i : Nat) (b : List Byte),
    let q := 1024 * d + i
    let x := s.queueOf q
    let id := s.nextId
    let k : Gang := { queue := q, fn := x.fn, id := pk b 4 4, count := pk b 8 2, index := pk b 10 2, cores := pk b 12 2,
                      mask := BitVec.ofNat 4 (pk b 14 1), since := s.clock, timeout := pk b 16 4 }
    let opened := ({ s with nextId := id + 1, gangs := s.gangs.set id k } : State).modQueue q fun y => { y with pendGang := some id }
    let standing := fun (e : Nat × Gang) => s.pkts.has e.1 = false ∨
      (e.2.queue ≠ q ∧ (s.queueOf e.2.queue).gang = some e.1 ∧ (s.queueOf e.2.queue).pendGang = none)
    let clash := ∃ e ∈ s.gangs, e.2.fn = x.fn ∧ e.2.id = k.id ∧ standing e ∧ (e.2.index = k.index ∨ e.2.count ≠ k.count)
    ((s.laneOf d l).queue = some i → s.laneHead d l = .pkt b → pkType b = 2 → s.packetError q b = none →
      (x.pendGang = none → clash → exec (.gangHoldStart d l) s = .next (opened.endGang k 0x0C)) ∧
      (x.pendGang = none → ¬clash → ∃ t, exec (.gangHoldStart d l) s = .next t ∧ (t.queueOf q).pendGang = some id ∧
        (t.gangOf id).queue = q ∧ (t.gangOf id).id = k.id ∧ (t.gangOf id).cores = k.cores ∧ (t.gangOf id).mask = k.mask ∧
        (∀ e, k.mask = 1#4 <<< e → e < 4 → k.cores ≤ (opened.gangCandidates k e).length →
          (t.gangOf id).chosen = ((opened.gangCandidates k e).take k.cores).map fun c => (e, c))) ∧
      (∀ g, x.pendGang = some g → (s.gangOf g).mask = 0 → exec (.gangHoldStart d l) s = .next s)) ∧
    (∀ u g, Serves s d l q b u → pkType b = 2 → (u.queueOf q).pendGang = some g →
      Makes (.gangPacket d l) s (.queue q)
        ((({ u with pkts := u.pkts.set g { die := d, queue := q % 1024, slot := State.errorSlot (u.queueOf q), kind := 2 } } : State).modQueue q
          fun y => { y with gang := some g, pendGang := none }).passPacket d l q 1)) ∧
    (∀ g, (s.laneOf d l).queue = some i → x.pendGang = some g →
      let y := s.gangOf g
      (y.timeout ≠ 0 → y.committed = false → y.since + 1024 * y.timeout ≤ s.clock →
        exec (.gangTimeout d l) s = .next (s.endGang y 0x0D)) ∧
      (y.timeout = 0 ∨ y.committed = true ∨ s.clock < y.since + 1024 * y.timeout → exec (.gangTimeout d l) s = .next s))

/-- R99, R101, R372: a chosen core is held once it holds no block, and the member whose cores are all held reports, in its function's
partition; a message of another module of another partition is not heard. The coordinator counts reports, and commits when all have come;
COMMIT commits the reported members, of a coordinator of this module or of one of another; ABORT, whatever the gang's state (DESIGN CHOICE, log
41), stops a member's queue with the error, and the coordinator passes it on. A report with a count or an index that does not fit, or an index
twice, ends the gang. A gang whose packet has issued keeps its place (DESIGN CHOICE, log 77). -/
def Claims.GangAgreement : Prop :=
  ∀ (s : State) (d c gang err : Nat) (f : GangFn) (who : GangMember),
    let tells := fun (t : State) (k : Gang) (kind : Nat) => t.emit (.gang (k.queue / 1024) kind k.fn k.id k.index 0 (s.partition k.fn))
    let fn := f.vf
    let m := who.index
    let coordinators := s.gangsOf fn gang (some 0)
    let here := s.gangsOf fn gang (some m)
    let heard := f.partition = none ∨ f.partition = some (s.partition fn)
    let nobodyYields := ∀ e ∈ s.gangs, ∀ y ∈ e.2.yielded, y.2 ≠ fn * 2 ^ 32 + gang
    (s.gangCore d c = none → exec (.coreHeld d c) s = .next s) ∧
    (∀ id, s.gangCore d c = some id → (s.occOf d c).blocks = 0 → (d, c) ∉ (s.gangOf id).held →
      let k := s.gangOf id
      let full := ∀ e, e < 4 → k.mask.getLsbD e = true → k.cores ≤ ((k.held ++ [(d, c)]).filter fun x => x.1 == e).length
      let x : Gang := { k with held := k.held ++ [(d, c)] }
      let y : Gang := { x with reported := true }
      (full → k.reported = false → exec (.coreHeld d c) s = .next (tells { s with gangs := s.gangs.set id y } k 0)) ∧
      (¬full → exec (.coreHeld d c) s = .next { s with gangs := s.gangs.set id x })) ∧
    (¬heard → exec (.gangHeld f gang who) s = .next s ∧ exec (.gangUnheld f gang who) s = .next s ∧ exec (.gangCommit f gang) s = .next s ∧
      exec (.gangAbort f gang err) s = .next s) ∧
    (coordinators = [] → exec (.gangHeld f gang who) s = .next s ∧ exec (.gangUnheld f gang who) s = .next s) ∧
    (∀ id k rest, heard → coordinators = (id, k) :: rest →
      let counted := ({ s with gangs := s.gangs.set id { k with members := k.members ++ [m] } } : State)
      let misfit := k.count ≤ m ∨ who.count ≠ k.count ∨ (if f.partition = none then here = [] else here ≠ [] ∨ m ∈ k.members)
      (misfit → exec (.gangHeld f gang who) s = .next (s.endGang k 0x0C)) ∧
      (¬misfit → (∀ e ∈ here, e.2.reported = true) → m ∉ k.members →
        ((∀ j, j < k.count → j = m ∨ j ∈ k.members) → exec (.gangHeld f gang who) s = .next (tells counted k 2)) ∧
        (¬(∀ j, j < k.count → j = m ∨ j ∈ k.members) → exec (.gangHeld f gang who) s = .next counted)) ∧
      (¬misfit → m ∈ k.members → exec (.gangHeld f gang who) s = .next s) ∧
      ((∀ e ∈ here, e.2.reported = false) →
        exec (.gangUnheld f gang who) s = .next { s with gangs := s.gangs.set id { k with members := k.members.filter (· != m) } })) ∧
    (let commits := if f.partition = none then coordinators ≠ [] ∧ ∀ e ∈ coordinators, ∀ j, j < e.2.count → j ∈ e.2.members
        else coordinators = [] ∧ heard
     (¬commits → exec (.gangCommit f gang) s = .next s) ∧
     (commits → nobodyYields → ∃ t, exec (.gangCommit f gang) s = .next t ∧ t = { s with gangs := t.gangs } ∧
       ∀ g, s.gangs.has g = true → t.gangOf g =
        if (s.gangOf g).fn = fn ∧ (s.gangOf g).id = gang ∧ (s.gangOf g).reported = true then { s.gangOf g with committed := true } else s.gangOf g)) ∧
    (∀ g y, heard → s.gangsOf fn gang none = [(g, y)] → nobodyYields →
      let left := if s.pkts.has g = true then s.gangs.set g { y with chosen := [], held := [], members := [] } else s.gangs.del g
      let out := (({ s with gangs := left } : State).modQueue y.queue fun x =>
        { x with pendGang := if x.pendGang = some g then none else x.pendGang, gang := if x.gang = some g then none else x.gang }).queueErr y.queue err 0
      exec (.gangAbort f gang err) s = .next (if y.index = 0 then out.gangSay y 3 err else out))

/-- Gangs. -/
def Obligations.Gangs : Prop := Claims.GangReservations ∧ Claims.GangAgreement

/-- R79, R87, R344: a COPY goes to the copy engine of its die; its rows are copied in ascending order (DESIGN CHOICE, log 44: R87 allows any order),
and the packet completes once none of its writes waits at its home, or its queue stops with error 0x09, also where another error has stopped it
before (log 53), and the copy stands to be issued again at the restart from the place recorded here (log 73). -/
def Obligations.Copies : Prop :=
  (∀ (s u : State) (d l q : Nat) (b : List Byte), Serves s d l q b u → pkType b = 8 →
    let x := u.queueOf q
    let id := u.nextId
    let at_ := match x.calls with | c :: _ => c.1 + 64 * c.2.2 | [] => x.ring + 64 * (x.readIdx % 2 ^ x.z)
    let j : CopyJob := { at_ := at_, pkt := id, queue := q, slot := State.errorSlot x, depth := x.calls.length, inner := State.innerSlot x,
                         fn := x.fn, ctx := x.ctx, src := pk b 8 8, dst := pk b 0x10 8, bytes := pk b 0x18 4,
                         rows := if pkFlag b 9 then pk b 0x1C 4 else 1, spitch := signed 32 (pk b 0x20 4), dpitch := signed 32 (pk b 0x24 4) }
    let p : Pkt := { die := d, queue := q % 1024, slot := j.slot, kind := 8 }
    Makes (.copyPacket d l) s (.queue q) (((({ u with nextId := id + 1, pkts := u.pkts.set id p } : State).modDie d
      fun y => { y with copies := y.copies.set id j })).passPacket d l q 1)) ∧
  (∀ (s : State) (d id : Nat), (∀ e ∈ (s.dieOf d).copies, e.1 ≠ id) → exec (.copyComplete d id) s = .next s) ∧
  (∀ (s : State) (d id : Nat) (j : CopyJob), (s.dieOf d).copies.find? (fun e => e.1 == id) = some (id, j) → j.ended ≠ none →
    exec (.copyComplete d id) s = .next s) ∧
  (∀ (s v : State) (d id : Nat) (j : CopyJob) (ok : Bool), (s.dieOf d).copies.find? (fun e => e.1 == id) = some (id, j) → j.ended = none →
    (s.asAgent (.copy d id)).copyRows d j j.rows 0 = (v, ok) → (∀ e ∈ v.dies, e.1 ≠ d → ∀ c ∈ e.2.copies, c.1 ≠ id) →
    let w := v.modDie d fun y => { y with copies := y.copies.set id { j with ended := some ok } }
    let waits := (∃ r ∈ v.snoopHeld, r.who = .copy id) ∨ ∃ e ∈ v.cells, ∃ r ∈ e.2.held, r.who = .copy id
    let t := ({ w with pkts := v.pkts.del id } : State).modDie d fun y => { y with copies := y.copies.del id }
    (waits → Makes (.copyComplete d id) s (.copy d id) w) ∧
    (¬waits → Makes (.copyComplete d id) s (.copy d id) (if ok then t
      else ((t.modQueue j.queue fun x => { x with redo := x.redo ++ [{ j with ended := none }] }).queueErrAt j.queue 0x09 0 j.slot j.depth
        j.inner).modQueue j.queue fun x => { x with errCopy := true }))) ∧
  (∀ (s : State) (d : Nat) (j : CopyJob) (n i pa pb : Nat),
    let src := wrap 64 (j.src + i * j.spitch)
    let dst := wrap 64 (j.dst + i * j.dpitch)
    0 < j.bytes → DevHits s d j.fn j.ctx .read j.bytes src pa → DevHits s d j.fn j.ctx .write j.bytes dst pb → s.canWrite pb = true →
    s.copyRows d j (n + 1) i = (s.wr j.fn pb (s.rd pa j.bytes)).copyRows d j n (i + 1))

/-- R328, R341, R342: a CELLAR command that passes its checks waits in its units; its pages lie in those units' channels and no input page is an
output page; it is accepted once no copy of an output line is with the host. One that fails leaves a record. -/
def Claims.CellarAcceptance : Prop :=
  (∀ (s u v : State) (d l q pa : Nat) (b : List Byte), Serves s d l q b u → pkType b = 9 →
    let x := u.queueOf q
    let va := pk b 0x18 8
    let slot := State.errorSlot x
    let id := v.nextId
    let w : State := { v with nextId := id + 1 }
    DevHits u d x.fn x.ctx .write 32 va pa →
    (∀ f, u.cellCheck d x.fn x.ctx (pk b 8 8) (pk b 0x10 8) = (v, .error f) → DevHits w d x.fn x.ctx .write 32 va pa → w.canWrite pa = true →
      w.poisoned pa 32 = false → Makes (.cellarPacket d l) s (.queue q)
        ((w.wr x.fn pa (State.cellRecord 0x19 f.check f.stream f.unit 0 0 f.va)).passPacket d l q 1)) ∧
    (∀ p bases, u.cellCheck d x.fn x.ctx (pk b 8 8) (pk b 0x10 8) = (v, .ok (p, bases)) →
      let c : CellCmd := { pkt := id, die := d, queue := q, slot := slot, fn := x.fn, ctx := x.ctx, prio := pk b 4 1, pb := p,
                           mask := BitVec.ofNat 64 (pk b 0x10 8), record := va, parts := (unitsOf (pk b 0x10 8)).map fun u => (u, 0, 0),
                           bases := bases, outPages := (bases.filter fun x => x.2.1 == 3).map fun x => x.2.2 / 2 ^ 21,
                           usePages := bases.map fun x => x.2.2 / 2 ^ 21, bad := none, held := [] }
      let k : Pkt := { die := d, queue := q % 1024, slot := slot, kind := 9 }
      let y := w.acceptCell c
      Makes (.cellarPacket d l) s (.queue q) (({ y with cells := y.cells.set id c, pkts := y.pkts.set id k } : State).passPacket d l q 1))) ∧
  (∀ (s : State) (c : CellCmd), (s.acceptCell c).farAsk = none → ∀ l ∈ (s.acceptCell c).hostShared, 128 * l / 2 ^ 21 ∉ c.outPages) ∧
  ∀ (s t : State) (d fn ctx va mask : Nat) (p : Cells 8) (bases : List (Nat × Nat × Nat)),
    s.cellCheck d fn ctx va mask = (t, .ok (p, bases)) →
    unitsOf mask ≠ [] ∧ (∀ u ∈ unitsOf mask, u < s.unitCount ∧ s.cellframeOf d (s.stackOfUnit u) % 65536 ≠ 0) ∧
    pbReserved p = false ∧ pbAllowed p = true ∧ pbCounts p = true ∧
    (∀ x ∈ bases, x.1 ∈ unitsOf mask ∧ x.2.1 ∈ usedStreams p ∧ t.unitOf x.2.2 = x.1 ∧ t.homeDie x.2.2 = d) ∧
    (∀ u ∈ unitsOf mask, ∀ k ∈ usedStreams p, ∃ x ∈ bases, x.1 = u ∧ x.2.1 = k) ∧
    (∀ x ∈ bases, ∀ y ∈ bases, x.2.1 = 3 → y.2.1 ≠ 3 → x.2.2 ≠ y.2.2)

/-- R339, R340, R342, R343: frames, and compute intervals, in which a free unit starts a waiting part of the highest priority; parts pause in
ordinary intervals, where the requests that waited for their channels are performed. -/
def Claims.CellarIntervals : Prop :=
  ∀ (s : State) (d k u v : Nat),
    (255 ≤ bits v 31 16 ∧ v % 65536 + 64 ≤ bits v 31 16 + 1 → exec (.cellframeWrite d k v) s =
      .next (s.modDie d fun x => { x with cellframe := x.cellframe.set k (BitVec.ofNat 32 v) })) ∧
    (bits v 31 16 < 255 ∨ bits v 31 16 + 1 < v % 65536 + 64 → exec (.cellframeWrite d k v) s = .next s) ∧
    (s.cellframeOf d k % 65536 = 0 → exec (.computeIntervalStart d k) s = .next s) ∧
    (s.cellframeOf d k % 65536 ≠ 0 → ∃ t, exec (.computeIntervalStart d k) s = .next t ∧ k ∈ (t.dieOf d).computing ∧
      t = { s with dies := t.dies, cells := t.cells } ∧
      ({ t with dies := s.dies } : State) =
        ((List.range s.unitCount).filter fun u => s.stackOfUnit u == k).foldl (fun w u => w.startPart d u) s) ∧
    ((s.runningOn d u).isSome = true ∨ s.nextPart d u = none → s.startPart d u = s) ∧
    (∀ id, s.nextPart d u = some id → ∃ c, (id, c) ∈ s.cells ∧ c.die = d ∧ (∃ n, (u, 0, n) ∈ c.parts) ∧ s.cellWaits id c = false ∧
      ∀ e ∈ s.cells, e.2.die = d → (∃ n, (u, 0, n) ∈ e.2.parts) → s.cellWaits e.1 e.2 = false → e.2.prio ≤ c.prio) ∧
    (∀ id c, s.runningOn d u = none → s.nextPart d u = some id → s.cells.find? (fun e => e.1 == id) = some (id, c) →
      let e : CellCmd := { c with parts := c.parts.map fun p => if p.1 = u then (u, 1, 0) else p }
      s.startPart d u = { s with cells := s.cells.set id e }) ∧
    (s.snoopHeld = [] → s.settleHeld = s) ∧
    (∃ t : State, exec (.ordinaryIntervalStart d k) s = .next t.settleHeld ∧ t = { s with dies := t.dies } ∧ k ∉ (t.dieOf d).computing ∧
      ∀ j, j ≠ k → (j ∈ (t.dieOf d).computing ↔ j ∈ (s.dieOf d).computing))

/-- R330 to R333, R344 to R347: a part writes its outputs in order, up to a poisoned sector, each with its frame's dirty bit (R232), which a busy
channel puts off (R340). When every part has ended the holds go, and the requests that waited on them are performed in their order of arrival, or wait
on for what holds them still; the record, of status 0x07 where a part met poison, is written when none of them is left. Its clocks are
some number that is not 0 (log 1). -/
def Claims.CellarParts : Prop :=
  (∀ (s v : State) (d u id n : Nat) (c : CellCmd) (x : Option (Nat × Nat)), s.runningOn d u = some (id, c) →
    s.stackOfUnit u ∈ (s.dieOf d).computing → s.runPart c u (pbOutputs c.pb) 0 = (v, n, x) →
    let bad := match x with | some y => some (y.1, u, cellVa c u y.1 y.2 / 32 * 32) | none => none
    let e : CellCmd := { c with parts := c.parts.map fun p => if p.1 = u then (u, 2, n) else p, bad := if c.bad.isSome then c.bad else bad }
    exec (.cellarPartEnd d u) s = .next { v with cells := v.cells.set id e }) ∧
  (∀ (s : State) (d u : Nat), s.runningOn d u = none ∨ s.stackOfUnit u ∉ (s.dieOf d).computing →
    exec (.cellarPartEnd d u) s = .next s ∧ ∀ k va, exec (.cellarPartPoison d u k va) s = .next s) ∧
  (∀ (s : State) (c : CellCmd) (u k m : Nat),
    ((∀ x ∈ State.readsOf c.pb m, s.poisoned (cellAt c u x.1 x.2) (elemSize c.pb x.1) = false) → s.runPart c u (k + 1) m =
      (s.cellWrite c.fn (cellAt c u 3 m) (toBytes (if pbOut c.pb = 1 then 4 else 2) (s.cellOutput c u m))).runPart c u k (m + 1)) ∧
    (∀ x rest, State.readsOf c.pb m = x :: rest → s.poisoned (cellAt c u x.1 x.2) (elemSize c.pb x.1) = true →
      s.runPart c u (k + 1) m = (s, m, some x))) ∧
  (∀ (s : State) (fn pa : Nat) (bs : List Byte),
    (s.dirtyAt fn pa = none → s.cellWrite fn pa bs = s.put pa bs) ∧
    (∀ a m, s.dirtyAt fn pa = some (a, m) → s.chanBusy a = false → s.cellWrite fn pa bs = (s.orByte a m).put pa bs) ∧
    (∀ a m, s.dirtyAt fn pa = some (a, m) → s.chanBusy a = true → (s.cellWrite fn pa bs).mem = (s.put pa bs).mem ∧
      ∃ r ∈ (s.cellWrite fn pa bs).snoopHeld, r.pa = a ∧ r.op = .atomic .or 1 m.toNat m.toNat ∧ r.who = .nobody)) ∧
  (∀ (s v : State) (d u k va id n : Nat) (c : CellCmd) (page : Nat) (x : Nat × Nat), s.runningOn d u = some (id, c) →
    s.stackOfUnit u ∈ (s.dieOf d).computing → k < 3 → c.bases.find? (fun x => x.1 == u && x.2.1 == k) = some (u, k, page) →
    let sec := (page + va % 2 ^ 21) / 32
    let t := if s.poison.contains sec then s else { s with poison := s.poison ++ [sec] }
    t.runPart c u (pbOutputs c.pb) 0 = (v, n, some x) → x.1 = k → cellAt c u x.1 x.2 / 32 = sec →
    let e : CellCmd := { c with parts := c.parts.map fun p => if p.1 = u then (u, 2, n) else p,
                                bad := if c.bad.isSome then c.bad else some (x.1, u, cellVa c u x.1 x.2 / 32 * 32) }
    exec (.cellarPartPoison d u k va) s = .next { v with cells := v.cells.set id e }) ∧
  (∀ (s : State) (d id : Nat) (c : CellCmd), s.cells.find? (fun e => e.1 == id && e.2.die == d) = some (id, c) → s.cells.get c id = c →
    ((∃ p ∈ c.parts, p.2.1 < 2) → exec (.cellarComplete d id) s = .next s) ∧
    ((∀ p ∈ c.parts, 2 ≤ p.2.1) → c.outPages = [] →
      exec (.cellarComplete d id) s = .next (if s.releasing c then s else s.closeCell id c)) ∧
    ((∀ p ∈ c.parts, 2 ≤ p.2.1) → c.outPages ≠ [] →
      let v := c.held.foldl (fun t r => t.runHeld r) { s with cells := s.cells.set id { c with outPages := [], held := [] } }
      let e : CellCmd := { c with outPages := [], held := [], waits := c.held.filter fun r => v.snoopHeld.contains r }
      let w : State := { v with cells := v.cells.set id e }
      exec (.cellarComplete d id) s = .next (if w.releasing e then w else w.closeCell id e))) ∧
  (∀ (s : State) (c : CellCmd), s.releasing c = true ↔ (∃ r ∈ c.waits, r ∈ s.snoopHeld) ∨ ∃ w ∈ c.words,
    (s.blkOf w.1).live = true ∧ (s.splOf w.1 w.2.1 w.2.2.1).status = .ready ∧ (s.splOf w.1 w.2.1 w.2.2.1).pc = w.2.2.2) ∧
  (∀ (s : State) (r : HeldReq), s.hasAhead r = false →
    (State.reqWrites r.op = true → s.heldPage r.pa = true → s.runHeld r = s.holdReq r) ∧
    ((State.reqWrites r.op = true → s.canWrite r.pa = true) → s.chanBusy r.pa = false → s.runHeld r = s.serveHeld r) ∧
    ((∀ id m, r.who ≠ .msg id m) → r.who ≠ .inbound →
      s.serveHeld r = (s.serve r.fn r.pa r.op).1.tell r (s.serve r.fn r.pa r.op).2)) ∧
  (∀ (s : State) (id pa : Nat) (c : CellCmd), (∃ p ∈ c.parts, p.2.1 = 2) →
    let u : State := { s with cells := s.cells.del id, tick := s.tick + 1 }
    let gone := ∃ p ∈ c.parts, p.2.1 = 3
    let outs := (c.parts.map fun p => p.2.2).sum
    DevHits u c.die c.fn c.ctx .write 32 c.record pa → u.canWrite pa = true → u.poisoned pa 32 = false → ∃ clocks, 0 < clocks ∧ clocks < 2 ^ 64 ∧
      let closes := fun (bs : List Byte) => s.closeCell id c = { u.wr c.fn pa bs with pkts := (u.wr c.fn pa bs).pkts.del c.pkt }
      (gone → closes (State.cellRecord 0x01 0 0xFF 0xFF outs clocks 0)) ∧
      (¬gone → c.bad = none → closes (State.cellRecord 0 0 0xFF 0xFF outs clocks 0)) ∧
      (∀ k un va, ¬gone → c.bad = some (k, un, va) → closes (State.cellRecord 0x07 0 k un outs clocks va)))

/-- The cellar units. -/
def Obligations.Cellar : Prop := Claims.CellarAcceptance ∧ Claims.CellarIntervals ∧ Claims.CellarParts

/-- R105, R108, R109, R156, R177: the governor's windows and periods, and the waits that end by time. -/
def Claims.GovernorAndTimers : Prop :=
  ∀ (s : State) (d c v b g e since : Nat),
    let x := s.coreOf d c
    let y := s.dieOf d
    let up := x.heldWin = true ∧ x.b < y.govMax ∧ 0 < y.stock
    (∃ t, exec (.governorWindowEnd d c) s = .next t ∧ t = { s with cores := t.cores, dies := t.dies } ∧
      (∀ i, t.dieOf i = if i = d ∧ up then { y with stock := y.stock - 1, grant := c } else s.dieOf i) ∧
      ∀ i k, t.coreOf i k = if State.coreKey i k = State.coreKey d c then
        { x with heldWin := false, issuedWin := false, b := max y.govFloor (min y.govMax
          (if up then x.b + 1 else if x.heldWin = false ∧ x.issuedWin = false then x.b - 1 else x.b)) } else s.coreOf i k) ∧
    (∃ t, exec (.governorWindowStart d c) s = .next t ∧ t = { s with cores := t.cores, blocks := t.blocks } ∧
      (∀ i k, t.coreOf i k = if State.coreKey i k = State.coreKey d c then { x with credit := min (x.credit + 8 * x.b) (8 * x.b) } else s.coreOf i k) ∧
      ∀ i, t.blkOf i = if (s.blkOf i).die = d ∧ (s.blkOf i).core = c ∧ (s.blkOf i).ms.heldOnce = true then
        { s.blkOf i with ms := { (s.blkOf i).ms with waiting := false } } else s.blkOf i) ∧
    (exec (.governorPeriod d) s = .next (s.modDie d fun z =>
      { z with stock := if bits z.govctl.toNat 7 0 = 0 then 96 else bits z.govctl.toNat 7 0 })) ∧
    (∃ t, exec (.govctlWrite d v) s = .next t ∧ t = { s with dies := t.dies, cores := t.cores } ∧
      (∀ i, t.dieOf i = if i = d then { y with govctl := BitVec.ofNat 32 v &&& 0x000FF0FF } else s.dieOf i) ∧
      ∀ i k, t.coreOf i k = s.coreOf i k) ∧
    ((s.splOf b g e).status = .waiting (.sleep since) →
      exec (.sleepExpire b g e) s = .next (if since ≤ s.clock then s.modSplOf b g e fun z => { z with status := .ready } else s)) ∧
    ((s.splOf b g e).status = .waiting (.merge since) → exec (.mergeWaitTimeout b g e) s =
      .next (if since + 1024 ≤ s.clock then s.modSplOf b g e fun z => { z with status := .ready, merged := true } else s)) ∧
    (exec (.groupOverdue b g) s = .next (if (s.grpOf b g).lastIssue + 2048 ≤ s.clock ∧ ((List.range 4).any fun i => s.splitMay b g i) = true then
      s.modGrp b g fun z => { z with overdue := true } else s))

/-- R449: the power cap and a sample of 1 ms, which lowers or raises each die's own limit by one. -/
def Claims.PowerCapping : Prop :=
  ∀ (s : State) (v watts amps : Nat),
    (1000 ≤ v % 65536 ∧ v % 65536 ≤ 6000 → exec (.pwrctlWrite v) s = .next { s with pwrctl := BitVec.ofNat 32 (v % 65536) }) ∧
    (v % 65536 < 1000 ∨ 6000 < v % 65536 → exec (.pwrctlWrite v) s = .next s) ∧
    ∃ t, exec (.powerSample watts amps) s = .next t ∧ t = { s with dies := t.dies, pwrstat := t.pwrstat } ∧
      t.pwrstat = BitVec.ofNat 32 (watts % 65536 * 65536 + amps % 65536) ∧
      ∀ d, s.dies.has d = true →
        let x := s.dieOf d
        let m := if bits x.govctl.toNat 19 16 = 0 ∨ bits x.govctl.toNat 19 16 > 8 then 8 else bits x.govctl.toNat 19 16
        let cap := s.pwrctl.toNat % 65536
        t.dieOf d = { x with effMax := if cap < watts then max x.govFloor (min x.effMax m - 1)
                                       else if watts < cap then min m (min x.effMax m + 1) else min x.effMax m }

/-- The governor, the watchdogs and the power cap. -/
def Obligations.PowerAndTimers : Prop := Claims.GovernorAndTimers ∧ Claims.PowerCapping

/-- R220 to R225, R227, R230, R386: a walk of a die reads one entry of each level down to a leaf, whose Accessed and, for a write, Dirty bits it
sets; an invalid entry is reason 1, a write to a page that is not writable reason 2, a malformed entry reason 3. A poisoned sector of a table
ends it with 6 and a leaf in a lost extent with code 0x14, as does an entry that cannot be reached with the code of its failure (0x100 + code). A context
that was torn down is not valid (DESIGN CHOICE, log 84). The translation enters the TLB, of which an entry may go for it (DESIGN CHOICE, log 9). -/
def Obligations.PageWalks : Prop :=
  ∀ (s : State) (die fn ctx va n : Nat) (acc : AccType) (tab e : Nat → Nat),
    let ct := (s.fnBlock fn die).ctxTable + 16 * ctx
    let idx := fun k => bits va (if k = 0 then 55 else 47 - 9 * k) (39 - 9 * k)
    let le := fun k => tab k + 8 * idx k
    let at_ := fun k => s.localPa (le k)
    let ag := tab 3 + 8 * (16 * bits va 20 16)
    let g := s.rdNum (s.localPa ag) 8
    let reads := fun a => s.reachPa fn a 8 true = .ok (s.localPa a) ∧ s.rangeOf (s.localPa a) ≠ .host
    let c := s.rdNum (s.localPa ct) 8
    let c₂ := s.rdNum (s.localPa (ct + 8)) 8
    let w := walk s die fn ctx va acc
    let on := bitOf c 7 = true ∧ (s.ctxOf fn ctx).torn = false
    ((s.tlbHit die none fn ctx va acc).isSome = true → exec (.pageWalkComplete die fn ctx va acc) s = .next s) ∧
    (2 ^ 56 ≤ va → w = (s, .error 1)) ∧
    (va < 2 ^ 56 → s.reachPa fn ct 8 true = .poison → w = (s, .error 6)) ∧
    (∀ code, va < 2 ^ 56 → s.reachPa fn ct 8 true = .fail code → w = (s, .error (0x100 + code))) ∧
    (va < 2 ^ 56 → reads ct → reads (ct + 8) → ¬on → w = (s, .error 1)) ∧
    (va < 2 ^ 56 → reads ct → reads (ct + 8) → on → c₂ ≠ 0 ∨ bits c 63 52 ≠ 0 ∨ bits c 11 8 ≠ 0 ∨ 17 < bits c 4 0 ∨ 2 ≤ bits c 6 5 →
      w = (s, .error 3)) ∧
    (va < 2 ^ 56 → reads ct → reads (ct + 8) → on → c₂ = 0 → bits c 63 52 = 0 → bits c 11 8 = 0 → bits c 4 0 ≤ 17 →
      bits c 6 5 < 2 → idx 0 < 2 ^ bits c 4 0 → 1 ≤ n → n ≤ 3 → tab 0 = pteAddr c → (∀ k, k ≤ n → e k = s.rdNum (at_ k) 8) →
      (∀ k, k < n → reads (le k) ∧ bitOf (e k) 0 = true ∧ bitOf (e k) 6 = false ∧
        malformed s fn (bits c 6 5) k (idx k) (e k) = false ∧ tab (k + 1) = pteAddr (e k)) →
      (n = 3 → reads ag ∧ (bitOf g 0 = false ∨ bitOf g 7 = false)) →
      let ill := malformed s fn (bits c 6 5) n (idx n) (e n)
      let lost := bits (e n) 59 58 = 2 ∧ s.extentLost (pteAddr (e n)) = true
      (s.reachPa fn (le n) 8 true = .poison → w = (s, .error 6)) ∧
      (∀ code, s.reachPa fn (le n) 8 true = .fail code → w = (s, .error (0x100 + code))) ∧
      (reads (le n) → bitOf (e n) 0 = false → w = (s, .error 1)) ∧
      (reads (le n) → bitOf (e n) 0 = true → ill = true → w = (s, .error 3)) ∧
      (reads (le n) → bitOf (e n) 0 = true → ill = false → bitOf (e n) 6 = true → (n = 3 → bitOf (e n) 7 = false) →
        (lost → w = (s, .error 0x114)) ∧
        (¬lost → acc.writes = true → bitOf (e n) 1 = false → w = (s, .error 2)) ∧
        (¬lost → acc.writes = false ∨ bitOf (e n) 1 = true → s.canWrite (at_ n) = true →
          let m : Nat := if acc.writes then 0x30 else 0x10
          let u : State := if e n ||| m = e n then s
            else { s with mem := Cells.set (w := 8) s.mem (at_ n) (s.byteAt (at_ n) ||| BitVec.ofNat 8 m) }
          let size := 2 ^ (39 - 9 * n)
          let t : Tlb := { fn := fn, ctx := ctx, page := va / size, size := size, pa := pteAddr (e n), writable := bitOf (e n) 1,
                           dirty := bitOf (e n) 5 || acc.writes, capable := bitOf (e n) 55, pinned := bitOf (e n) 56,
                           domain := bits (e n) 59 58 }
          w = (u, .ok t) ∧ (s.tlbHit die none fn ctx va acc = none → exec (.pageWalkComplete die fn ctx va acc) s =
            .next { u with l2tlb := u.l2tlb.set die (l2Fill (u.l2tlb.get [] die) t) }))))

/-- R229, R231, R385, R412: the host replays a parking, or has its fault delivered as a trap at the faulting instruction, which for a message is the word
that sent it. -/
def Claims.Parkings : Prop :=
  ∀ (s : State) (fn die id : Nat),
    let p := s.parkOf id
    let u := { s with parks := s.parks.del id }
    let code := if p.poison then 0x07 else 0x05
    let ready := fun (x : Split) => { x with status := .ready, loads := none, replay := if p.lanes = 0 then x.replay else some p.lanes }
    let traps := fun (v : State) (b g e : Nat) (sent : Option Frame) => ∀ pa entry, (v.gridOf (v.blkOf b).grid).codeCopy = none →
      HitsIn v b .fetch 4 ((v.gridOf (v.blkOf b).grid).code + (v.splOf b g e).pc) pa → (v.splOf b g e).loads = none →
      (v.splOf b g e).frame = none → (v.gridOf (v.blkOf b).grid).trapEntry = some entry →
      let x := v.splOf b g e
      let here : Frame := { pc := x.pc, hdr := x.hdr, ll := x.ll, left := x.left, flagA := x.flagA, flagB := x.flagB, yieldBit := x.yieldBit,
                            ofStream := false, atH := false, word := BitVec.ofNat 32 (v.rdNum pa 4), mode := x.mode, sig := x.sig }
      exec (.parkDeliver fn die id) s = .next (v.modSplOf b g e fun y =>
        { y with frame := some (sent.getD here), trapCode := BitVec.ofNat 32 code, trapInfo := BitVec.ofNat 64 p.va, mode := y.mode &&& ~~~0x38,
                 sig := 0xFFFFFFFF, pc := entry, left := 0, ll := 0, status := .ready, replay := none, kvFail := none, merged := false })
    (s.parks.has id = false ∨ p.fn ≠ fn ∨ p.die ≠ die →
      exec (.parkReplay fn die id) s = .next s ∧ exec (.parkDeliver fn die id) s = .next s) ∧
    (s.parks.has id = true → p.fn = fn → p.die = die →
      (∀ b g e, p.who = .split b g e → (s.splOf b g e).status = .parked id →
        exec (.parkReplay fn die id) s = .next (u.modSplOf b g e ready) ∧ traps u b g e none) ∧
      (∀ b g q, p.who = .queue b g q →
        let v := u.modGrp b g fun x => { x with engPark := x.engPark.del q }
        exec (.parkReplay fn die id) s = .next v ∧ exec (.parkDeliver fn die id) s = .next (v.engFail b g q code (engInfo q p.va false))) ∧
      (∀ b, p.who = .stream b →
        let v := u.modBlk b fun x => { x with ms := { x.ms with parked := none } }
        exec (.parkReplay fn die id) s = .next v ∧ exec (.parkDeliver fn die id) s = .next (v.streamTrap b code (BitVec.ofNat 64 p.va))) ∧
      (∀ m e x, p.who = .access m → s.remotes.has m = true →
        let r := s.remoteOf m
        (s.grpOf r.blk r.grp).splits.find? (fun y => y.2.status == .parked id) = some (e, x) →
        exec (.parkReplay fn die id) s = .next ((u.modSplOf r.blk r.grp e fun x => { x with status := .ready }).sendMsg m r.pa r.fn r.req) ∧
        traps (u.giveUp m) r.blk r.grp e r.frame))

/-- R226, R232, R438: translation commands drop translations, harvest the dirty bitmap, and complete once the accesses of the context that
used an earlier translation have been performed; one that breaks a limit is refused. The completion word is written in the command's context (DEDUCED,
log 15), and the bitmap is the function's on a die (DEDUCED, log 91). -/
def Claims.TranslationCommands : Prop :=
  ∀ (s : State) (fn die ctx va len comp : Nat),
    let few := ((s.fnOf fn).trCmds.filter fun c => c.1 == die).length < 8
    let takes := fun (e : Instr) (a n : Nat) => ∃ t, exec e s = .next t ∧
      let p := fun (x : Tlb) => x.fn == fn && x.ctx == ctx && decide (x.page * x.size < a + n) && decide (a < (x.page + 1) * x.size)
      t = { s with cores := t.cores, l2tlb := t.l2tlb, fns := t.fns, remotes := t.remotes } ∧
      (∀ d c, t.coreOf d c = { s.coreOf d c with tlb := (s.coreOf d c).tlb.filter fun x => !p x }) ∧
      (∀ d, t.l2tlb.get [] d = (s.l2tlb.get [] d).filter fun x => !p x) ∧
      (∀ f, t.fnOf f = if f = fn then { s.fnOf fn with trCmds := (s.fnOf fn).trCmds ++ [(die, ctx, comp)] } else s.fnOf f) ∧
      ∀ m, s.remotes.has m = true →
        let r := s.remoteOf m
        t.remoteOf m = if r.fn = fn ∧ (r.far = true ∨ (r.ctx = ctx ∧ a ≤ r.va ∧ r.va < a + n)) then { r with stale := true } else r
    let refuses := fun (e : Instr) => ∀ pa, DevHits s die fn (if ctx > 63 then 0 else ctx) .write 8 comp pa → s.canWrite pa = true →
      exec e s = .next (s.wr fn pa (toBytes 8 0xFFFFFFFFFFFFFFFF))
    (ctx ≤ 63 → comp % 8 = 0 → few →
      (va % 4096 = 0 → len % 4096 = 0 → takes (.invalidateRange fn die ctx va len comp) va len) ∧
      takes (.invalidateContext fn die ctx comp) 0 (2 ^ 64) ∧
      (∀ bit cnt dst pa, bit % 64 = 0 → cnt % 64 = 0 → bit + cnt ≤ 8 * s.bitmapBytes → 0 < cnt →
        let a := (s.fnBlock fn die).dirtyBase + bit / 8
        let v : State := { s with mem := putBytes s.mem a (toBytes (cnt / 8) 0) }
        (∀ p, a ≤ p → p < a + cnt / 8 → s.canWrite p = true) → DevHits v die fn ctx .write (cnt / 8) dst pa → v.canWrite pa = true →
        exec (.harvestDirty fn die ctx bit cnt dst comp) s = .next ((v.wr fn pa (s.rd a (cnt / 8))).modFn fn
          fun f => { f with trCmds := f.trCmds ++ [(die, ctx, comp)] }))) ∧
    (63 < ctx ∨ comp % 8 ≠ 0 ∨ ¬few → refuses (.invalidateRange fn die ctx va len comp) ∧ refuses (.invalidateContext fn die ctx comp)) ∧
    (va % 4096 ≠ 0 ∨ len % 4096 ≠ 0 → refuses (.invalidateRange fn die ctx va len comp)) ∧
    (∀ bit cnt dst, bit % 64 ≠ 0 ∨ cnt % 64 ≠ 0 ∨ 8 * s.bitmapBytes < bit + cnt → refuses (.harvestDirty fn die ctx bit cnt dst comp)) ∧
    ((∀ c ∈ (s.fnOf fn).trCmds, c.1 ≠ die) → exec (.translationCommandDone fn die) s = .next s) ∧
    (∀ c, (s.fnOf fn).trCmds.find? (fun c => c.1 == die) = some c → (∀ x ∈ s.ctxGroups fn c.2.1, (s.grpOf x.1 x.2).sb = []) →
      (s.accessUnderWay fn c.2.1 = true → exec (.translationCommandDone fn die) s = .next s) ∧
      (∀ pa, s.accessUnderWay fn c.2.1 = false → c.2.1 ≤ 63 →
        let u := s.modFn fn fun f => { f with trCmds := f.trCmds.erase c }
        DevHits u die fn c.2.1 .write 8 c.2.2 pa → u.canWrite pa = true →
        exec (.translationCommandDone fn die) s = .next (u.wr fn pa (toBytes 8 1))))

/-- Parked faults, and the commands to the translation tables. -/
def Obligations.Translation : Prop := Claims.Parkings ∧ Claims.TranslationCommands

/-- R217, R218, R230: MEMCFG moves bays between cache and window mode, which zeroes them, and holds Busy until they are ready; bays in compute mode
and window bays are at most 56 together (DEDUCED, log 85); a poisoned sector is noted. -/
def Obligations.MemoryConfiguration : Prop :=
  ∀ (s : State) (d v pa : Nat),
    let x := s.dieOf d
    let wb := bits v 21 16
    let cm := bits v 13 8
    let old := x.windowBays
    let good := wb ≤ 32 ∧ cm ≤ 56 ∧ wb + cm ≤ 56 ∧ x.memBusy = false ∧
      (∀ b, 64 - wb ≤ b → b < 64 - old → (x.bays.get {} b).mode ≠ 2) ∧
      (old < wb → ((List.range 64).filter fun b => (x.bays.get {} b).mode == 2).length + wb ≤ 56)
    (¬good → exec (.memcfgWrite d v) s = .next s) ∧
    (good → old ≤ 32 → ∃ t, exec (.memcfgWrite d v) s = .next t ∧ t = { s with mem := t.mem, poison := t.poison, dies := t.dies } ∧
      (∀ i, i ≠ d → t.dieOf i = s.dieOf i) ∧ t.dieOf d = { x with memcfg := (t.dieOf d).memcfg, bays := (t.dieOf d).bays, preparing := (t.dieOf d).preparing } ∧
      (∀ b, b ∈ (t.dieOf d).preparing ↔ 64 - wb ≤ b ∧ b < 64 - old) ∧
      (t.dieOf d).memcfg = (BitVec.ofNat 32 v &&& 0x013F3F00) ||| (if old < wb then 1 else 0) ∧
      (∀ b, b < 64 → (t.dieOf d).bays.get {} b =
        if 64 - wb ≤ b ∧ b < 64 - old then { mode := 1 } else if 64 - old ≤ b ∧ b < 64 - wb then {} else x.bays.get {} b) ∧
      ∀ a, t.byteAt a =
        let b := 63 - (a - (s.winBase + d * 2 ^ 29)) / 2 ^ 24
        if s.winBase + d * 2 ^ 29 ≤ a ∧ a < s.winBase + d * 2 ^ 29 + 32 * 2 ^ 24 ∧
          ((64 - wb ≤ b ∧ b < 64 - old) ∨ (64 - old ≤ b ∧ b < 64 - wb)) then 0 else s.byteAt a) ∧
    (exec (.windowBaysReady d) s = .next (s.modDie d fun y => { y with memcfg := y.memcfg &&& ~~~1, preparing := [] })) ∧
    (pa < 2 ^ 52 → s.rangeOf pa ≠ .none → ∃ t, exec (.sectorPoison pa) s = .next t ∧ t = { s with poison := t.poison } ∧
      ∀ p, p ∈ t.poison ↔ p ∈ s.poison ∨ p = pa / 32) ∧
    (pa < 2 ^ 52 → s.rangeOf pa = .none → exec (.sectorPoison pa) s = .next s)

/-- R364 to R368: the bytes of a received flit, replay, training and the link registers; what the fitting has no link for changes nothing. The lanes that
fail in training are those of the event, up to the lanes in use (DEDUCED, log 56); the places within a flit of what R365 names are log 17. -/
def Obligations.Links : Prop :=
  ∀ (s : State) (d l n v fail : Nat) (bs : List Byte),
    let crcOk := ofBytes ((bs.drop 242).take 8) = (crc64 (bs.take 242)).toNat
    let h := ofBytes (bs.take 4)
    (bs.length = 256 → (∀ i, i < 3 → fecGood i bs = true) → (¬crcOk → Flit.parse bs = none) ∧ (crcOk → Flit.parse bs =
      some { seq := h % 1024, ack := bits h 19 10, kind := bits h 21 20, credits := bits h 31 22, payload := (bs.drop 4).take 238 })) ∧
    let w := (s.linkWord d l).toNat
    let field := fun (t : State) (hi lo : Nat) => bits (t.linkWord d l).toNat hi lo
    let ctl := s.modDie d fun x => { x with linkctl := x.linkctl.set l (BitVec.ofNat 32 v &&& 0x40000000) }
    let r := bits w 29 28
    let wd := bits w 27 26
    let bad := (BitVec.ofNat 8 fail &&& BitVec.ofNat 8 (State.lanesInUse wd)).toNat
    let low := l < 4 ∧ bad ≠ 0 ∧ wd = 0 ∧ bad / 16 = 0
    let high := l < 4 ∧ bad ≠ 0 ∧ wd = 0 ∧ bad % 16 = 0
    (s.isExpander = true ∨ 4 ≤ d ∨ 7 ≤ l → exec (.linkFlitReceive d l bs) s = .next s ∧ exec (.linkNak d l n) s = .next s ∧
      exec (.linkctlRetrain d l) s = .next s ∧ exec (.linkctlDisable d l v) s = .next s ∧ exec (.linkTrainingEnd d l fail) s = .next s) ∧
    (s.isExpander = false → d < 4 → l < 7 →
    (s.linkSends d l = false → exec (.linkFlitReceive d l bs) s = .next s) ∧
    (s.linkSends d l = true → Flit.parse bs = none → ∃ c, c < 1024 ∧ exec (.linkFlitReceive d l bs) s = .next (({ s with tick := s.tick + 1 } : State).emit
      (.flit d l (Flit.wire { kind := 2, seq := 0, ack := s.lastGood d l, credits := c, payload := [] })))) ∧
    (∀ f, s.linkSends d l = true → Flit.parse bs = some f →
      let u := s.ackFlits d l f.ack
      (f.kind = 0 → f.seq = ((s.dieOf d).linkRx.get l).toNat % 1024 → exec (.linkFlitReceive d l bs) s =
        .next (u.modDie d fun x => { x with linkRx := x.linkRx.set l (BitVec.ofNat 32 ((f.seq + 1) % 1024)) })) ∧
      (f.kind = 0 → f.seq ≠ ((s.dieOf d).linkRx.get l).toNat % 1024 → exec (.linkFlitReceive d l bs) s = .next u) ∧
      (f.kind = 2 → exec (.linkFlitReceive d l bs) s = .next (u.nakFlits d l f.ack))) ∧
    (∀ pre x post, s.linkBuf d l = pre ++ x :: post → x.seq = n → (∀ y ∈ pre, y.seq ≠ n) → pre.length < 256 →
      (s.ackFlits d l n).linkBuf d l = post ∧
      (s.linkSends d l = true → post.length ≤ 256 → (s.dieOf d).replays.get [] l = [] → ∃ t, exec (.linkNak d l n) s = .next t ∧
        t = { s with dies := t.dies, outbox := s.outbox ++ post.map (fun y => Out.flit d l (Flit.wire y)) } ∧ t.linkBuf d l = post ∧
        t.linkWord d l = BitVec.ofNat 32 (w / 256 * 256 + (w + 1) % 256))) ∧
    (((s.dieOf d).linkctl.get l).getLsbD 30 = true ∨ s.linkTrains d l = true → exec (.linkctlRetrain d l) s = .next s) ∧
    (((s.dieOf d).linkctl.get l).getLsbD 30 = false → s.linkTrains d l = false → ∃ t, exec (.linkctlRetrain d l) s = .next t ∧
      t = { s with dies := t.dies } ∧ t.linkTrains d l = true ∧ t.linkIsUp d l = s.linkIsUp d l ∧ field t 29 26 = 0 ∧
      field t 25 16 = bits w 25 16 ∧ field t 15 8 = (bits w 15 8 + 1) % 256 ∧ field t 7 0 = bits w 7 0) ∧
    (bitOf v 30 = false → exec (.linkctlDisable d l v) s = .next ctl) ∧
    (bitOf v 30 = true → ∃ t, exec (.linkctlDisable d l v) s = .next t ∧ t.linkIsUp d l = false ∧ t.linkTrains d l = false ∧
      (s.linkBuf d l = [] → s.linkIsUp d l = false → t = ((ctl.setLink d l 31 30 0).modDie d fun x => { x with linkTx := x.linkTx.del l }))) ∧
    (s.linkTrains d l = false → exec (.linkTrainingEnd d l fail) s = .next s) ∧
    (s.linkTrains d l = true → ∃ t, exec (.linkTrainingEnd d l fail) s = .next t ∧ t.linkTrains d l = false ∧ field t 25 18 = bad ∧
      (t.linkIsUp d l = true ↔ if 4 ≤ l then bad = 0 else (bad = 0 ∧ r < 2) ∨ low ∨ high) ∧
      field t 29 28 = (if l < 4 ∧ bad = 0 ∧ r < 2 then r + 1 else r) ∧
      field t 27 26 = if low then 2 else if high then 1 else wd))

/-- R4, R371 to R375, R385, R437: a message for another module is forwarded; one that an import entry admits is performed and answered, or waits, or
is turned away by Retry; one that none admits is refused. An expander has no port on which one comes. -/
def Claims.RemoteHome : Prop :=
  ∀ (s : State) (m : RemoteMsg),
    let pa := m.offset
    let n := reqBytes m.op
    (s.isExpander = true → exec (.remoteMessage m) s = .next s) ∧ (s.isExpander = false →
    let answers := fun (t : State) (a : RemoteResp) => exec (.remoteMessage m) s = .next (t.answerTo pa m.srcModule (.answer m.id a))
    (∀ p, m.dest ≠ s.fab 0x18 2 → s.routePort (2 ^ 50 + m.dest * 2 ^ 40 + pa) = some p →
      exec (.remoteMessage m) s = .next ((s.emit (.forward m p)).flitsTo (2 ^ 50 + m.dest * 2 ^ 40 + pa) (messageBytes m))) ∧
    (m.dest = s.fab 0x18 2 →
      (s.admits m = none → answers s .refused) ∧
      ∀ i, s.admits m = some i →
        let a := s.fab 8 8 + 32 * i
        let fn := s.rdNum (a + 0x13) 1
        let quiet := ((s.dieOf (pa / 2 ^ 37)).migctl.get fn).getLsbD 0
        let r : HeldReq := { pa := pa, op := m.op, who := .msg m.id m.srcModule, fn := fn }
        let full := State.reqFlag m.op = 2 ∧ s.heldPage pa = true ∧ 64 ≤ s.holdCount pa
        let c := s.countMsg pa fn true
        let done := fun (t : State) (bs : List Byte) => answers (t.countMsg pa fn false) (.done bs)
        (bitOf (s.rdNum (a + 0x14) 1) 0 = true ∧ s.rdNum (a + 0x10) 2 = m.srcModule ∧ s.rdNum (a + 0x12) 1 = m.partition ∧
          bitOf (s.rdNum (a + 0x14) 1) (State.reqFlag m.op) = true ∧ s.rdNum a 8 ≤ pa ∧ pa + n ≤ s.rdNum a 8 + s.rdNum (a + 8) 8) ∧
        (quiet = true ∨ full → exec (.remoteMessage m) s = .next (s.answerTo pa m.srcModule (.retry m.id))) ∧
        (quiet = false → ¬full → s.hasAhead r = true → exec (.remoteMessage m) s = .next (c.waitBehind r)) ∧
        (quiet = false → s.hasAhead r = false →
          (State.reqWrites m.op = true → s.heldPage pa = true → ¬full → exec (.remoteMessage m) s = .next (c.holdReq r)) ∧
          (s.chanBusy pa = false → (State.reqWrites m.op = true → s.canWrite pa = true) →
            (State.reqReads m.op = true → s.poisoned pa n = true → answers (c.countMsg pa fn false) .poisoned) ∧
            (m.op = .read n → s.poisoned pa n = false → done c (s.rd pa n)) ∧
            (∀ bs, m.op = .write bs → done (c.wr fn pa bs) []) ∧
            (∀ l, m.op = .runs l → done (l.foldl (fun t x => t.wr fn (pa + x.1) x.2) c) []) ∧
            (∀ o k v w, m.op = .atomic o k v w → s.poisoned pa n = false →
              let x := s.rdNum pa k
              done (c.wr fn pa (toBytes k (atomNew o (8 * k) x (if o = .cas then w else v) v))) (toBytes k x)) ∧
            (∀ fl k vs, m.op = .addList fl k vs → s.poisoned pa n = false →
              let x := s.rdNum pa k
              done (c.wr fn pa (toBytes k (State.rmwAll (if fl then .fadd else .add) (8 * k) x vs))) (toBytes k x))))))

/-- R373 to R377, R385, R438: what an answer, a Retry or a missing answer does to the access that sent the message. A poisoned answer parks the
split of the access, or, where it is parked already, waits for that to be resolved (DEDUCED, log 82). -/
def Claims.RemoteSource : Prop :=
  ∀ (s : State) (id : Nat) (bs : List Byte),
    let r := s.remoteOf id
    let live := s.remotes.has id = true ∧ r.retried = false ∧ r.behind = false ∧ s.accessParked id = false
    let port := (s.routePort r.pa).getD 0
    let u := s.closeRemote id
    ((∀ e ∈ s.remotes, e.2.behind = false) → u = { s with remotes := s.remotes.del id }) ∧
    (¬live → (∀ a, exec (.remoteResponse id a) s = .next s) ∧ exec (.remoteTimeout id) s = .next s) ∧
    (live → r.far = true → exec (.remoteResponse id (.done bs)) s = .next ((u.farEnd id 0 bs).recordWritten r.who) ∧
      exec (.remoteResponse id .refused) s = .next ((u.farEnd id 6 []).recordFails r.who) ∧
      exec (.remoteResponse id .poisoned) s = .next ((u.farEnd id 7 []).recordFails r.who)) ∧
    (∀ t : State, (∀ f d i, r.who ≠ .record f d i) → t.recordWritten r.who = t ∧ t.recordFails r.who = t) ∧
    (live → r.far = false → s.hasGroup r.blk r.grp = true →
      (∀ o, r.op = some o → s.ops.has o = true →
        let x := s.opOf o
        let fails := fun (code : Nat) (info : DWord) => ({ u with ops := s.ops.set o (State.lowerFail { x with remote := x.remote - 1 } r.lane code info) } : State)
        exec (.remoteResponse id (.done bs)) s = .next { u with ops := s.ops.set o (({ x with remote := x.remote - 1 } : Op).result r.lane r.regs bs) } ∧
        exec (.remoteResponse id .refused) s = .next (fails 0x06 (infoAt r.va r.lane)) ∧
        exec (.remoteResponse id (.unsupported false)) s = .next (fails 0x12 (infoAt r.va r.lane)) ∧
        (s.linkTrains (port / 4) (port % 4) = false → exec (.remoteTimeout id) s = .next (fails 0x13 (infoAt r.va r.lane)))) ∧
      (∀ e, r.op = none → r.sb = some e →
        exec (.remoteResponse id (.done bs)) s = .next (u.endWrite r.blk r.grp id none) ∧
        exec (.remoteResponse id .refused) s = .next (u.endWrite r.blk r.grp id (some (r.lane, 0x06, infoAt r.va r.lane)))) ∧
      (∀ q, r.op = none → r.sb = none → r.engine = some q → exec (.remoteResponse id (.done bs)) s = .next
        (u.modCmd r.blk r.grp q fun c => if c.asked.contains (r.regs.headD 0) then { c with got := c.got.set (r.regs.headD 0) bs } else c)) ∧
      (r.engine = none → r.op ≠ none ∨ r.sb ≠ none →
        let x := s.splOf r.blk r.grp (s.splitOf r)
        (∀ k, x.status = .parked k → exec (.remoteResponse id .poisoned) s = .next { s with remotes := s.remotes.set id { r with poisoned := true } }) ∧
        ((∀ k, x.status ≠ .parked k) → ∃ p t, exec (.remoteResponse id .poisoned) s = .next t ∧ p = s.nextId ∧ (t.parkOf p).who = .access id ∧
          (t.parkOf p).poison = true ∧ (t.parkOf p).va = r.va ∧
          (x.status ≠ .empty → t.splOf r.blk r.grp (s.splitOf r) = { x with status := .parked p })))) ∧
    (s.remotes.has id = true → r.behind = false →
      exec (.remoteRetry id) s = .next { s with remotes := s.remotes.set id { r with retried := true } }) ∧
    (s.remotes.has id = false → exec (.remoteRetry id) s = .next s ∧ exec (.remoteResend id) s = .next s) ∧
    (s.remotes.has id = true → r.retried = false → exec (.remoteResend id) s = .next s) ∧
    (r.far = false → (s.blkOf r.blk).life = .saved → exec (.remoteResend id) s = .next s) ∧
    (s.remotes.has id = true → r.retried = true → r.far = true ∨ (s.blkOf r.blk).life ≠ .saved →
      (r.stale = false → exec (.remoteResend id) s =
        .next (({ s with remotes := s.remotes.set id { r with retried := false } } : State).sendMsg id r.pa r.fn r.req)) ∧
      (∀ t, r.stale = true → r.engine = none → r.far = false → s.hasGroup r.blk r.grp = true →
        s.tlbHit r.die (some (s.blkOf r.blk).core) r.fn r.ctx r.va (State.reqAcc r) = some t →
        ((State.reqAcc r).writes = true → t.writable = true) →
        let reach := s.reachPa r.fn (t.pa + r.va % t.size) (reqBytes r.req) (State.reqReads r.req)
        (∀ pa, reach = .remote pa → (∀ e ∈ s.remotes, e.2.behind = true → State.sameLine r e.2 = false) →
          let x : Remote := { r with pa := pa, retried := false, stale := false, behind := s.lineBusy { r with pa := pa } id }
          let v : State := { s with remotes := s.remotes.set id x }
          exec (.remoteResend id) s = .next (if x.behind then v else v.sendMsg id pa r.fn r.req)) ∧
        (∀ pa, reach = .ok pa → exec (.remoteResend id) s = .next (u.runHeld { pa := pa, op := r.req, who := State.askerOf r id, fn := r.fn }))))

/-- The accesses of other modules and to them. -/
def Obligations.RemoteModules : Prop := Claims.RemoteHome ∧ Claims.RemoteSource

/-- R378 to R380, R382: the exposed range of the host port, its coherence, and the aperture of a function. An inbound access comes behind the inbound
writes that wait. A host write marks no function's bitmap (DEDUCED, log 48), and an aperture that is off answers as an address outside it does
(DEDUCED, log 18). -/
def Claims.HostPort : Prop :=
  ∀ (s : State) (addr n line v d : Nat) (bs : List Byte),
    let size := bits s.hdmcfg.toNat 25 16 * 2 ^ 30
    let inside := fun (k : Nat) => 2 ^ 39 ≤ addr ∧ addr - 2 ^ 39 + k ≤ size
    let pa := bits s.hdmcfg.toNat 9 0 * 2 ^ 30 + (addr - 2 ^ 39)
    (¬inside bs.length → State.pageOf addr = none → exec (.hostInboundWrite addr bs) s = .next s) ∧
    (inside bs.length → 0 < bs.length → bs.length ≤ 128 - pa % 128 →
      let r : HeldReq := { pa := pa, op := .write bs, who := .inbound, fn := 64 }
      s.hasAhead r = false →
      (s.heldPage pa = true → exec (.hostInboundWrite addr bs) s = .next (s.holdReq r)) ∧
      (s.heldPage pa = false → s.chanBusy pa = false → exec (.hostInboundWrite addr bs) s = .next ((s.wr 64 pa bs).reEnable pa bs.length))) ∧
    (∀ fn die off, ¬inside bs.length → State.pageOf addr = some (fn, die, off) → s.inboundWaits = false →
      exec (.hostInboundWrite addr bs) s = .next (s.writePage fn die off bs)) ∧
    (s.cxl = true ↔ s.isExpander = true ∨ Config.cxl = true) ∧
    ((∀ f ∈ s.fns, ∀ c ∈ f.2.ctxs, c.2.torn = false) → s.reEnable pa n = s) ∧
    (s.inboundWaits = true ∨ (inside n ∧ ∃ l ∈ State.linesOf pa n, s.chanBusy (128 * l) = true) →
      ∃ t, exec (.hostInboundRead addr n) s = .next t ∧ t.farAsk ≠ none) ∧
    (s.inboundWaits = false → inside n → (∀ l ∈ State.linesOf pa n, s.chanBusy (128 * l) = false) → ∃ t, exec (.hostInboundRead addr n) s = .next t ∧ t = { s with hostShared := t.hostShared, outbox := t.outbox } ∧
      t.outbox = s.outbox ++ [.hostRead addr n (s.rd pa n) (if s.poisoned pa n then 3 else 0)] ∧
      ∀ l, l ∈ t.hostShared ↔ l ∈ s.hostShared ∨
        (s.cxl = true ∧ 0 < n ∧ pa / 128 ≤ l ∧ 128 * l < pa + n ∧ s.heldPage (128 * l) = false)) ∧
    (s.inboundWaits = false → ¬inside n → 2 ^ 26 ≤ addr → State.pageOf addr = none → exec (.hostInboundRead addr n) s = .next (s.emit (.hostRead addr n [] 1))) ∧
    (∀ fn die off, s.inboundWaits = false → ¬inside n → State.pageOf addr = some (fn, die, off) → exec (.hostInboundRead addr n) s =
      .next (s.emit (.hostRead addr n ((List.range n).map fun i => s.readByte (State.pageReg fn die (off + i))) 0))) ∧
    (s.inboundWaits = false → ¬inside n → addr < 2 ^ 26 → State.pageOf addr = none → exec (.hostInboundRead addr n) s =
      .next (s.emit (.hostRead addr n ((List.range n).map fun i => s.readByte (Config.barByte (addr + i))) 0))) ∧
    (v % 4 = 3 → exec (.portcfgWrite d v) s = .next s) ∧
    (v % 4 ≠ 3 → exec (.portcfgWrite d v) s =
      .next (s.modDie d fun x => { x with portcfg := (x.portcfg &&& 0xFFFFFFFC) ||| BitVec.ofNat 32 (v % 4) })) ∧
    (bits v 25 16 + bits v 9 0 ≤ 512 → exec (.hdmcfgWrite v) s = .next { s with hdmcfg := BitVec.ofNat 32 v &&& 0x03FF03FF }) ∧
    (512 < bits v 25 16 + bits v 9 0 → exec (.hdmcfgWrite v) s = .next s) ∧
    (line ∉ s.snoops → exec (.backInvalidationSnoopResponse line) s = .next s) ∧
    (line ∈ s.snoops → exec (.backInvalidationSnoopResponse line) s =
      .next ({ s with snoops := s.snoops.filter (· != line), hostShared := s.hostShared.filter (· != line) } : State).settleHeld) ∧
    (s.snoopHeld = [] → s.settleHeld = s) ∧
    exec (.backInvalidationFromExpander line) s = .next (s.emit (.snoopDone line)) ∧
    ∀ fn off,
      let f := s.fnBlock fn 0
      let va := f.apBase + off
      let k := bs.length
      let on := f.apFlags.getLsbD 0 = true ∧ off + k ≤ 2 ^ 36
      (∀ e, e < (if s.isExpander then 1 else 4) → (s.fnBlock fn e).apBase = f.apBase ∧ (s.fnBlock fn e).apCtx = f.apCtx ∧
        (s.fnBlock fn e).apFlags = f.apFlags) →
      (¬on → exec (.peerApertureAccess fn off true bs) s = .next s ∧
        exec (.peerApertureAccess fn off false bs) s = .next (s.emit (.hostRead va k [] 1))) ∧
      (on → f.apFlags.getLsbD 1 = false → exec (.peerApertureAccess fn off true bs) s = .next (s.event fn 0 0x0A 0 0 0 0 va 0)) ∧
      (∀ p, on → 0 < k → s.inboundWaits = false → DevHits s 0 fn f.apCtx .read k va p → p % 128 + k ≤ 128 →
        exec (.peerApertureAccess fn off false bs) s = .next (s.emit (.hostRead va k (s.rd p k) 0))) ∧
      (∀ p, on → 0 < k → f.apFlags.getLsbD 1 = true → DevHits s 0 fn f.apCtx .write k va p → s.canWrite p = true →
        s.hasAhead { pa := p, op := .write bs, who := .inbound, fn := fn } = false →
        exec (.peerApertureAccess fn off true bs) s = .next ((s.wr fn p bs).reEnable p k))

/-- R383, R384, R386, R389: revoking an extent drops its translations and, once nothing uses it, ends its grant; Viral and the loss of an
expander mark its extents failed. The block that takes a context's ViralContainment is its first running one, at its first group, or the one
resumed first (DESIGN CHOICE, log 47, 93); numbers from 8 on stand for an extent that management software releases by force (DESIGN CHOICE, log
87). -/
def Claims.Expanders : Prop :=
  ∀ (s : State) (i x : Nat),
    let stored := fun k => s.canWrite (s.extentAddr k + 0x12) = true ∧ s.rangeOf (s.extentAddr k + 0x12) ≠ .host ∧ NoDirtyLog s 64
    (1024 ≤ i → exec (.extentRevoke i) s = .next s) ∧
    (i < 1024 → stored i → (∀ y ∈ s.allGroups, (s.grpOf y.1 y.2).sb = []) → s.heldReqs = [] → ∃ t, exec (.extentRevoke i) s = .next t ∧ t.extentState i = 0 ∧
      i ∉ t.revoking ∧ t = { s with mem := t.mem, cores := t.cores, l2tlb := t.l2tlb, revoking := t.revoking } ∧
      (∀ a, a ≠ s.extentAddr i + 0x12 → t.byteAt a = s.byteAt a) ∧
      ∀ d c, (t.coreOf d c).tlb = (s.coreOf d c).tlb.filter fun y =>
        !(decide (y.pa < s.extentBase i + s.extentLen i) && decide (s.extentBase i < y.pa + y.size))) ∧
    (s.extentsOf x = [] → exec (.expanderViral x) s = .next s) ∧
    (∀ b y, s.extentsOf x = [i] → (b, y) ∈ s.blocks → s.blkOf b = y → (s.gridOf y.grid).fn = s.extentFn i → (s.gridOf y.grid).ctx < 64 →
      (∀ e ∈ s.blocks, (s.gridOf e.2.grid).fn = s.extentFn i → e = (b, y)) →
      (∀ g rest, y.life = .running → y.groups.find? (fun z => !z.2.ended) = some (g, rest) →
        exec (.expanderViral x) s = .next ((s.setExtent i 3).addFail b g { code := 0x15, info := 0, stream := false })) ∧
      (y.life = .saved → exec (.expanderViral x) s =
        .next ((s.setExtent i 3).modCtx (s.extentFn i) (s.gridOf y.grid).ctx fun c => { c with viral := true }))) ∧
    exec .upstreamViral s = .next { s with upViral := true } ∧
    (8 ≤ x → exec (.expanderLost x) s = .next (if x - 8 < 1024 then s.setExtent (x - 8) 3 else s)) ∧
    (x < 8 → (∀ t ∈ s.tasks, t.expander ≠ x) → (∀ k ∈ s.extentsOf x, stored k) → ∃ t, exec (.expanderLost x) s = .next t ∧ t = { s with mem := t.mem } ∧
      (∀ k ∈ s.extentsOf x, t.extentState k = 3) ∧ ∀ a, (∀ k ∈ s.extentsOf x, a ≠ s.extentAddr k + 0x12) → t.byteAt a = s.byteAt a)

/-- The host port and the expander links. -/
def Obligations.HostAndExpanders : Prop := Claims.HostPort ∧ Claims.Expanders

/-- R87, R388, R389: tasks are sent under an open session of the queue's own context, checked and launched by the expander, and returned. -/
def Claims.Tasks : Prop :=
  (∀ (s u : State) (d l q : Nat) (b : List Byte), Serves s d l q b u → pkType b = 0xA →
    let x := u.queueOf q
    (u.sessionOf (pk b 4 2) (pk b 0x10 4) false = none → Makes (.taskPacket d l) s (.queue q) (u.queueErr q 0x0F 1)) ∧
    (∀ k, u.sessionOf (pk b 4 2) (pk b 0x10 4) false = some k →
      (k.fn ≠ x.fn ∨ k.ctx ≠ x.ctx → Makes (.taskPacket d l) s (.queue q) (u.queueErr q 0x0F 1)) ∧
      (k.fn = x.fn → k.ctx = x.ctx → ∃ a : BitVec 3,
        let w := ({ u with tick := u.tick + 1 } : State).emit (.task k.expander (b.take 0xE0 ++ State.taskTag k (b.take 0xE0)))
        let p : Pkt := { die := d, queue := q % 1024, slot := State.errorSlot x, kind := 0xA }
        let t : TaskOut := { pkt := u.nextId, expander := k.expander, session := k.id, seq := pk b 8 8 }
        Makes (.taskPacket d l) s (.queue q) (if a ≠ 0 then w.queueErr q 0x0F a.toNat
          else ({ w with nextId := u.nextId + 1, pkts := u.pkts.set u.nextId p, tasks := u.tasks ++ [t] } : State).passPacket d l q 4)))) ∧
  ∀ (s : State) (sender session seq status : Nat) (tag b : List Byte),
    (∀ t k, s.tasks.find? (fun t => t.session == session && t.seq == seq) = some t → s.sessionOf t.expander session false = some k →
      exec (.taskReturn session seq status tag) s =
        .next (if tag = State.doneTag k seq status then { s with tasks := s.tasks.erase t, pkts := s.pkts.del t.pkt } else s)) ∧
    ((∀ t ∈ s.tasks, t.session ≠ session ∨ t.seq ≠ seq) → exec (.taskReturn session seq status tag) s = .next s) ∧
    (s.isExpander = false ∨ s.fullOn 0 = true → exec (.taskReceive sender b) s = .next s) ∧
    (s.isExpander = true → s.fullOn 0 = false →
      let answer := fun (t : State) (r : Nat) => t.emit (.task sender (State.returnBytes (pk b 0x10 4) (pk b 8 8) r))
      (exec (.taskReceive sender b) s = .next (match s.taskCheck sender b with
        | (u, .error r) => answer u r
        | (u, .ok (k, g)) =>
          let y : Session := { k with lastSeq := pk b 8 8, tasks := k.tasks + 1 }
          let z : Grid := { g with order := u.nextId }
          answer { u with nextId := u.nextId + 1, sessions := u.sessions.map (fun x => if x = k then y else x),
                          grids := u.grids.set u.nextId z } 0)) ∧
      (s.sessionOf sender (pk b 0x10 4) true = none → s.taskCheck sender b = (s, .error 1)) ∧
      (∀ k, s.sessionOf sender (pk b 0x10 4) true = some k →
        (pk b 8 8 ≤ k.lastSeq → s.taskCheck sender b =
          (s, .error (if (b.drop 0xE0).take 32 = State.taskTag k (b.take 0xE0) then 3 else 2)))) ∧
      (match (s.taskCheck sender b).2 with
        | .error r => 1 ≤ r ∧ r ≤ 7
        | .ok (k, g) => s.sessionOf sender (pk b 0x10 4) true = some k ∧ g.fn = k.fn ∧ g.ctx = k.ctx ∧ g.depth = 0 ∧ k.tasks < 256 ∧
            k.lastSeq < pk b 8 8))

/-- R387, R447, R448: the mailbox: reports, certificates, and the opening and closing of task sessions by the PF; the response, then the completion
word, are written in context 0 of the function (DEDUCED, log 15). A command that comes while another of the function is outstanding is refused. The
measurement of the other side's report is its firmware digest, and the compute module's report and key stand first in the transcript (log 89). -/
def Claims.Mailbox : Prop :=
  ∀ (s : State) (fn d req resp comp pa : Nat),
    let none_ := s.mailEnd fn d resp comp none
    (∀ bs pr pc, DevHits s d fn 0 .write bs.length resp pr → s.canWrite pr = true → 0 < bs.length →
      let u := s.wr fn pr bs
      DevHits u d fn 0 .write 8 comp pc → u.canWrite pc = true → s.mailEnd fn d resp comp (some bs) = u.wr fn pc (toBytes 8 1)) ∧
    (∀ pc, DevHits s d fn 0 .write 8 comp pc → s.canWrite pc = true → none_ = s.wr fn pc (toBytes 8 0xFFFFFFFFFFFFFFFF)) ∧
    (∀ x, (s.fnBlock fn d).mail = some x → (x ≠ (1, req, resp, comp) → exec (.report fn d req resp comp) s = .next none_) ∧
      (x ≠ (4, req, resp, comp) → exec (.readCertificate fn d req resp comp) s = .next none_)) ∧
    ((s.fnBlock fn d).mail = none →
    (comp % 8 ≠ 0 → exec (.report fn d req resp comp) s = .next none_ ∧ exec (.readCertificate fn d req resp comp) s = .next none_) ∧
    (comp % 8 = 0 → exec (.readCertificate fn d req resp comp) s = .next (s.mailEnd fn d resp comp (some ((Config.certificate d).take 2048)))) ∧
    (comp % 8 = 0 → DevHits s d fn 0 .read 64 req pa → ∃ r, exec (.report fn d req resp comp) s = .next (s.mailEnd fn d resp comp (some r)) ∧
      r.length = 400 ∧ r.take 4 = toBytes 4 0x52505746 ∧ r[6]? = some (BitVec.ofNat 8 d) ∧ r[7]? = some (BitVec.ofNat 8 fn) ∧
      (r.drop 144).take 64 = s.rd pa 64 ∧
      (r.drop 272).take 114 = (Config.ed448 d (r.take 272) ++ toBytes 114 0).take 114) ∧
    (fn ≠ 0 → exec (.openTaskSession fn d req resp comp) s = .next none_ ∧ exec (.closeTaskSession fn d req resp comp) s = .next none_) ∧
    (fn = 0 → comp % 8 = 0 → DevHits s d 0 0 .read 4 req pa →
      let id := s.rdNum pa 4
      ((∀ k ∈ s.sessions, k.id = id → k.open_ = false) → exec (.closeTaskSession fn d req resp comp) s = .next none_) ∧
      ((∃ k ∈ s.sessions, k.id = id ∧ k.open_ = true) → (∀ t ∈ s.tasks, t.session ≠ id) → exec (.closeTaskSession fn d req resp comp) s =
        .next (({ s with sessions := s.sessions.filter fun k => k.id != id } : State).mailEnd fn d resp comp (some [])))) ∧
    (∀ pn pk_, fn = 0 → comp % 8 = 0 → DevHits s d 0 0 .read 16 req pa →
      let f := fun off n => s.rdNum (pa + off) n
      let n := s.rdNum pn 4
      let u := { s with tick := s.tick + 1 }
      let r := Config.peerReport s.tick
      let peer := (r.drop 0xD0).take 57
      let own := Config.x448Public (Config.ownSecret s.tick)
      let sent := ((u.emit (.exchange (f 0 2) (Config.ownNonce s.tick))).emit (.exchange (f 0 2) (reportBytes s d 0 (Config.peerNonce s.tick)))).emit
        (.exchange (f 0 2) (own ++ (Config.ed448 d own ++ toBytes 114 0).take 114))
      let may := (r.drop 0x90).take 64 = (Config.ownNonce s.tick ++ toBytes 64 0).take 64 ∧
        Config.ed448Verifies peer ((r.drop 0x110).take 114) (r.take 0x110) = true ∧
        Config.ed448Verifies peer (Config.peerKeySig s.tick) (Config.peerKey s.tick) = true ∧ Config.peerAccepts s.tick = true ∧
        ∃ i, i < n ∧ s.rd (pk_ + 64 * i) 64 = (r.drop 0x10).take 64
      DevHits s d 0 0 .read 4 (f 8 8) pn → (0 < n → DevHits s d 0 0 .read (64 * n) (f 8 8 + 4) pk_) →
      f 5 1 ≤ 63 → f 4 1 ≤ 63 → f 2 2 ≤ 63 → f 6 2 ≤ 63 →
      (s.sessions.filter fun k => k.expander == f 0 2 && k.open_).length < 256 →
      (¬may → exec (.openTaskSession fn d req resp comp) s = .next (sent.mailEnd fn d resp comp none)) ∧
      (may → ∃ k : Session, exec (.openTaskSession fn d req resp comp) s =
          .next (({ sent with sessions := s.sessions ++ [k] } : State).mailEnd fn d resp comp (some (toBytes 4 k.id))) ∧
        k.id ≠ 0 ∧ k.id < 2 ^ 32 ∧ k.expander = f 0 2 ∧ k.open_ = true ∧ k.tasks = 0 ∧ k.lastSeq = 0 ∧ k.remoteSide = s.isExpander ∧
        k.key = Config.kmac256 (Config.x448 (Config.ownSecret s.tick) (Config.peerKey s.tick)) (transcript s d s.tick) 32 (ascii "RMS-PW4 task key") ∧
        (s.isExpander = false → k.fn = f 5 1 ∧ k.ctx = f 2 2) ∧ (s.isExpander = true → k.fn = f 4 1 ∧ k.ctx = f 6 2))))

/-- Tasks, and the function's mailbox. -/
def Obligations.TasksAndMailbox : Prop := Claims.Tasks ∧ Claims.Mailbox

/-- R85, R440, R441, R442: a drained block retires; a grid whose blocks and children have retired, and whose blocks' writes have all been performed,
signals its completion. The MMIO windows that were written are read before (R380, R397). -/
def Obligations.Retirement : Prop :=
  ∀ (s : State) (b g : Nat),
    let x := s.blkOf b
    let y := s.gridOf g
    let ready := s.grids.has g = true ∧ y.retired = false ∧ y.blocksLeft = 0 ∧ y.children = 0 ∧ s.slotsRead g = true ∧ s.gridWrites g = false
    (s.drained b = true → x.life = .running ∧ (x.hasMs = true → x.ms.ended = true) ∧ ∀ z ∈ x.groups, z.2.ended = true ∧ z.2.sb = [] ∧ z.2.eng = []) ∧
    (s.drained b = false → exec (.blockRetire b) s = .next s) ∧
    (s.drained b = true → x.writing = [] → (s.fnOf (s.gridOf x.grid).fn).profile.get 0 x.die = 0 → ∃ t, exec (.blockRetire b) s = .next t ∧
      (t.blkOf b).life = .retired ∧ (t.blkOf b).groups = [] ∧ (∀ k, k ≠ b → t.blkOf k = s.blkOf k) ∧ t.mem = s.mem ∧
      (∀ k z, x.groups = [(k, z)] → s.remotes = [] →
        t.outbox = s.outbox ++ z.mmioDirty.map fun n => Out.hostRead (s.fab (0xC0 + 16 * n) 8) 0 [] 0) ∧
      ∀ k, t.gridOf k = if k = x.grid then { s.gridOf k with blocksLeft := (s.gridOf k).blocksLeft - 1, mmio := (t.gridOf k).mmio }
        else s.gridOf k) ∧
    (y.qsubs = [] ∨ y.failed = true → s.slotsRead g = true) ∧
    (¬ready → exec (.gridRetire g) s = .next s) ∧
    (ready → y.expander = none → s.gangs = [] → (∀ z ∈ s.far, z.who ≠ .grid g) →
      let v : State := { s with outbox := s.outbox ++ y.mmio.map fun n => Out.hostRead (s.fab (0xC0 + 16 * n) 8) 0 [] 0 }
      let ends := fun (u : State) => ∃ t, exec (.gridRetire g) s = .next t ∧ t = { u with grids := t.grids, pkts := u.pkts.del y.packet } ∧
        (y.parent = none → ∀ k, t.gridOf k = if k = g then { y with retired := true, mmio := [] } else u.gridOf k) ∧
        (∀ p, y.parent = some p → p ≠ g → ∀ k, t.gridOf k = if k = g then { y with retired := true, mmio := [] }
          else if k = p then { u.gridOf p with children := (u.gridOf p).children - 1 } else u.gridOf k)
      (y.signal = 0 → ends v) ∧
      (∀ pa, y.signal ≠ 0 → DevHits s y.die y.fn y.ctx .write 8 y.signal pa → s.canWrite pa = true → s.poisoned pa 8 = false →
        ends (v.wr y.fn pa (toBytes 8 y.signalValue.toNat))))

/-- R416, R417, R420, R422 to R425, R429 to R431: errors of a block, deaths of lanes, pre-emption, and the writing of a restart record. -/
def Obligations.Interruption : Prop :=
  ∀ (s : State) (b g what pc : Nat) (lanes : LaneMask) (k : PreemptCause),
    let x := s.blkOf b
    let gr := s.gridOf x.grid
    let y := s.grpOf b g
    let new := lanes &&& y.capable &&& ~~~y.dead
    let dying := s.modGrp b g fun z => { z with dead := z.dead ||| new, absent := z.absent ||| (lanes &&& z.helpers) }
    (x.life ≠ .running → exec (.blockError b what) s = .next s ∧ exec (.laneDeath b g lanes pc) s = .next s) ∧
    (x.life = .running → 1 ≤ what → what ≤ 5 →
      (gr.restartable = true → exec (.blockError b what) s = .next (s.rollBack b 3 (BitVec.ofNat 64 what))) ∧
      (gr.restartable = false → exec (.blockError b what) s = .next (s.failBlock b 0x07 (BitVec.ofNat 64 what) what))) ∧
    (x.life = .running → new = 0 → exec (.laneDeath b g lanes pc) s = .next dying) ∧
    (x.life = .running → new ≠ 0 → y.fails = [] →
      let m := y.dead ||| new
      let u := dying.event gr.fn x.die 0x0D x.core y.gid ((lanesOf new).headD 0) gr.fn
        ((maskWord m 0).toNat + (maskWord m 1).toNat * 2 ^ 32) (gr.ctx + (maskWord m 2).toNat * 2 ^ 16)
      let info := BitVec.ofNat 64 ((lanesOf new).headD 0 + (lanesOf new).length % 128 * 2 ^ 8 + pc % 2 ^ 24 * 2 ^ 32)
      let f : Failure := { code := 0x08, info := info, stream := false }
      exec (.laneDeath b g lanes pc) s =
        .next (if gr.trapEntry.isSome ∧ y.ended = false then u.modGrp b g fun z => { z with fails := [f] } else u)) ∧
    (State.resident x = false ∨ x.preempt ≠ some k → exec (.preemptRequest b k) s = .next s) ∧
    (State.resident x = true → x.preempt = some k →
      let drain := k == .contextSave && s.drains gr.fn gr.ctx
      (k = .contextSave → s.draining gr.fn gr.ctx = true → exec (.preemptRequest b k) s = .next s) ∧
      ((∃ m ∈ s.spanMates b, s.canHalt m drain = false) → exec (.preemptRequest b k) s = .next s) ∧
      (s.spanMates b = [b] → s.canHalt b drain = true → (k = .contextSave → s.draining gr.fn gr.ctx = false) →
        let u := s.stopLoft b
        let v := u.drainAll b
        let area := if k = .gangHold then 1 <<< (u.blkOf b).die else 0
        (u.loftRuns b = true → exec (.preemptRequest b k) s = .next u) ∧
        (u.loftRuns b = false → gr.restartable = true →
          ((∀ z ∈ (v.blkOf b).groups, z.2.sb = []) → exec (.preemptRequest b k) s = .next ((v.haltBlock b).rollBack b (State.causeOf k) 0)) ∧
          ((∃ z ∈ (v.blkOf b).groups, z.2.sb ≠ []) → exec (.preemptRequest b k) s = .next v)) ∧
        (u.loftRuns b = false → gr.restartable = false →
          (∀ t, u.saveBlock b (State.causeOf k) area = some t → exec (.preemptRequest b k) s = .next t) ∧
          (u.saveBlock b (State.causeOf k) area = none → k = .gangHold →
            exec (.preemptRequest b k) s = .next ((u.reissueLoft b).modBlk b fun z => { z with preempt := none }))))) ∧
    (∀ (cause : Nat) (area : BitVec 4),
      let n := s.saveBytes b / 4096
      ((∃ p ∈ s.freePages gr.fn gr.ctx n, s.areaPages gr.fn gr.ctx ≤ p) → s.saveBlock b cause area = none) ∧
      ∀ t, s.saveBlock b cause area = some t → (t.blkOf b).life = .saved ∧ (t.blkOf b).cause = cause ∧ (t.blkOf b).resumeOn = area ∧
        (t.blkOf b).preempt = none ∧ (t.blkOf b).pages = s.freePages gr.fn gr.ctx n) ∧
    (x.writing = [] → exec (.restartRecordWrite b) s = .next s) ∧
    (∀ n body rest pa, x.writing = (n, body) :: rest →
      let ws := State.copyWords gr.copyBytes n (x.recGen + 1) body
      let a := gr.restartRec + x.lin * gr.restartBytes + (x.recGen + 1) % 2 * gr.copyBytes
      ws.length = gr.copyBytes / 4 → gr.copyBytes % 4 = 0 → DevHits s x.die gr.fn gr.ctx .write gr.copyBytes a pa → 0 < gr.copyBytes →
      s.canWrite pa = true → s.poisoned pa gr.copyBytes = false →
      exec (.restartRecordWrite b) s = .next ((s.wr gr.fn pa (ws.flatMap fun w => toBytes 4 w.toNat)).modBlk b fun z =>
        { z with writing := rest, recN := n, recGen := x.recGen + 1, rollbacks := 0, recHas := true }))

/-- R89, R418, R424, R427, R436: the commands of a context, which end with a completion word in that context (DEDUCED, log 15), and its state word. A
resume takes up what waits here, or else what another module saved in the area. A context is torn down until the host enables it again (DESIGN
CHOICE, log 84). -/
def Claims.ContextCommands : Prop :=
  ∀ (s : State) (fn ctx mask comp pa : Nat) (drain : Bool),
    let few := (s.fnOf fn).ctxCmds.length < 8
    let takes := fun (op m : Nat) (dr : Bool) =>
      let c : CtxCmd := { op := op, ctx := ctx, mask := m, drain := dr, comp := comp, small := false }
      s.modFn fn fun f => { f with ctxCmds := f.ctxCmds ++ [c] }
    let no := fun (e : Instr) => DevHits s 0 fn (if ctx > 63 then 0 else ctx) .write 8 comp pa → s.canWrite pa = true →
      exec e s = .next (s.wr fn pa (toBytes 8 0xFFFFFFFFFFFFFFFF))
    let saved := fun (b : Block) => (b.life = .saved ∨ b.life = .rolledBack) ∧ ((s.ctxOf fn ctx).stat.getLsbD 2 = true ∨ b.resumeOn = 0)
    let m : BitVec 4 := (if mask = 0 then 15 else BitVec.ofNat 4 mask) &&& BitVec.ofNat 4 (2 ^ s.dieIds.length - 1)
    let d := (s.dieIds.find? fun d => m.getLsbD d).getD 0
    let mine := fun (b : Block) => (s.gridOf b.grid).fn = fn ∧ (s.gridOf b.grid).ctx = ctx
    (63 < ctx ∨ comp % 8 ≠ 0 ∨ ¬few → no (.contextSave fn ctx drain comp) ∧
      (s.hasSaved fn ctx = true ∨ 63 < ctx → no (.contextResume fn ctx mask comp)) ∧ no (.contextStop fn ctx comp) ∧ no (.contextStart fn ctx comp)) ∧
    (∀ u v, DevHits u 0 fn ctx .write 8 comp pa → u.canWrite pa = true → ctx ≤ 63 → u.complete fn ctx 0 comp v = u.wr fn pa (toBytes 8 v)) ∧
    (s.ctxHeld fn ctx = true → no (.contextSave fn ctx drain comp)) ∧
    (m = 0 ∧ s.hasSaved fn ctx = true ∨ s.hasSaved fn ctx = false ∧ s.areaPages fn ctx = 0 → no (.contextResume fn ctx mask comp)) ∧
    (ctx ≤ 63 → comp % 8 = 0 → few →
      (s.ctxHeld fn ctx = false → ∃ t small, exec (.contextSave fn ctx drain comp) s = .next t ∧
        t = { s with fns := t.fns, blocks := t.blocks } ∧ t.fns = (((takes 1 0 drain).statBit fn ctx 3 true).modFn fn fun f =>
          { f with ctxCmds := f.ctxCmds.map fun c => if c.op = 1 ∧ c.ctx = ctx then { c with small := small } else c }).fns ∧
        (small = false ↔ (s.usedPages fn ctx).length + (s.ctxGrids fn ctx).length ≤ s.areaPages fn ctx ∧
          ∀ e ∈ t.blocks, mine e.2 → State.resident e.2 = true → e.2.preempt ≠ none) ∧
        ∀ b, t.blkOf b = { s.blkOf b with preempt := (t.blkOf b).preempt } ∧
          (s.blocks.has b = true → State.resident (s.blkOf b) = true → mine (s.blkOf b) → (s.blkOf b).preempt = none →
            (s.gridOf (s.blkOf b).grid).restartable = true → (t.blkOf b).preempt = some .contextSave)) ∧
      (mask ≤ 15 → m ≠ 0 →
        (s.hasSaved fn ctx = true → exec (.contextResume fn ctx mask comp) s = .next ((takes 2 mask false).resumeWork fn ctx m)) ∧
        (∀ v, s.hasSaved fn ctx = false → (s.readWork fn ctx d).1 = v → v.fns = s.fns → v.dies = s.dies → exec (.contextResume fn ctx mask comp) s =
          .next (match (s.readWork fn ctx d).2 with
            | some w => (({ v with fns := (takes 2 mask false).fns } : State).adopt fn ctx d w).resumeWork fn ctx m
            | none => v.complete fn ctx 0 comp 0xFFFFFFFFFFFFFFFF)) ∧
        ((∀ g ∈ s.ctxGrids fn ctx, (s.gridOf g).pages = []) →
          let t := s.resumeWork fn ctx m
          t = { s with blocks := t.blocks, grids := t.grids } ∧
          ∀ b, s.blocks.has b = true → t.blkOf b = { s.blkOf b with resumeOn := (t.blkOf b).resumeOn } ∧
            (saved (s.blkOf b) → mine (s.blkOf b) → (t.blkOf b).resumeOn = m) ∧
            (¬(saved (s.blkOf b) ∧ mine (s.blkOf b)) → (t.blkOf b).resumeOn = (s.blkOf b).resumeOn))) ∧
      (s.ctxQueues fn ctx = [] → exec (.contextStop fn ctx comp) s = .next ((takes 3 0 false).statBit fn ctx 1 true) ∧
        exec (.contextStart fn ctx comp) s = .next ((takes 4 0 false).statBit fn ctx 1 false)) ∧
      (∀ q, s.ctxQueues fn ctx = [q] → (s.queueOf q).stopped = false → exec (.contextStop fn ctx comp) s =
        .next ((((takes 3 0 false).statBit fn ctx 1 true).modQueue q fun x => { x with cmdStopped := true }).stopQueue q))) ∧
    ((∀ c ∈ (s.fnOf fn).ctxCmds, c.ctx ≠ ctx) → exec (.contextCommandDone fn ctx) s = .next s) ∧
    (∀ c, (s.fnOf fn).ctxCmds.find? (fun c => c.ctx == ctx) = some c →
      let u := s.modFn fn fun f => { f with ctxCmds := f.ctxCmds.erase c }
      (s.cmdOver fn c = false → exec (.contextCommandDone fn ctx) s = .next (s.drainTurn fn c)) ∧
      (c.op ≠ 1 ∨ c.drain = false ∨ c.drained = true → s.drainTurn fn c = s) ∧
      (c.op = 1 → c.small = false → c.drain = false → (s.cmdOver fn c = true ↔ ∀ e ∈ s.blocks, mine e.2 → State.resident e.2 = false)) ∧
      (s.cmdOver fn c = true →
        let u₁ := u.statBit fn ctx 3 false
        (c.op = 1 → c.small = false → (∀ t, u₁.saveGrids fn ctx = some t →
            exec (.contextCommandDone fn ctx) s = .next ((t.statBit fn ctx 2 true).complete fn ctx 0 c.comp 1)) ∧
          (u₁.saveGrids fn ctx = none → exec (.contextCommandDone fn ctx) s = .next (u₁.complete fn ctx 0 c.comp 2))) ∧
        (c.op = 1 → c.small = true → exec (.contextCommandDone fn ctx) s = .next (u₁.complete fn ctx 0 c.comp 2)) ∧
        (c.op = 2 → exec (.contextCommandDone fn ctx) s = .next ((u.statBit fn ctx 2 false).complete fn ctx 0 c.comp 1)) ∧
        (c.op ≠ 1 → c.op ≠ 2 → exec (.contextCommandDone fn ctx) s = .next (u.complete fn ctx 0 c.comp 1)))) ∧
    (exec (.ctxstatClear fn ctx) s = .next (s.modCtx fn ctx fun c => { c with stat := c.stat &&& 0xE })) ∧
    (s.ctxGrids fn ctx = [] → s.cells = [] → ∃ t, exec (.contextTeardown fn ctx) s = .next t ∧ (t.ctxOf fn ctx).torn = true ∧
      (t.ctxOf fn ctx).binds = [] ∧ ∀ die va acc,
        let ct := (t.fnBlock fn die).ctxTable + 16 * ctx
        (∀ a, a = ct ∨ a = ct + 8 → t.reachPa fn a 8 true = .ok (t.localPa a) ∧ t.rangeOf (t.localPa a) ≠ .host) →
        walk t die fn ctx va acc = (t, .error 1))

/-- R434 to R437: evacuation of a die, and the quiescence of a function. While Busy is 1 a write changes Target and starts nothing (DEDUCED, log 80). -/
def Claims.Evacuation : Prop :=
  ∀ (s : State) (d fn v : Nat),
    let x := s.dieOf d
    let word := fun (y : Die) => { y with evac := BitVec.ofNat 32 (v &&& 0xF0) ||| 0x40000000 }
    (x.evac.getLsbD 30 = true → exec (.evacuate d v) s = .next (s.modDie d word)) ∧
    (x.evac.getLsbD 30 = false → bitOf v 31 = false →
      exec (.evacuate d v) s = .next (s.modDie d fun y => { y with evac := BitVec.ofNat 32 (v &&& 0xF0) })) ∧
    (x.evac.getLsbD 30 = false → bitOf v 31 = true → ∃ t, exec (.evacuate d v) s = .next t ∧ (t.dieOf d).evac.getLsbD 30 = true ∧
      (∀ q, s.queues.has q = true → q / 1024 = d → (s.queueOf q).enabled = true → (t.queueOf q).stopped = true) ∧
      (∀ b, s.blocks.has b = true → State.resident (s.blkOf b) = true → (s.blkOf b).die = d →
        (t.blkOf b).preempt = some .evacuation)) ∧
    (x.evac.getLsbD 30 = false ∨ (∃ e ∈ s.blocks, State.resident e.2 = true ∧ e.2.die = d) → exec (.evacuationComplete d) s = .next s) ∧
    (x.evac.getLsbD 30 = true → (∀ e ∈ s.blocks, State.resident e.2 = true → e.2.die ≠ d) → ∃ t, exec (.evacuationComplete d) s = .next t ∧
      (t.dieOf d).evac = x.evac &&& 0xF0 ∧ ∀ b, s.blocks.has b = true →
        (s.blkOf b).life = .saved ∨ (s.blkOf b).life = .rolledBack → (s.blkOf b).die = d → (s.blkOf b).cause ≠ 5 →
        (t.blkOf b).resumeOn = BitVec.ofNat 4 (bits x.evac.toNat 7 4) &&& BitVec.ofNat 4 (2 ^ s.dieIds.length - 1)) ∧
    (exec (.migctlQuiesce d fn v) s = .next (s.modDie d fun y =>
      { y with migctl := y.migctl.set fn ((y.migctl.get fn &&& 0xFFFF0000) ||| BitVec.ofNat 32 (v % 2)) }))

/-- Commands to contexts, and evacuation. -/
def Obligations.ContextsAndEvacuation : Prop := Claims.ContextCommands ∧ Claims.Evacuation

/-- R8, R218, R444, R450: module reset, which leaves memory but for the Loft windows (DEDUCED, log 50), management messages, of which the answer to an
MCTP control message is not stated (log 92), and registers that a write only stores; a MaxBays above 56 is ignored, and of an aperture's context
the low six bits are kept (DESIGN CHOICE, log 99). -/
def Obligations.ResetAndManagement : Prop :=
  ∀ (s : State) (d l q f o v : Nat) (nonce : List Byte),
    let byte := fun (b : Byte) => exec (.registerWrite (.fabricByte o) v) s = .next { s with fabric := s.fabric.set o b }
    (∃ t, exec .moduleReset s = .next t ∧
      (∀ a, t.byteAt a = if s.winBase ≤ a ∧ a < s.winBase + s.winBytes then 0 else s.byteAt a) ∧ t.lpddr = s.lpddr ∧
      t.blocks = [] ∧ t.grids = [] ∧ t.queues = [] ∧ t.fns = [] ∧ t.evq = [] ∧ t.ops = [] ∧ t.parks = [] ∧ t.pkts = [] ∧ t.remotes = [] ∧
      t.hdmcfg = 0 ∧ t.pwrctl = 6000 ∧ t.upViral = false ∧ t.agenda = s.agenda ∧ t.outbox = s.outbox ∧
      ∀ k, k < (if s.isExpander then 1 else 4) → (t.dieOf k).memcfg = 0x3800 ∧ (t.dieOf k).govctl = 0x00082018 ∧
        (t.dieOf k).bootstat.getLsbD 31 = true ∧ (t.dieOf k).evac = 0 ∧ (t.dieOf k).lanes = [] ∧ (t.dieOf k).shadowBase = 0) ∧
    (exec (.managementMessage (.bootStat d)) s = .next (s.emit (.mgmt (toBytes 4 (s.dieOf d).bootstat.toNat)))) ∧
    (exec (.managementMessage .pwrStat) s = .next (s.emit (.mgmt (toBytes 4 s.pwrstat.toNat)))) ∧
    (exec (.managementMessage (.linkStat d l)) s = .next (s.emit (.mgmt (toBytes 4 ((s.dieOf d).linkstat.get l).toNat)))) ∧
    (exec (.managementMessage (.report d nonce)) s = .next (s.emit (.mgmt (reportBytes s d 0 nonce)))) ∧
    (∃ data, data.length = 4 ∧ exec (.managementMessage (.temperature d)) s = .next (({ s with tick := s.tick + 1 } : State).emit (.mgmt data))) ∧
    (∃ data, exec (.managementMessage (.control nonce)) s = .next (({ s with tick := s.tick + 1 } : State).emit (.mgmt data))) ∧
    (exec (.registerWrite (.shadowBase d) v) s = .next (s.modDie d fun x => { x with shadowBase := v })) ∧
    (exec (.registerWrite (.profileBase f d) v) s = .next (s.modFn f fun x => { x with profile := x.profile.set d (v / 4096 * 4096) })) ∧
    (exec (.registerWrite (.ctxTable f d) v) s = .next (s.modFnBlock f d fun x => { x with ctxTable := v / 64 * 64 })) ∧
    (exec (.registerWrite (.dirtyBase f d) v) s = .next (s.modFnBlock f d fun x => { x with dirtyBase := v / 4096 * 4096 })) ∧
    (exec (.registerWrite (.fnFlags f d) v) s = .next (s.modFnBlock f d fun x => { x with flags := BitVec.ofNat 8 (v % 2) })) ∧
    (v ≤ 56 → exec (.registerWrite (.maxBays f d) v) s = .next (s.modFnBlock f d fun x => { x with maxBays := v })) ∧
    (56 < v → exec (.registerWrite (.maxBays f d) v) s = .next s) ∧
    (exec (.registerWrite (.ctxSave f o) v) s = .next (s.modCtx f o fun x => { x with save := BitVec.ofNat 64 (v % 2 ^ 56) })) ∧
    (o < 0x18 ∨ (0x20 ≤ o ∧ o < 0x88) → exec (.registerWrite (.pantryByte f o) v) s =
      .next (s.modFn f fun x => { x with pantry := x.pantry.set o (BitVec.ofNat 8 v) })) ∧
    (v % 2 = 1 → (s.fnOf f).pantry.get 0x1C = 0 → ∃ t, exec (.registerWrite (.pantryByte f 0x1C) v) s = .next t ∧ t = { s with fns := t.fns } ∧
      (t.fnOf f).pantry = (s.fnOf f).pantry.set 0x1C 1 ∧ (t.fnOf f).inUse = [] ∧ ∀ e, e ≠ f → t.fnOf e = s.fnOf e) ∧
    (o < 0x1C ∨ (0x40 ≤ o ∧ o < 0xC0 ∧ o % 2 = 0) ∨ (0xC0 ≤ o ∧ o < 0x140) → byte (BitVec.ofNat 8 v)) ∧
    (0x40 ≤ o → o < 0xC0 → o % 2 = 1 → byte (BitVec.ofNat 8 (v % 2))) ∧
    ((0x1C ≤ o ∧ o < 0x40) ∨ 0x140 ≤ o → byte 0) ∧
    (exec (.registerWrite (.apertureBase f d) v) s = .next (s.modFnBlock f d fun x => { x with apBase := v / 2 ^ 21 * 2 ^ 21 })) ∧
    (exec (.registerWrite (.apertureCtx f d) v) s = .next (s.modFnBlock f d fun x => { x with apCtx := v % 64 })) ∧
    (exec (.registerWrite (.apertureFlags f d) v) s = .next (s.modFnBlock f d fun x => { x with apFlags := BitVec.ofNat 8 (v % 4) })) ∧
    (exec (.registerWrite (.readOnly o) v) s = .next s) ∧
    (1 ≤ v → v ≤ 64 → exec (.registerWrite (.vectors f) v) s = .next (s.modFn f fun x => { x with vectors := v })) ∧
    (d < 4 → q < 1024 → bitOf v 0 = false → bitOf v 1 = false → s.shadowAt (1024 * d + q) % 64 = 0 →
      s.canWrite (s.shadowAt (1024 * d + q) + 0x18) = true → s.rangeOf (s.shadowAt (1024 * d + q) + 0x18) ≠ .host → NoDirtyLog s 64 → ∃ t, exec (.registerWrite (.shadowStatus d q) v) s = .next t ∧
      t = { s with mem := t.mem, queues := t.queues } ∧ (t.queueOf (1024 * d + q)).enabled = false ∧ (t.queueOf (1024 * d + q)).waiting = none)

/-- R113, R137, R138: in its turn, the word at the PC of a split that its scheduler issues next, or of the matrix stream, that decodes to a
well-formed instruction is executed with that agent in focus; an event comes about in its turn. Where the operation finds that it has to wait, what it
waits for is asked for, and it is tried again as a whole (DESIGN CHOICE, log 71). The step then lets what waits at the homes go on. -/
def Claims.StepRunsTheWord : Prop :=
  ∀ (s : State) (b g e pa : Nat) (rest : List Turn) (i : Instr),
    let gr := s.gridOf (s.blkOf b).grid
    let x := s.splOf b g e
    let m := (s.blkOf b).ms
    let u : State := { s with agenda := rest, focus := { blk := b, grp := g, ent := e } }
    let v : State := { s with agenda := rest, focus := { blk := b, stream := true } }
    let w := BitVec.ofNat 32 (s.rdNum pa 4)
    let does := fun (u : State) (who : FarWho) => ∀ t, exec i (u.asAgent who) = .next t →
      (t.farAsk = none → step s = .next (t.agentDone u who).settleTurn) ∧
      ∀ q, t.farAsk = some q → step s = .next (u.askFor who u.blk.die t.farPos q).holdWord.settleTurn
    let next := s.splitMay b g e = true ∧ s.isNext b g e = true
    (gr.codeCopy = none → decode w = .ok i → i.wf = true →
      (s.agenda = .split b g e :: rest → next → x.left ≠ 0 → x.pc % 4 = 0 → x.pc + 4 ≤ gr.codeBytes →
        Hits u .fetch 4 (gr.code + x.pc) pa → prim w < 0xD0 ∨ (0xE0 ≤ prim w ∧ prim w < 0xF0) → (∀ r ∈ vnames i, u.within r.1 r.2 = true) →
        (isTransfer i = true → x.left = 1) → does u (.word b g e)) ∧
      (s.agenda = .split b g e :: rest → next → x.left = 0 → x.pc % 4 = 0 → x.pc + 4 ≤ gr.codeBytes →
        Hits u .fetch 4 (gr.code + x.pc) pa → 0xF0 ≤ prim w → bit w 0 = false →
        (s.grpOf b g).fails = [] ∨ x.frame.isSome = true ∨ x.atH.isSome = true → does u (.word b g e)) ∧
      (s.agenda = .stream b :: rest → s.streamMay b = true → m.left ≠ 0 → m.pc % 4 = 0 → m.pc + 4 ≤ gr.codeBytes →
        Hits v .fetch 4 (gr.code + m.pc) pa → 0xD0 ≤ prim w → prim w < 0xE0 → (isTransfer i = true → m.left = 1) → does v (.words b)) ∧
      (s.agenda = .stream b :: rest → s.streamMay b = true → m.left = 0 → m.pc % 4 = 0 → m.pc + 4 ≤ gr.codeBytes →
        Hits v .fetch 4 (gr.code + m.pc) pa → 0xF0 ≤ prim w → bit w 0 = false → bits w.toNat 27 16 = 0 → bits w.toNat 15 8 = 255 →
        bits w.toNat 3 1 = 0 → does v (.words b))) ∧
    (s.agenda = .event i :: rest → ∃ y, y = { s with agenda := rest, epoch := s.epoch + 1, blocks := y.blocks } ∧
      (∀ k, y.blkOf k = { s.blkOf k with ms := { (s.blkOf k).ms with waiting := (y.blkOf k).ms.waiting } }) ∧
      (y.keepsBehind i = true → step s = .next ({ y with later := y.later ++ [i] } : State).settleTurn) ∧
      (y.keepsBehind i = false → ∀ t, exec i (y.asAgent (.op i)) = .next t →
        (t.farAsk = none → step s = .next (t.agentDone y (.op i)).settleTurn) ∧
        ∀ q, t.farAsk = some q →
          let z := y.askFor (.op i) 0 t.farPos q
          step s = .next ({ z with later := z.later ++ [i] } : State).settleTurn)) ∧
    (s.agenda = .split b g e :: rest → ¬next → step s = .next ({ s with agenda := rest } : State).settleTurn) ∧
    (s.agenda = .stream b :: rest → s.streamMay b = false → step s = .next ({ s with agenda := rest } : State).settleTurn) ∧
    ∀ t : State, t.snoopHeld = [] → t.later = [] → (∀ y ∈ t.remotes, y.2.poisoned = false) → t.settleTurn = t

/-- R5, R104 to R106: with no turn named and no window due, the agent that the schedulers take fetches its word; it may issue, and is the one
that its scheduler takes: the least of its groups in the order of R105, and of that group a split inside its clause before any other. Which scheduler
comes first where several could issue is the model's (DESIGN CHOICE, log 4; DEDUCED, log 59), as are when a window turns (DESIGN CHOICE, log 54) and
that of several splits in mid-clause the one that issued last goes on (DESIGN CHOICE, log 95). -/
def Claims.SchedulerTakesAnAgent : Prop :=
  ∀ (s : State),
    let keyed := (s.blocks.map (·.1)).Nodup ∧ ∀ e ∈ s.blocks, (e.2.groups.map (·.1)).Nodup
    (∀ f t, s.agenda = [] → s.windowDue = false → s.unitsFirst = false → s.pickAgent = some f → issueFocus { s with focus := f } = .next t →
      step s = .next t.settleTurn) ∧
    (∀ b, s.pickAgent = some { blk := b, stream := true } → s.streamMay b = true) ∧
    (∀ b g e, s.pickAgent = some { blk := b, grp := g, ent := e } → s.splitMay b g e = true ∧ (keyed → s.isNext b g e = true)) ∧
    (∀ b g e k, k < 4 → s.isNext b g e = true → s.splitMay b g k = true → (s.splOf b g k).left ≠ 0 → (s.splOf b g e).left ≠ 0) ∧
    (∀ p c, State.firstOf (s.candidates.filter fun y => y.port == p) = some c → s.portPick p = some c.focus ∧
      ∀ y ∈ s.candidates, y.port = p → ¬ y.key < c.key)

/-- Whose word a step takes, and that it executes it. -/
def Obligations.SchedulingAndIssue : Prop := Claims.StepRunsTheWord ∧ Claims.SchedulerTakesAnAgent

/-- R113, R138: a word at the PC of a split whose turn it is, which fails a check at fetch, traps with IllegalInstruction (0x01) or ReservedEncoding
(0x02), its TRAPINFO the word and its offset, and performs nothing. A header must stand where a clause is to open, and nowhere else; then come a header's
own checks, the word's port, its encoding, the registers it names and a transfer's place. An offset outside the code, or not a multiple
of 4, traps too. -/
def Claims.FetchChecks : Prop :=
  (∀ (s : State) (b g e pa entry : Nat) (rest : List Turn),
    let gr := s.gridOf (s.blkOf b).grid
    let x := s.splOf b g e
    let u : State := { s with agenda := rest, focus := { blk := b, grp := g, ent := e } }
    let traps := fun (code : Nat) (w : Word) (y : State) => ∃ t, turn s = .next t ∧
      Ticked ((y.modS fun p => { entered { State.frameOf x with word := w } code (wordInfo w x.pc) entry p with lastIssue := s.clock }).modG
        fun g => { g with lastIssue := s.clock, overdue := false, yielded := false }) t
    s.agenda = .split b g e :: rest → s.splitMay b g e = true → s.isNext b g e = true → u.takesH = false → gr.codeCopy = none →
      x.frame = none → gr.trapEntry = some entry → (∀ y ∈ s.far, y.who ≠ .word b g e) →
      (x.pc % 4 ≠ 0 ∨ gr.codeBytes < x.pc + 4 → ∃ w, traps 0x01 w { u with tick := s.tick + 1 }) ∧
      (∀ code info, x.pc % 4 = 0 → x.pc + 4 ≤ gr.codeBytes → Hits u .fetch 4 (gr.code + x.pc) pa →
        checkWord false x.left x.pc u.within (BitVec.ofNat 32 (s.rdNum pa 4)) = .trap code info →
        info = wordInfo (BitVec.ofNat 32 (s.rdNum pa 4)) x.pc ∧ traps code (BitVec.ofNat 32 (s.rdNum pa 4)) u)) ∧
  ∀ (left pc : Nat) (within : Nat → Nat → Bool) (w : Word),
    let ends := fun (code : Nat) => checkWord false left pc within w = .trap code (wordInfo w pc)
    ((0xF0 ≤ prim w ↔ left ≠ 0) → ends 0x01) ∧
    (0xF0 ≤ prim w → left = 0 →
      ((∀ i, decodeHeader (w &&& ~~~1) ≠ .ok i) → ends 0x02) ∧
      ∀ i, decodeHeader (w &&& ~~~1) = .ok i → (i.wf = false → ends 0x01) ∧ (i.wf = true → bit w 0 = true → ends 0x02)) ∧
    (prim w < 0xF0 → left ≠ 0 → (0xD0 ≤ prim w → prim w < 0xE0 → ends 0x01) ∧
      (prim w < 0xD0 ∨ 0xE0 ≤ prim w →
        (decode w = .error .reserved → ends 0x02) ∧ (∀ err, decode w = .error err → err ≠ .reserved → ends 0x01) ∧
        ∀ i, decode w = .ok i → (i.wf = false → ends 0x01) ∧ ((∃ r ∈ vnames i, within r.1 r.2 = false) → ends 0x01) ∧
          (isTransfer i = true → left ≠ 1 → ends 0x01)))

/-- R158, R163, R164: a call at depth 48 and a return at depth 0 trap with IllegalInstruction (0x01), a CALLX of a target that is no multiple of 4 with
MisalignedAccess (0x03), and one that would spill or fill outside the block's scratch with ScratchRange (0x04). Nothing is performed. -/
def Claims.CallTraps : Prop :=
  ∀ (s : State) (o : BitVec 24) (a : BitVec 7), Running s →
    let n := s.spl.depth
    let illegal := fun (i : Instr) => Traps i s s 0x01 (BitVec.ofNat 32 s.spl.pc ++ encode i)
    let range := fun (i : Instr) (k : Nat) =>
      s.spillBad s.focus.ent k = true → Traps i s s 0x04 (BitVec.ofNat 64 (wrap 32 (s.spillAt s.focus.ent k) + 2 ^ 63))
    let t := (s.getS a.toNat).toNat
    (48 ≤ n → illegal (.call o) ∧ (t % 4 = 0 → illegal (.callx a))) ∧
    (t % 4 ≠ 0 → Traps (.callx a) s s 0x03 (BitVec.ofNat 64 t)) ∧
    (16 ≤ n → n < 48 → range (.call o) (n - 16) ∧ (t % 4 = 0 → range (.callx a) (n - 16))) ∧
    (n = 0 → illegal .ret) ∧
    (16 < n → (∀ d ∈ s.spl.defs.head?, d.depth ≠ n) → range .ret (n - 17))

/-- R49, R180, R186: a float operation whose result is invalid in an executing lane, where MODE.TrapInv is set, writes its results in every lane,
and traps with FloatInvalid (0x0A) at the boundary that follows; a reciprocal of zero, where MODE.TrapDiv is set, with DivideByZero
(0x09). TRAPINFO names the lowest such lane. -/
def Claims.FloatTraps : Prop :=
  ∀ (s : State) (d a b : BitVec 8) (l : Nat), Running s → vecOk floatTypes [d.toNat, a.toNat, b.toNat] s = true → s.spl.round ≠ 5 →
    s.execLanes.getLsbD l = true →
    let t := s.spl.type
    let rm := s.spl.round
    let n := (tyOf t).n
    let x := fun l k => readF (tyFmt t) s.spl.ftz (elem t (s.grp.getVal t a.toNat l) k)
    let y := fun l k => readF (tyFmt t) s.spl.ftz (elem t (s.grp.getVal t b.toNat l) k)
    let z := fun l k => readF (tyFmt t) s.spl.ftz (elem t (s.grp.getVal t d.toNat l) k)
    let nan := fun (v : Machine.Num) => (decodeF (tyFmt t) (roundTo (tyFmt t) rm false v)).isNaN = true
    let rounded := fun v => flushOut (tyFmt t) s.spl.ftz (roundTo (tyFmt t) rm false v)
    let lowest := fun (bad : Nat → Nat → Prop) =>
      (∃ k, k < n ∧ bad l k) ∧ ∀ m, m < l → s.execLanes.getLsbD m = true → ∀ k, k < n → ¬ bad m k
    let writes := fun (u : State) (f : Nat → Nat → Nat) => u = s.modG (fun g => { g with v := u.grp.v }) ∧
      (∀ m k, m < 96 → k < n → elem t (u.grp.getVal t d.toNat m) k =
        if s.writeLanes.getLsbD m then f m k else elem t (s.grp.getVal t d.toNat m) k) ∧
      ∀ r m, m < 96 → r ≠ d.toNat → (isPair t = true → r ≠ d.toNat + 1) → u.grp.getV r m = s.grp.getV r m
    let fails := fun (i : Instr) (f : Nat → Nat → Machine.Num) (ops : Nat → Nat → List Machine.Num) =>
      lowest (fun m k => (∀ o ∈ ops m k, o.isNaN = false) ∧ nan (f m k)) →
        ∃ u, Traps i s u 0x0A (BitVec.ofNat 64 l) ∧ writes u fun m k => rounded (f m k)
    (s.spl.trapInv = true →
      fails (.vfadd d a b) (fun m k => sumN rm [x m k, y m k]) (fun m k => [x m k, y m k]) ∧
      fails (.vfsub d a b) (fun m k => sumN rm [x m k, (y m k).neg]) (fun m k => [x m k, y m k]) ∧
      fails (.vfmul d a b) (fun m k => mulN (x m k) (y m k)) (fun m k => [x m k, y m k]) ∧
      fails (.vfma d a b) (fun m k => sumN rm [mulN (x m k) (y m k), z m k]) (fun m k => [x m k, y m k, z m k])) ∧
    (s.spl.trapDiv = true → s.spl.trapInv = false → t ≠ 9 → FlagFree s → lowest (fun m k => (x m k).isZero = true) →
      ∃ u, Traps (.vrcp d a) s u 0x09 (BitVec.ofNat 64 (l + 2 ^ 9)) ∧
        writes u fun m k => flushOut (tyFmt t) s.spl.ftz (roundTo (tyFmt t) 0 false (rcpT (x m k)).1))

/-- R180, R185, R186: a divider form writes its results when it completes; a zero divisor or a signed overflow, where MODE.TrapDiv is set, then
waits at the group as DivideByZero (0x09) for the next header, with the lowest such lane, the causes and the offset of the word. -/
def Claims.DivideTraps : Prop :=
  ∀ (s : State) (d a b : BitVec 8) (l : Nat), Running s → FlagFree s → s.spl.trapDiv = true → s.spl.trapInv = false →
    s.execLanes.getLsbD l = true →
    let t := s.spl.type
    let n := (tyOf t).n
    let w := (tyOf t).w
    let fails := fun (i : Instr) (overflow zero : Nat → Nat → Prop) (q : Nat → Nat → Nat) =>
      (∃ k, k < n ∧ (overflow l k ∨ zero l k)) → (∀ m, m < l → s.execLanes.getLsbD m = true → ∀ k, k < n → ¬(overflow m k ∨ zero m k)) →
      ∃ id v u f info, exec i s = .next v ∧ Pending i s v id ∧ exec (.dividerComplete id) v = .next u ∧
        u.grp = { v.grp with splits := u.grp.splits, v := u.grp.v, fails := v.grp.fails ++ [{ code := 0x09, info := info, stream := false }] } ∧
        (∀ m k, k < n → elem t (f m) k = q m k) ∧
        (∀ r m, m < 96 → u.grp.getV r m = written s s.writeLanes [(d.toNat, f)] r m) ∧
        bits info.toNat 6 0 = l ∧ (info.toNat.testBit 8 = true ↔ ∃ k, k < n ∧ overflow l k) ∧
        (info.toNat.testBit 9 = true ↔ ∃ k, k < n ∧ zero l k) ∧ bits info.toNat 55 32 = s.spl.pc % 2 ^ 24 ∧
        info.toNat.testBit 7 = false ∧ bits info.toNat 31 10 = 0 ∧ bits info.toNat 63 56 = 0
    let x := fun m k => ival t (elem t (s.grp.getVal t a.toNat m) k)
    let y := fun m k => ival t (elem t (s.grp.getVal t b.toNat m) k)
    let overflow := fun m k => (tyOf t).signed = true ∧ x m k = minT t ∧ y m k = -1
    let quotient := fun m k => if y m k = 0 then (0 : Int) else (x m k).tdiv (y m k)
    (vecOk intTypes [d.toNat, a.toNat, b.toNat] s = true →
      fails (.vdiv d a b) overflow (fun m k => y m k = 0) (fun m k => wrap w (quotient m k)) ∧
      fails (.vrem d a b) overflow (fun m k => y m k = 0) (fun m k => wrap w (x m k - quotient m k * y m k))) ∧
    (vecOk floatTypes [d.toNat, a.toNat, b.toNat] s = true → s.spl.round ≠ 5 →
      let p := fun v m k => readF (tyFmt t) s.spl.ftz (elem t (s.grp.getVal t v m) k)
      let zero := fun (v : Machine.Num) => v.isZero = true
      fails (.vfdiv d a b) (fun _ _ => False)
        (fun m k => zero (p b.toNat m k) ∧ ¬ zero (p a.toNat m k) ∧ (p a.toNat m k).isInf = false ∧ (p a.toNat m k).isNaN = false)
        (fun m k => flushOut (tyFmt t) s.spl.ftz (roundTo (tyFmt t) s.spl.round false (divN (p a.toNat m k) (p b.toNat m k)))))

/-- R400 to R403, R407 to R410: what traps with SyncBindingFault (0x1A) and BarrierMisuse (0x17), with the reason in TRAPINFO; nothing is performed. A word
that lies in the host's memory is no place for a barrier: ProtectionFault (0x06). -/
def Claims.SyncTraps : Prop :=
  ∀ (s : State) (sp : BarSpace) (d a b : BitVec 7) (c : BitVec 3) (scr : Bool) (at_ : Nat), Running s →
    let binds := fun (i : Instr) (reason entry : Nat) => Traps i s s 0x1A (BitVec.ofNat 64 (reason + entry * 16))
    let object := fun (r : BitVec 7) (inner : Bool) => if inner then (s.getS r.toNat).toNat else (s.getP r.toNat).toNat
    let w := (s.getS d.toNat).toNat
    let size := (s.getS (d.toNat + 1)).toNat
    let base := object a (w.testBit 6)
    let obj := object b (w.testBit 7)
    let goodRegion := base % 128 = 0 ∧ size ≠ 0 ∧ size % 128 = 0 ∧ base + size ≤ (if w.testBit 6 then 2 ^ 32 else 2 ^ 56)
    let x := barOperand s sp a
    let info := fun (reason : Nat) => BitVec.ofNat 64 (reason * 2 ^ 56 + match sp with
      | .word => x % 2 ^ 56 | .scr => x % 2 ^ 32 + 2 ^ 63 | .num => x + 2 ^ 61)
    let misused := fun (i : Instr) (reason : Nat) => Traps i s s 0x17 (info reason)
    let v := (s.getS b.toNat).toNat
    let count := v % 65536
    let added := (s.getS (b.toNat + 1)).toNat
    (256 ≤ w → binds (.bind d a b) 1 (w % 64)) ∧
    (w < 256 → ¬ goodRegion → binds (.bind d a b) 2 (w % 64)) ∧
    (w < 256 → goodRegion → obj % 4 ≠ 0 → binds (.bind d a b) 3 (w % 64)) ∧
    (64 ≤ (s.getS a.toNat).toNat → binds (.unbind a) 1 ((s.getS a.toNat).toNat % 64)) ∧
    (object a scr % 4 = 0 → s.isBound scr (object a scr) 4 = false → binds (.acq c a scr) 4 0 ∧ binds (.rel c a scr) 4 0) ∧
    (sp = .num →
      let y := s.blk.bars.get {} x
      (count = 0 → misused (.bara sp d a b) 4) ∧
      (count ≠ 0 → fenceReady s = true → (y.expected = 0 → misused (.bara sp d a b) 1) ∧
        (y.expected ≠ 0 → y.pending.toNat < count → misused (.bara sp d a b) 2)) ∧
      (s.acqBusy = false → s.spl.replay ≠ some State.woken → y.expected = 0 → misused (.barw sp a b) 1)) ∧
    (AtWord s sp x scr at_ →
      let z := s.bwRead s.focus.blk scr at_
      let bad := fun (index : Nat) => bindBad s scr x index
      let found := bwBound z = true → bad (bwIndex z) = false
      let scope := bits v 18 16
      let goodScope := v < 2 ^ 26 ∧ 1 ≤ scope ∧ scope ≤ (if scr then 1 else 4)
      (¬ goodScope → misused (.bari sp a b) 5) ∧
      (goodScope → v.testBit 19 = true → bad (bits v 25 20) = true → binds (.bari sp a b) 5 (bits v 25 20)) ∧
      (bwBound z = true → bad (bwIndex z) = true →
        binds (.bara sp d a b) 5 (bwIndex z) ∧ binds (.bart sp d a b) 5 (bwIndex z) ∧
        (s.spl.replay ≠ some State.woken → binds (.barw sp a b) 5 (bwIndex z))) ∧
      (found → count = 0 → misused (.bara sp d a b) 4) ∧
      (found → fenceReady s = true → ∀ i n, (i = Instr.bara sp d a b ∧ n = 0 ∧ count ≠ 0) ∨ (i = Instr.bart sp d a b ∧ n = added) →
        (bwExpected z = 0 → misused i 1) ∧
        (bwExpected z ≠ 0 → (bwScope z = 0 ∨ 4 < bwScope z) → misused i 5) ∧
        (bwExpected z ≠ 0 → 1 ≤ bwScope z → bwScope z ≤ 4 → (bwPending z < count → misused i 2) ∧
          (count ≤ bwPending z → 2 ^ 48 ≤ bwBytes z + n → misused i 6))) ∧
      (found → s.spl.replay ≠ some State.woken → bwExpected z = 0 → misused (.barw sp a b) 1)) ∧
    (sp = .word → x % 16 = 0 → s.acqBusy = false → Hits s .atomic 16 x at_ → s.rangeOf at_ = .host →
      let stray := fun (i : Instr) => Traps i s s 0x06 (BitVec.ofNat 64 (x % 2 ^ 56))
      stray (.bari sp a b) ∧ stray (.bara sp d a b) ∧ stray (.bart sp d a b) ∧ stray (.barq sp d a) ∧
        (s.spl.replay ≠ some State.woken → stray (.barw sp a b)))

/-- Words that trap. -/
def Obligations.ExecutionTraps : Prop := Claims.FetchChecks ∧ Claims.CallTraps ∧ Claims.FloatTraps ∧ Claims.DivideTraps ∧ Claims.SyncTraps

/-- R114, R127 to R137: some words of the encoding, each read as the instruction that the spec writes beside it. -/
def Obligations.WordsDecode : Prop :=
  decodeTableWord 32 0x03010286 = some (.sadd 4 5 6) ∧ decodeTableWord 32 0x1C040064 = some (.saddImm 4 100) ∧
  decodeTableWord 32 0x58020496 = some (.vlut3 2 4 0x96) ∧ decodeTableWord 32 0x91030105 = some (.vexp2 3 1) ∧
  decodeTableWord 32 0x68060416 = some (.pand 3 1 2 6) ∧ decodeTableWord 32 0xA9028180 = some (.vballot 10 3) ∧
  decodeTableWord 32 0x36040001 = some (.sysr 4 1) ∧ decodeTableWord 32 0xC7060500 = some (.barq .word 24 10)

/-- R114, R127 to R137: the word of every well-formed instruction decodes to it, with every field at every value; and a word that decodes is
the word of its instruction. -/
def Obligations.DecodeEncode : Prop :=
  (∀ (i : Instr) (w : Word), i.wf = true → encode? i = some w → decode w = .ok i) ∧
  (∀ (w : Word) (i : Instr), decode w = .ok i → encode? i = some w)

/-- Every word and every operation of the opcode table completes in every state. -/
def Claims.NothingStops : Prop := ∀ (i : Instr) (s : State), ∃ t, exec i s = .next t

/-- No step of the machine faults or refuses. -/
def Claims.EveryStepGoesOn : Prop := ∀ s : State, ∃ t, step s = .next t

/-- No instruction and no step ends in a fault or a refusal. -/
def Obligations.EveryStepGoesOn : Prop := Claims.NothingStops ∧ Claims.EveryStepGoesOn

/-- R213: memory keeps its canonical form in every step, whatever the step does. -/
def Obligations.StepKeepsMemory : Prop := ∀ s t : State, MemInv s → step s = .next t → MemInv t

/-- R5, R8, R65, R109, R124, R217, R444, R449: what reset leaves. That memory reads 0 is the model's choice (log 2), the spec gives no
contents. -/
def Obligations.ResetValues : Prop :=
  let r := State.reset
  MemInv r ∧ (∀ a, r.byteAt a = 0) ∧ r.blocks = [] ∧ r.grids = [] ∧ r.pwrctl = 6000 ∧ r.agenda = [] ∧
    (∀ d c, (r.coreOf d c).cycles = 0 ∧ (r.coreOf d c).b = 2 ∧ (r.coreOf d c).credit = 0 ∧ (r.coreOf d c).tlb = []) ∧
    (∀ d, (r.dieOf d).memcfg = 0x3800 ∧ (r.dieOf d).govctl = 0x00082018 ∧ (r.dieOf d).evac = 0 ∧ ∀ i, (r.bayOf d i).mode = 0) ∧
    (∀ f d, (r.evqOf f d).enabled = false ∧ (r.evqOf f d).write = 0 ∧ (r.evqOf f d).read = 0 ∧ (r.evqOf f d).lost = 0) ∧
    ∀ q, (r.queueOf q).enabled = false ∧ (r.queueOf q).marker = 0

/-- R176, R264 to R268, R281, R282, R310, R408 to R411: where nothing stands in its way, each barrier word on a numbered barrier, QSUB, RCOMMIT, and
each word and operation of the engines and of the Loft's bays completes. -/
def Obligations.SynchronisationAndEngineWordsComplete : Prop :=
  (∀ (s : State) (d a b : BitVec 7) (n : BitVec 16) (m : BitVec 4), Running s →
    let issues := fun (i : Instr) (done : State → Prop) => ∃ t, exec i s = .next t ∧ t.spl.pc = s.spl.pc + 4 ∧
      t.spl.left = s.spl.left - 1 ∧ t.spl.sig = crc32c s.spl.sig (encode i) ∧ done t
    let k := a.toNat % 16
    let x := s.blk.bars.get {} k
    let v := (s.getS b.toNat).toNat % 65536
    let arrived := fun (t : State) =>
      (t.blk.bars.get {} k).pending = if v = x.pending.toNat then x.expected else x.pending - BitVec.ofNat 16 v
    let g := s.grp
    let batch : BitVec 16 := (s.getS a.toNat).truncate 16
    (s.acqBusy = false → issues (.bari .num a b) fun t =>
      (t.blk.bars.get {} k).expected = BitVec.ofNat 16 v ∧ (t.blk.bars.get {} k).pending = BitVec.ofNat 16 v) ∧
    (x.expected ≠ 0 → fenceReady s = true → v ≤ x.pending.toNat →
      v ≠ 0 → issues (.bara .num d a b) arrived) ∧
    (s.acqBusy = false → x.expected ≠ 0 → x.phase.toNat ≠ v → issues (.barw .num a b) fun t => t.blk.bars = s.blk.bars) ∧
    (s.acqBusy = false → issues (.barq .num d a) fun t => d.toNat < 125 → t.spl.getS d.toNat = x.pending ++ x.expected) ∧
    (s.grid.restartable = false → issues (.rcommit n) fun t => t.grp.commit = g.commit) ∧
    (s.grid.restartable = true → s.focus.ent < 4 → (∀ e, e < 4 → e ≠ s.focus.ent → (s.splOf s.focus.blk s.focus.grp e).status = .empty) →
      s.spl.defs = [] → issues (.rcommit n) fun t => ∃ vals, t.grp.commit = some (n.toNat, vals)) ∧
    (FlagFree s → (g.closed - g.done).toNat < 255 → issues (.sclose d) fun t => t.grp.closed = g.closed + 1) ∧
    ((g.closed - batch).toNat < 2 ^ 15 → (g.done - batch).toNat < 2 ^ 15 → issues (.swait a) fun t => t.grp.eng = g.eng) ∧
    (FlagFree s → issues (.sqfence m) fun t => t.grp.eng = g.eng) ∧
    (FlagFree s → (∀ r ∈ g.eng, m.toNat.testBit r.1 = true → ∀ c ∈ r.2, c.kind ≠ .lxin ∧ c.kind ≠ .lxout ∧ State.engWriting c = false ∧ c.stop = []) →
      (∀ r ∈ s.remotes, r.2.blk = s.focus.blk → r.2.grp = s.focus.grp → r.2.engine = none) →
      issues (.scancel m) fun t => ∀ q, m.toNat.testBit q = true → t.grp.eng.get [] q = [])) ∧
  (∀ (s s' : State) (a b : BitVec 7) (w : Nat), Running s → FlagFree s → fenceReady s = true →
    let q := (s.getS a.toNat).toNat % 65536
    let v := (s.getP b.toNat).toNat
    let x := s.queueOf q
    let who := FarWho.split s.focus.blk s.focus.grp s.focus.ent
    q < 4096 → x.enabled = true → x.cls.testBit 2 = true → x.fn = s.fn → x.ctx = s.ctx → v ≤ x.readIdx + 2 ^ x.z →
    ((startWord (encode (.qsub a b)) s).asAgent who).cbRead q 0 8 = (s', some w) →
    let u := (s'.cbWrite q 0 (toBytes 8 (max w v))).1.modQueue q fun y => { y with submits := y.submits ++ [(max w v, s.blk.grid)] }
    ((if (u.queueOf q).cls % 4 = 0 then u.modGrid s.blk.grid fun y => { y with qsubs := y.qsubs ++ [(q, max w v)] } else u).serveDoorbell
      q).farAsk = none →
    ∃ t, exec (.qsub a b) s = .next t ∧ t.spl.pc = s.spl.pc + 4 ∧ t.spl.left = s.spl.left - 1) ∧
  (∀ (s : State) (q : BitVec 2) (p : BitVec 3) (a b d : BitVec 7) (pa : Nat), Running s → FlagFree s →
    let issues := fun (i : Instr) (done : State → Prop) => ∃ t, exec i s = .next t ∧ t.spl.pc = s.spl.pc + 4 ∧
      t.spl.left = s.spl.left - 1 ∧ t.spl.sig = crc32c s.spl.sig (encode i) ∧ done t
    let pat := s.grp.q.get p.toNat
    let scr := (s.getS a.toNat).toNat
    let w := (s.getS b.toNat).toNat
    let limit := s.scrBytes s.focus.blk
    let va := (s.getP a.toNat).toNat
    let record := BitVec.ofNat 512 (s.rdNum pa 64)
    let held := fun (i : Instr) (k : Nat) (kind : EngKind) => issues i fun t => ∃ c, t.grp.eng.get [] k = s.grp.eng.get [] k ++ [c] ∧ c.kind = kind
    let command := fun (i : Instr) (kind : EngKind) (need : Bool) (total : Nat) =>
      engHeld s.grp < 32 → patBytes pat ≠ 0 → need = true → patElems pat ≠ 0 → scr % 32 = 0 → scr + total ≤ limit →
        (w = 0xFFFFFFFF ∨ w % 16 = 0 ∧ w + 16 ≤ limit) → held i q.toNat kind
    let direct := !patIndirect pat && !patTranspose pat && !patDequant pat
    (s.acqBusy = false → va % 64 = 0 → Hits s .read 64 va pa → s.sbHit s.focus.blk s.focus.grp 96 false pa 64 = false → s.rangeOf pa ≠ .host →
      patCheck record = none → issues (.patld p a) fun t => t.grp.q.get p.toNat = record) ∧
    command (.scp q p a b) .scp direct (patElems pat * patBytes pat) ∧
    command (.scpo q p a b) .scpo direct (patElems pat * patBytes pat) ∧
    command (.sgath q p a b) .sgath (patIndirect pat) (patElems pat * patBytes pat) ∧
    command (.sscat q p a b) .sscat (patIndirect pat) (patElems pat * patBytes pat) ∧
    command (.sdeq q p a b) .sdeq (patDequant pat) (64 * patElems pat) ∧
    command (.sxpos q p a b) .sxpos (patTranspose pat) (8 * patBytes pat * (32 * ((patElems pat + 255) / 256))) ∧
    (engHeld s.grp < 32 → scr % 4 = 0 → w % 4 = 0 → w ≠ 0 → scr + w ≤ limit → held (.sfill d a b) 0 .fill)) ∧
  (∀ (s : State) (b g q : Nat) (c : EngCmd) (later : List EngCmd), (s.grpOf b g).eng.get [] q = c :: later → s.engMay b g q c = true →
    c.stop = [] →
    (c.kind = .fill → c.got = [] → c.word = none → c.done < c.steps → (c.done = 0 → (s.grpOf b g).sb = [] ∧ s.atomsOut b g = false) →
      ∃ t, exec (.engineSectorWrite b g q) s = .next t ∧
        (t.grpOf b g).eng.get [] q = { c with done := c.done + 1, asked := [], got := [] } :: later) ∧
    (c.kind ≠ .lxin → c.kind ≠ .lxout → c.steps ≤ c.done → (∀ x ∈ later, x.id ≠ c.id) → ((s.grpOf b g).eng.map (·.1)).Nodup →
      (∀ r ∈ s.remotes, ¬(r.2.blk = b ∧ r.2.grp = g ∧ r.2.engine = some q)) →
      ∃ t, exec (.engineCommandComplete b g q) s = .next t ∧ (t.grpOf b g).eng.get [] q = later)) ∧
  (∀ (s : State) (op die v : Nat) (j : LoftJob),
    (s.dies.findSome? fun e => e.2.loft.find? fun k => k.op == op) = some j → j.op = op → OwnOp s j →
    s.bayHead j.die j.bay = some j → (s.bayOf j.die j.bay).reclaiming = false →
    let ends := fun (e : Instr) => ∃ t, exec e s = .next t ∧ t.ops.has op = false ∧ ∀ k ∈ (t.dieOf j.die).loft, k.op ≠ op
    (∀ d a, j.form = .lbay d a → j.bay < 64 → s.jobMoves j = true → (s.bayOf j.die j.bay).mode = 1 →
      ends (.lbayComplete op) ∧ ends (.loftOperationEnd j.die j.bay)) ∧
    (∀ a, j.form = .lfree a → s.jobOwns j = true → ends (.lfreeComplete op) ∧ ends (.loftOperationEnd j.die j.bay)) ∧
    (v.testBit 31 = true → v < 2 ^ 32 → (s.bayOf die (v % 64)).mode = 2 → (∀ k ∈ (s.dieOf die).loft, k.bay ≠ v % 64) →
      ∃ t, exec (.loftReclaim die v) s = .next t ∧ (t.bayOf die (v % 64)).mode = 0))

/-- R236, R208: an access of lanes of which one's address or offset is no multiple of the size traps at issue with MisalignedAccess (0x03), one of
scratch that reaches beyond the allocation with ScratchRange (0x04). TRAPINFO names the lowest failing lane, and nothing is performed in any lane.
Constant space has no range check. -/
def Claims.LaneAccessTraps : Prop :=
  ∀ (s : State) (d v a : BitVec 8) (j : BitVec 6) (h : BitVec 2) (sc : Scope) (o : AtomOp) (wide : Bool) (z : AccSize) (l : Nat),
    Running s → FlagFree s → s.acqBusy = false → s.grp.sb.length < 32 → s.execLanes.getLsbD l = true →
    let lowest := fun (bad : Nat → Prop) => bad l ∧ ∀ k, k < l → s.execLanes.getLsbD k = true → ¬ bad k
    let globally := fun (i : Instr) (n : Nat) (x : Nat → Nat) =>
      lowest (fun k => x k % n ≠ 0) → Traps i s s 0x03 (BitVec.ofNat 64 (x l % 2 ^ 56 + l * 2 ^ 56))
    let place := fun (x : Nat → Nat) => BitVec.ofNat 64 (x l % 2 ^ 32 + l * 2 ^ 32 + 2 ^ 63)
    let constant := fun (i : Instr) (n : Nat) (x : Nat → Nat) => lowest (fun k => x k % n ≠ 0) → Traps i s s 0x03 (place x)
    let scratch := fun (i : Instr) (n : Nat) (x : Nat → Nat) => constant i n x ∧
      ((∀ k, s.execLanes.getLsbD k = true → x k % n = 0) → lowest (fun k => s.scrBytes s.focus.blk < x k + n) → Traps i s s 0x04 (place x))
    let at_ := s.addrFM v.toNat j.toNat
    let off := s.offFSM v.toNat j.toNat
    let n := if wide then 8 else 4
    let global := fun k => s.addrFA a.toNat k false
    let inner := fun k => s.addrFA a.toNat k true
    globally (.ldG32 d v j h) 4 at_ ∧ globally (.ldG64 d v j h) 8 at_ ∧ globally (.ldG128 d v j h) 16 at_ ∧
    globally (.stG32 d v j h) 4 at_ ∧ globally (.stG64 d v j h) 8 at_ ∧ globally (.stG128 d v j h) 16 at_ ∧
    globally (.ldAcq d v j sc) 4 at_ ∧ (fenceReady s = true → globally (.stRel d v j sc) 4 at_) ∧
    scratch (.lds d v j z) (accBytes z) off ∧ scratch (.sts d v j z) (accBytes z) off ∧ constant (.ldc d v j z) (accBytes z) off ∧
    globally (.red d a o false wide sc) n global ∧ scratch (.red d a o true wide sc) n inner ∧
    globally (.scatadd d a o false wide sc) n global ∧ scratch (.scatadd d a o true wide sc) n inner ∧
    (fenceReady s = true → s.atomsOut s.focus.blk s.focus.grp = false →
      globally (.atom d a o false wide sc) n global ∧ scratch (.atom d a o true wide sc) n inner)

/-- R236, R208, R196, R255, R263, R400, R407: the words that form one address make the same checks, with 0 in the lane field: SLD, SST, PATLD, ACTLD, ACQ,
REL, the barrier words, and the engine's commands, for which TRAPINFO names the first element that does not fit. ACTLD of a table that is
loading traps with TableBusy (0x0D). -/
def Claims.OneAddressTraps : Prop :=
  ∀ (s : State) (d a b : BitVec 7) (p n : BitVec 3) (y : LdSize) (z : StSize) (sp : BarSpace) (scr : Bool) (q : BitVec 2) (e : Nat),
    Running s → FlagFree s → s.acqBusy = false →
    let global := fun (i : Instr) (m va : Nat) => va % m ≠ 0 → Traps i s s 0x03 (BitVec.ofNat 64 (va % 2 ^ 56))
    let place := fun (off : Nat) => BitVec.ofNat 64 (off % 2 ^ 32 + 2 ^ 63)
    let pair := (s.getP a.toNat).toNat
    let off := (s.getS a.toNat).toNat
    let w := (s.getS b.toNat).toNat
    let limit := s.scrBytes s.focus.blk
    let object := fun (i : Instr) => if scr then off % 4 ≠ 0 → Traps i s s 0x03 (place off) else global i 4 pair
    let word := fun (i : Instr) =>
      (sp = .word → global i 16 pair) ∧
      (sp = .scr → (off % 16 ≠ 0 → Traps i s s 0x03 (place off)) ∧ (off % 16 = 0 → limit < off + 16 → Traps i s s 0x04 (place off)))
    let pat := s.grp.q.get p.toNat
    let command := fun (i : Instr) (need : Bool) (u total : Nat) =>
      engHeld s.grp < 32 → patBytes pat ≠ 0 → need = true → patElems pat ≠ 0 →
        (off % 32 ≠ 0 → Traps i s s 0x03 (place off)) ∧
        (off % 32 = 0 → w ≠ 0xFFFFFFFF → w % 16 ≠ 0 → Traps i s s 0x03 (place w)) ∧
        (off % 32 = 0 → w = 0xFFFFFFFF ∨ w % 16 = 0 →
          (limit < off + total → limit < off + e * u + u → (∀ k, k < e → off + k * u + u ≤ limit) → Traps i s s 0x04 (place (off + e * u))) ∧
          (off + total ≤ limit → w ≠ 0xFFFFFFFF → limit < w + 16 → Traps i s s 0x04 (place w)))
    let direct := !patIndirect pat && !patTranspose pat && !patDequant pat
    let all := patElems pat * patBytes pat
    global (.sld y d a b) (ldBytes y) (s.addrScalar a.toNat b.toNat (ldBytes y)) ∧
    (s.grp.sb.length < 32 → global (.sst z d a b) (stBytes z) (s.addrScalar a.toNat b.toNat (stBytes z))) ∧
    global (.patld p a) 64 pair ∧
    ((s.actTab n.toNat).st = 1 → s.spl.replay = none → Traps (.actld a n) s s 0x0D (BitVec.ofNat 64 n.toNat)) ∧
    ((s.actTab n.toNat).st ≠ 1 → global (.actld a n) 64 pair) ∧
    object (.acq p a scr) ∧ object (.rel p a scr) ∧
    word (.bari sp a b) ∧ word (.bara sp d a b) ∧ word (.bart sp d a b) ∧ word (.barq sp d a) ∧
    (s.spl.replay ≠ some State.woken → word (.barw sp a b)) ∧
    command (.scp q p a b) direct (patBytes pat) all ∧ command (.scpo q p a b) direct (patBytes pat) all ∧
    command (.sgath q p a b) (patIndirect pat) (patBytes pat) all ∧ command (.sscat q p a b) (patIndirect pat) (patBytes pat) all ∧
    command (.sdeq q p a b) (patDequant pat) 64 (64 * patElems pat) ∧
    command (.sxpos q p a b) (patTranspose pat) 32 (8 * patBytes pat * (32 * ((patElems pat + 255) / 256))) ∧
    (engHeld s.grp < 32 →
      (off % 4 ≠ 0 ∨ w % 4 ≠ 0 → Traps (.sfill d a b) s s 0x03 (place off)) ∧
      (off % 4 = 0 → w % 4 = 0 → limit < off + w → limit < off + 4 * e + 4 → (∀ k, k < e → off + 4 * k + 4 ≤ limit) →
        Traps (.sfill d a b) s s 0x04 (place (off + 4 * e))))

/-- R227, R228: where an access of some lanes faults in translation, the lanes whose accesses succeed are performed once, and the split parks with
the others recorded: it stands at its word. t and rs are what translation answers, lane by lane. A scalar store that faults, or meets a poisoned
sector, is recorded in the event queue. -/
def Claims.AccessesPark : Prop :=
  ∀ (s t : State) (d v : BitVec 8) (j : BitVec 6) (h : BitVec 2) (sc : Scope) (rs : List (Nat × Nat × Reach)),
    Running s → FlagFree s → s.acqBusy = false → s.grp.sb.length < 32 → Running t →
    let at_ := s.addrFM v.toNat j.toNat
    let stands := fun (i : Instr) (id : Nat) => { s.spl with
      status := .parked id, lastIssue := s.clock, held := none, replay := none, last := some (frameHere i s.spl) }
    let parks := fun (i : Instr) (acc : AccType) (n : Nat) (more : State → Prop) =>
      reachLanes acc n ((accessing s).map fun l => (l, at_ l)) (startWord (encode i) s) = (t, rs) → (∀ l ∈ accessing s, at_ l % n = 0) →
      (∀ r ∈ rs, (∃ pa, r.2.2 = .ok pa ∧ t.rangeOf pa ≠ .host ∧ t.sbHit s.focus.blk s.focus.grp r.1 false pa n = false ∧
        t.atomAhead r.1 pa n = false) ∨ ∃ k, r.2.2 = .fault k) →
      ∀ r, rs.find? (fun x => match x.2.2 with | .fault _ => true | _ => false) = some r →
      ∃ u id m, exec i s = .next u ∧ u.spl = { stands i id with holds := u.spl.holds } ∧
        u.parkOf id = { fn := t.fn, die := t.blk.die, who := .split s.focus.blk s.focus.grp s.focus.ent, poison := false, va := r.2.1,
                        lanes := m } ∧
        (∀ l, m.getLsbD l = true ↔ ∃ x ∈ rs, x.1 = l ∧ ∃ k, x.2.2 = .fault k) ∧ more u
    let loads := fun (i : Instr) (n : Nat) => parks i .read n fun u => ∃ o, u.ops.has o = true ∧ (u.opOf o).kind = .load ∧
      (u.opOf o).remote = 0 ∧ ∀ r ∈ rs, ∀ pa, r.2.2 = .ok pa → ∀ k, k < n / 4 →
        (d.toNat + k, r.1, BitVec.ofNat 32 (t.rdNum (pa + 4 * k) 4)) ∈ (u.opOf o).vres
    let bytes := fun l n => (List.range (n / 4)).flatMap fun k => toBytes 4 (s.grp.getV (d.toNat + k) l).toNat
    let stores := fun (i : Instr) (n : Nat) => parks i .write n fun u =>
      let ws : List SbWrite := rs.filterMap fun r => match r.2.2 with
        | .ok pa => some { lane := r.1, scr := false, at_ := pa, bytes := bytes r.1 n, rmw := none }
        | _ => none
      if ws = [] then u.grp.sb = s.grp.sb else ∃ e, u.grp.sb = s.grp.sb ++ [e] ∧ e.writes = ws
    loads (.ldG32 d v j h) 4 ∧ loads (.ldG64 d v j h) 8 ∧ loads (.ldG128 d v j h) 16 ∧ loads (.ldAcq d v j sc) 4 ∧
    stores (.stG32 d v j h) 4 ∧ stores (.stG64 d v j h) 8 ∧ stores (.stG128 d v j h) 16 ∧
    (fenceReady s = true → stores (.stRel d v j sc) 4) ∧
    ∀ (e a b : BitVec 7) (z : StSize) (x : Reach) (poison : Bool) (reason : Nat),
      let i := Instr.sst z e a b
      let w := startWord (encode i) s
      let va := s.addrScalar a.toNat b.toNat (stBytes z)
      let id := t.nextId
      let p : Park := { fn := t.fn, die := t.blk.die, who := .split s.focus.blk s.focus.grp s.focus.ent, poison := poison, va := va, lanes := 0 }
      va % stBytes z = 0 → w.reach w.blk va (stBytes z) .write = (t, x) → (x = .fault reason ∧ poison = false ∨ x = .poison ∧ reason = 0 ∧ poison = true) →
      Becomes i s ((({ t with nextId := id + 1, parks := t.parks.set id p } : State).event t.fn t.blk.die (if poison then 0x06 else 0x05) t.blk.core
        reason 1 t.fn va (t.ctx + id % 2 ^ 32 * 2 ^ 16)).modS (fun _ => stands i id) |>.modG
          fun g => { g with lastIssue := s.clock, overdue := false, yielded := false })

/-- Accesses that trap at issue, or park. -/
def Obligations.AccessTraps : Prop := Claims.LaneAccessTraps ∧ Claims.OneAddressTraps ∧ Claims.AccessesPark
end

