-- ==== Sys2Proof/Laws/Tables.lean ====
section
/-! SUPPORT. The laws of the sparse tables: reading after writing, and the canonical form. -/

namespace Sys2Proof

variable {α : Type} {w : Nat}

theorem Tab.get_insertKey (d : α) (k : Nat) (v : α) (m : Tab α) (h : ∀ e ∈ m, e.1 ≠ k) (q : Nat) :
    Tab.get d (insertKey k v m) q = if k = q then v else Tab.get d m q := by
  induction m with
  | nil => simp [insertKey, Tab.get]
  | cons e t ih =>
    have he : k = q → e.1 ≠ q := fun hk => hk ▸ h e (by simp)
    simp only [insertKey]
    split
    · rfl
    · rw [Tab.get, Tab.get, ih fun x hx => h x (by simp [hx])]
      by_cases hk : k = q
      · rw [if_pos hk, if_neg (he hk), if_pos hk]
      · rw [if_neg hk, if_neg hk]

theorem Tab.get_del (d : α) (m : Tab α) (k q : Nat) : Tab.get d (m.del k) q = if k = q then d else Tab.get d m q := by
  induction m with
  | nil => simp [Tab.del, Tab.get]
  | cons e t ih =>
    rw [Tab.del] at ih
    rw [Tab.del, List.filter_cons]
    by_cases ha : e.1 = k
    · rw [if_neg (by simp [ha]), ih, Tab.get, ha]
      split <;> rfl
    · rw [if_pos (by simpa using ha), Tab.get, Tab.get, ih]
      by_cases hq : e.1 = q
      · rw [if_pos hq, if_pos hq, if_neg (fun hk => ha (hq.trans hk.symm))]
      · rw [if_neg hq, if_neg hq]

theorem Tab.not_mem_del (m : Tab α) (k : Nat) : ∀ e ∈ m.del k, e.1 ≠ k := by
  intro e he; simp [Tab.del] at he; exact he.2

/-- Reading any key after a write. -/
theorem Tab.get_set (d : α) (m : Tab α) (k q : Nat) (v : α) :
    Tab.get d (m.set k v) q = if k = q then v else Tab.get d m q := by
  rw [Tab.set, Tab.get_insertKey _ _ _ _ (Tab.not_mem_del m k)]
  split
  · rfl
  · next h => rw [Tab.get_del, if_neg h]

@[simp] theorem Tab.get_set_same (d : α) (m : Tab α) (k : Nat) (v : α) : Tab.get d (m.set k v) k = v := by
  simp [Tab.get_set]

theorem Tab.get_set_ne (d : α) (m : Tab α) {k q : Nat} (v : α) (h : k ≠ q) :
    Tab.get d (m.set k v) q = Tab.get d m q := by simp [Tab.get_set, h]

theorem Tab.del_insertKey (m : Tab α) (k : Nat) (v : α) : Tab.del (insertKey k v m) k = Tab.del m k := by
  induction m with
  | nil => simp [insertKey, Tab.del]
  | cons e t ih =>
    obtain ⟨a, x⟩ := e
    simp only [insertKey]
    split
    · simp [Tab.del]
    · simp only [Tab.del, List.filter_cons] at ih ⊢
      rw [ih]

/-- The second of two writes of a key counts. -/
theorem Tab.set_set (m : Tab α) (k : Nat) (x y : α) : (m.set k x).set k y = m.set k y := by
  have h : Tab.del (Tab.del m k) k = Tab.del m k := by simp [Tab.del, List.filter_filter]
  rw [Tab.set, Tab.set, Tab.del_insertKey, h, ← Tab.set]

/-- Reading after every record is changed where it stands. -/
theorem Tab.get_map (d : α) (f : Nat → α → α) (m : Tab α) (q : Nat) (h : f q d = d) :
    Tab.get d (m.map fun e => (e.1, f e.1 e.2)) q = f q (Tab.get d m q) := by
  induction m with
  | nil => simp [Tab.get, h]
  | cons e t ih =>
    obtain ⟨a, x⟩ := e
    simp only [List.map_cons, Tab.get]
    split
    · next ha => subst ha; rfl
    · exact ih

/-- A sparse table is a table whose default is 0. -/
theorem Cells.get_eq (m : Cells w) (q : Nat) : Cells.get m q = Tab.get 0 m q := by
  induction m with
  | nil => rfl
  | cons e t ih => rw [Cells.get, Tab.get, ih]

theorem Cells.get_insertKey (k : Nat) (v : BitVec w) (m : Cells w) (h : ∀ e ∈ m, e.1 ≠ k) (q : Nat) :
    Cells.get (insertKey k v m) q = if k = q then v else Cells.get m q := by
  simpa only [Cells.get_eq] using Tab.get_insertKey 0 k v m h q

theorem Cells.get_filter (m : Cells w) (k q : Nat) :
    Cells.get (m.filter fun e => e.1 ≠ k) q = if k = q then 0 else Cells.get m q := by
  simpa only [Cells.get_eq, Tab.del] using Tab.get_del 0 m k q

/-- Reading any key after a write. -/
theorem Cells.get_set (m : Cells w) (k q : Nat) (v : BitVec w) :
    Cells.get (m.set k v) q = if k = q then v else Cells.get m q := by
  simp only [Cells.set]
  split
  · next h => rw [Cells.get_filter]; split <;> simp [h]
  · rw [Cells.get_insertKey]
    · split
      · rfl
      · next h => rw [Cells.get_filter]; simp [h]
    · intro e he; simp at he; exact he.2

@[simp] theorem Cells.get_set_same (m : Cells w) (k : Nat) (v : BitVec w) : Cells.get (m.set k v) k = v := by
  simp [Cells.get_set]

theorem Cells.get_set_ne (m : Cells w) {k q : Nat} (v : BitVec w) (h : k ≠ q) :
    Cells.get (m.set k v) q = Cells.get m q := by simp [Cells.get_set, h]

/-! ### The canonical form -/

theorem Cells.wf_cons {a : Nat} {v : BitVec w} {t : Cells w} :
    Cells.wf ((a, v) :: t) = true ↔ v ≠ 0 ∧ (∀ e ∈ t, a < e.1) ∧ Cells.wf t = true := by
  simp [Cells.wf, and_assoc]

theorem Cells.wf_filter (p : Nat × BitVec w → Bool) {m : Cells w} (h : Cells.wf m = true) : Cells.wf (m.filter p) = true := by
  induction m with
  | nil => rfl
  | cons e t ih =>
    obtain ⟨a, v⟩ := e
    rw [Cells.wf_cons] at h
    rw [List.filter_cons]
    split
    · rw [Cells.wf_cons]
      exact ⟨h.1, fun e he => h.2.1 e (List.mem_filter.mp he).1, ih h.2.2⟩
    · exact ih h.2.2

theorem mem_insertKey {k : Nat} {v : α} {m : List (Nat × α)} {e : Nat × α} (h : e ∈ insertKey k v m) :
    e = (k, v) ∨ e ∈ m := by
  induction m with
  | nil => simp [insertKey] at h; exact .inl h
  | cons x t ih =>
    simp only [insertKey] at h
    split at h
    · simpa using h
    · rcases List.mem_cons.mp h with rfl | h
      · simp
      · rcases ih h with h | h <;> simp [h]

theorem Cells.wf_insertKey {k : Nat} {v : BitVec w} {m : Cells w} (hv : v ≠ 0) (hk : ∀ e ∈ m, e.1 ≠ k)
    (h : Cells.wf m = true) : Cells.wf (insertKey k v m) = true := by
  induction m with
  | nil => rw [insertKey, Cells.wf_cons]; exact ⟨hv, by simp, rfl⟩
  | cons e t ih =>
    obtain ⟨a, x⟩ := e
    have ha : a ≠ k := hk (a, x) (by simp)
    simp only [insertKey]
    rw [Cells.wf_cons] at h
    split
    · next hlt =>
      rw [Cells.wf_cons]
      refine ⟨hv, fun e he => ?_, Cells.wf_cons.mpr h⟩
      rcases List.mem_cons.mp he with rfl | he
      · exact hlt
      · exact Nat.lt_trans hlt (h.2.1 e he)
    · next hlt =>
      rw [Cells.wf_cons]
      refine ⟨h.1, fun e he => ?_, ih (fun e he => hk e (by simp [he])) h.2.2⟩
      rcases mem_insertKey he with rfl | he
      · simp only; omega
      · exact h.2.1 e he

/-- A write keeps the canonical form. -/
theorem Cells.wf_set {m : Cells w} (k : Nat) (v : BitVec w) (h : Cells.wf m = true) : Cells.wf (m.set k v) = true := by
  simp only [Cells.set]
  split
  · exact Cells.wf_filter _ h
  · next hv => exact Cells.wf_insertKey hv (fun e he => by simp at he; exact he.2) (Cells.wf_filter _ h)

namespace Machine

/-! ### Bytes -/

theorem putBytes_wf {m : Cells 8} (a : Nat) (bs : List Byte) (h : Cells.wf m = true) :
    Cells.wf (putBytes m a bs) = true := by
  induction bs generalizing m a with
  | nil => exact h
  | cons b t ih => exact ih (a + 1) (Cells.wf_set a b h)

/-- A byte outside the bytes written reads as before. -/
theorem get_putBytes_outside (m : Cells 8) (a : Nat) (bs : List Byte) (q : Nat) (h : q < a ∨ a + bs.length ≤ q) :
    Cells.get (putBytes m a bs) q = Cells.get m q := by
  induction bs generalizing m a with
  | nil => rfl
  | cons b t ih =>
    simp only [List.length_cons] at h
    rw [putBytes, ih _ _ (by omega), Cells.get_set_ne _ _ (by omega)]

/-- A byte inside the bytes written reads as written. -/
theorem get_putBytes_inside (m : Cells 8) (a : Nat) (bs : List Byte) (i : Nat) (h : i < bs.length) :
    Cells.get (putBytes m a bs) (a + i) = bs[i] := by
  induction bs generalizing m a i with
  | nil => simp at h
  | cons b t ih =>
    cases i with
    | zero => rw [putBytes, Nat.add_zero, get_putBytes_outside _ _ _ _ (.inl (by omega))]; simp
    | succ i =>
      simp only [List.length_cons] at h
      rw [putBytes, show a + (i + 1) = a + 1 + i by omega, ih _ _ _ (by omega)]; simp

/-- The bytes written are the bytes read. -/
theorem getBytes_putBytes (m : Cells 8) (a : Nat) (bs : List Byte) : getBytes (putBytes m a bs) a bs.length = bs := by
  apply List.ext_getElem
  · simp [getBytes]
  · intro i h1 h2
    simp [getBytes, get_putBytes_inside m a bs i h2]

@[simp] theorem length_toBytes (n x : Nat) : (toBytes n x).length = n := by
  induction n generalizing x with
  | zero => rfl
  | succ n ih => simp [toBytes, ih]

/-- The bytes of a number are the number again, modulo their width. -/
theorem ofBytes_toBytes (n x : Nat) : ofBytes (toBytes n x) = x % 256 ^ n := by
  induction n generalizing x with
  | zero => simp [toBytes, ofBytes, Nat.mod_one]
  | succ n ih =>
    rw [toBytes, ofBytes, ih, BitVec.toNat_ofNat, show 256 ^ (n + 1) = 256 * 256 ^ n by rw [Nat.pow_succ, Nat.mul_comm],
      Nat.mod_mul]

end Machine
end Sys2Proof
end

