-- ==== Sys2Proof/Laws/State.lean ====
section
/-! SUPPORT. What each update of the state leaves alone, one lemma per field and update, and what each accessor reads after it. -/

namespace Sys2Proof.Machine

variable (s : State)

/-! ### setBlk -/

@[simp] theorem State.setBlk_lpddr (b : Nat) (x : Block) : (s.setBlk b x).lpddr = s.lpddr := rfl
@[simp] theorem State.setBlk_mem (b : Nat) (x : Block) : (s.setBlk b x).mem = s.mem := rfl
@[simp] theorem State.setBlk_poison (b : Nat) (x : Block) : (s.setBlk b x).poison = s.poison := rfl
@[simp] theorem State.setBlk_grids (b : Nat) (x : Block) : (s.setBlk b x).grids = s.grids := rfl
@[simp] theorem State.setBlk_dies (b : Nat) (x : Block) : (s.setBlk b x).dies = s.dies := rfl
@[simp] theorem State.setBlk_cores (b : Nat) (x : Block) : (s.setBlk b x).cores = s.cores := rfl
@[simp] theorem State.setBlk_queues (b : Nat) (x : Block) : (s.setBlk b x).queues = s.queues := rfl
@[simp] theorem State.setBlk_fns (b : Nat) (x : Block) : (s.setBlk b x).fns = s.fns := rfl
@[simp] theorem State.setBlk_evq (b : Nat) (x : Block) : (s.setBlk b x).evq = s.evq := rfl
@[simp] theorem State.setBlk_l2tlb (b : Nat) (x : Block) : (s.setBlk b x).l2tlb = s.l2tlb := rfl
@[simp] theorem State.setBlk_ops (b : Nat) (x : Block) : (s.setBlk b x).ops = s.ops := rfl
@[simp] theorem State.setBlk_parks (b : Nat) (x : Block) : (s.setBlk b x).parks = s.parks := rfl
@[simp] theorem State.setBlk_pkts (b : Nat) (x : Block) : (s.setBlk b x).pkts = s.pkts := rfl
@[simp] theorem State.setBlk_cells (b : Nat) (x : Block) : (s.setBlk b x).cells = s.cells := rfl
@[simp] theorem State.setBlk_fabric (b : Nat) (x : Block) : (s.setBlk b x).fabric = s.fabric := rfl
@[simp] theorem State.setBlk_hdmcfg (b : Nat) (x : Block) : (s.setBlk b x).hdmcfg = s.hdmcfg := rfl
@[simp] theorem State.setBlk_pwrctl (b : Nat) (x : Block) : (s.setBlk b x).pwrctl = s.pwrctl := rfl
@[simp] theorem State.setBlk_pwrstat (b : Nat) (x : Block) : (s.setBlk b x).pwrstat = s.pwrstat := rfl
@[simp] theorem State.setBlk_upViral (b : Nat) (x : Block) : (s.setBlk b x).upViral = s.upViral := rfl
@[simp] theorem State.setBlk_snoops (b : Nat) (x : Block) : (s.setBlk b x).snoops = s.snoops := rfl
@[simp] theorem State.setBlk_hostShared (b : Nat) (x : Block) : (s.setBlk b x).hostShared = s.hostShared := rfl
@[simp] theorem State.setBlk_snoopHeld (b : Nat) (x : Block) : (s.setBlk b x).snoopHeld = s.snoopHeld := rfl
@[simp] theorem State.setBlk_revoking (b : Nat) (x : Block) : (s.setBlk b x).revoking = s.revoking := rfl
@[simp] theorem State.setBlk_remotes (b : Nat) (x : Block) : (s.setBlk b x).remotes = s.remotes := rfl
@[simp] theorem State.setBlk_far (b : Nat) (x : Block) : (s.setBlk b x).far = s.far := rfl
@[simp] theorem State.setBlk_farNow (b : Nat) (x : Block) : (s.setBlk b x).farNow = s.farNow := rfl
@[simp] theorem State.setBlk_farPos (b : Nat) (x : Block) : (s.setBlk b x).farPos = s.farPos := rfl
@[simp] theorem State.setBlk_farAsk (b : Nat) (x : Block) : (s.setBlk b x).farAsk = s.farAsk := rfl
@[simp] theorem State.setBlk_sessions (b : Nat) (x : Block) : (s.setBlk b x).sessions = s.sessions := rfl
@[simp] theorem State.setBlk_tasks (b : Nat) (x : Block) : (s.setBlk b x).tasks = s.tasks := rfl
@[simp] theorem State.setBlk_gangs (b : Nat) (x : Block) : (s.setBlk b x).gangs = s.gangs := rfl
@[simp] theorem State.setBlk_outbox (b : Nat) (x : Block) : (s.setBlk b x).outbox = s.outbox := rfl
@[simp] theorem State.setBlk_focus (b : Nat) (x : Block) : (s.setBlk b x).focus = s.focus := rfl
@[simp] theorem State.setBlk_agenda (b : Nat) (x : Block) : (s.setBlk b x).agenda = s.agenda := rfl
@[simp] theorem State.setBlk_later (b : Nat) (x : Block) : (s.setBlk b x).later = s.later := rfl
@[simp] theorem State.setBlk_tick (b : Nat) (x : Block) : (s.setBlk b x).tick = s.tick := rfl
@[simp] theorem State.setBlk_nextId (b : Nat) (x : Block) : (s.setBlk b x).nextId = s.nextId := rfl
@[simp] theorem State.setBlk_clock (b : Nat) (x : Block) : (s.setBlk b x).clock = s.clock := rfl
@[simp] theorem State.setBlk_epoch (b : Nat) (x : Block) : (s.setBlk b x).epoch = s.epoch := rfl
@[simp] theorem State.setBlk_window (b : Nat) (x : Block) : (s.setBlk b x).window = s.window := rfl
@[simp] theorem State.setBlk_boots (b : Nat) (x : Block) : (s.setBlk b x).boots = s.boots := rfl

/-! ### modBlk -/

@[simp] theorem State.modBlk_lpddr (b : Nat) (f : Block → Block) : (s.modBlk b f).lpddr = s.lpddr := rfl
@[simp] theorem State.modBlk_mem (b : Nat) (f : Block → Block) : (s.modBlk b f).mem = s.mem := rfl
@[simp] theorem State.modBlk_poison (b : Nat) (f : Block → Block) : (s.modBlk b f).poison = s.poison := rfl
@[simp] theorem State.modBlk_grids (b : Nat) (f : Block → Block) : (s.modBlk b f).grids = s.grids := rfl
@[simp] theorem State.modBlk_dies (b : Nat) (f : Block → Block) : (s.modBlk b f).dies = s.dies := rfl
@[simp] theorem State.modBlk_cores (b : Nat) (f : Block → Block) : (s.modBlk b f).cores = s.cores := rfl
@[simp] theorem State.modBlk_queues (b : Nat) (f : Block → Block) : (s.modBlk b f).queues = s.queues := rfl
@[simp] theorem State.modBlk_fns (b : Nat) (f : Block → Block) : (s.modBlk b f).fns = s.fns := rfl
@[simp] theorem State.modBlk_evq (b : Nat) (f : Block → Block) : (s.modBlk b f).evq = s.evq := rfl
@[simp] theorem State.modBlk_l2tlb (b : Nat) (f : Block → Block) : (s.modBlk b f).l2tlb = s.l2tlb := rfl
@[simp] theorem State.modBlk_ops (b : Nat) (f : Block → Block) : (s.modBlk b f).ops = s.ops := rfl
@[simp] theorem State.modBlk_parks (b : Nat) (f : Block → Block) : (s.modBlk b f).parks = s.parks := rfl
@[simp] theorem State.modBlk_pkts (b : Nat) (f : Block → Block) : (s.modBlk b f).pkts = s.pkts := rfl
@[simp] theorem State.modBlk_cells (b : Nat) (f : Block → Block) : (s.modBlk b f).cells = s.cells := rfl
@[simp] theorem State.modBlk_fabric (b : Nat) (f : Block → Block) : (s.modBlk b f).fabric = s.fabric := rfl
@[simp] theorem State.modBlk_hdmcfg (b : Nat) (f : Block → Block) : (s.modBlk b f).hdmcfg = s.hdmcfg := rfl
@[simp] theorem State.modBlk_pwrctl (b : Nat) (f : Block → Block) : (s.modBlk b f).pwrctl = s.pwrctl := rfl
@[simp] theorem State.modBlk_pwrstat (b : Nat) (f : Block → Block) : (s.modBlk b f).pwrstat = s.pwrstat := rfl
@[simp] theorem State.modBlk_upViral (b : Nat) (f : Block → Block) : (s.modBlk b f).upViral = s.upViral := rfl
@[simp] theorem State.modBlk_snoops (b : Nat) (f : Block → Block) : (s.modBlk b f).snoops = s.snoops := rfl
@[simp] theorem State.modBlk_hostShared (b : Nat) (f : Block → Block) : (s.modBlk b f).hostShared = s.hostShared := rfl
@[simp] theorem State.modBlk_snoopHeld (b : Nat) (f : Block → Block) : (s.modBlk b f).snoopHeld = s.snoopHeld := rfl
@[simp] theorem State.modBlk_revoking (b : Nat) (f : Block → Block) : (s.modBlk b f).revoking = s.revoking := rfl
@[simp] theorem State.modBlk_remotes (b : Nat) (f : Block → Block) : (s.modBlk b f).remotes = s.remotes := rfl
@[simp] theorem State.modBlk_far (b : Nat) (f : Block → Block) : (s.modBlk b f).far = s.far := rfl
@[simp] theorem State.modBlk_farNow (b : Nat) (f : Block → Block) : (s.modBlk b f).farNow = s.farNow := rfl
@[simp] theorem State.modBlk_farPos (b : Nat) (f : Block → Block) : (s.modBlk b f).farPos = s.farPos := rfl
@[simp] theorem State.modBlk_farAsk (b : Nat) (f : Block → Block) : (s.modBlk b f).farAsk = s.farAsk := rfl
@[simp] theorem State.modBlk_sessions (b : Nat) (f : Block → Block) : (s.modBlk b f).sessions = s.sessions := rfl
@[simp] theorem State.modBlk_tasks (b : Nat) (f : Block → Block) : (s.modBlk b f).tasks = s.tasks := rfl
@[simp] theorem State.modBlk_gangs (b : Nat) (f : Block → Block) : (s.modBlk b f).gangs = s.gangs := rfl
@[simp] theorem State.modBlk_outbox (b : Nat) (f : Block → Block) : (s.modBlk b f).outbox = s.outbox := rfl
@[simp] theorem State.modBlk_focus (b : Nat) (f : Block → Block) : (s.modBlk b f).focus = s.focus := rfl
@[simp] theorem State.modBlk_agenda (b : Nat) (f : Block → Block) : (s.modBlk b f).agenda = s.agenda := rfl
@[simp] theorem State.modBlk_later (b : Nat) (f : Block → Block) : (s.modBlk b f).later = s.later := rfl
@[simp] theorem State.modBlk_tick (b : Nat) (f : Block → Block) : (s.modBlk b f).tick = s.tick := rfl
@[simp] theorem State.modBlk_nextId (b : Nat) (f : Block → Block) : (s.modBlk b f).nextId = s.nextId := rfl
@[simp] theorem State.modBlk_clock (b : Nat) (f : Block → Block) : (s.modBlk b f).clock = s.clock := rfl
@[simp] theorem State.modBlk_epoch (b : Nat) (f : Block → Block) : (s.modBlk b f).epoch = s.epoch := rfl
@[simp] theorem State.modBlk_window (b : Nat) (f : Block → Block) : (s.modBlk b f).window = s.window := rfl
@[simp] theorem State.modBlk_boots (b : Nat) (f : Block → Block) : (s.modBlk b f).boots = s.boots := rfl

/-! ### modGrp -/

@[simp] theorem State.modGrp_lpddr (b g : Nat) (f : Group → Group) : (s.modGrp b g f).lpddr = s.lpddr := rfl
@[simp] theorem State.modGrp_mem (b g : Nat) (f : Group → Group) : (s.modGrp b g f).mem = s.mem := rfl
@[simp] theorem State.modGrp_poison (b g : Nat) (f : Group → Group) : (s.modGrp b g f).poison = s.poison := rfl
@[simp] theorem State.modGrp_grids (b g : Nat) (f : Group → Group) : (s.modGrp b g f).grids = s.grids := rfl
@[simp] theorem State.modGrp_dies (b g : Nat) (f : Group → Group) : (s.modGrp b g f).dies = s.dies := rfl
@[simp] theorem State.modGrp_cores (b g : Nat) (f : Group → Group) : (s.modGrp b g f).cores = s.cores := rfl
@[simp] theorem State.modGrp_queues (b g : Nat) (f : Group → Group) : (s.modGrp b g f).queues = s.queues := rfl
@[simp] theorem State.modGrp_fns (b g : Nat) (f : Group → Group) : (s.modGrp b g f).fns = s.fns := rfl
@[simp] theorem State.modGrp_evq (b g : Nat) (f : Group → Group) : (s.modGrp b g f).evq = s.evq := rfl
@[simp] theorem State.modGrp_l2tlb (b g : Nat) (f : Group → Group) : (s.modGrp b g f).l2tlb = s.l2tlb := rfl
@[simp] theorem State.modGrp_ops (b g : Nat) (f : Group → Group) : (s.modGrp b g f).ops = s.ops := rfl
@[simp] theorem State.modGrp_parks (b g : Nat) (f : Group → Group) : (s.modGrp b g f).parks = s.parks := rfl
@[simp] theorem State.modGrp_pkts (b g : Nat) (f : Group → Group) : (s.modGrp b g f).pkts = s.pkts := rfl
@[simp] theorem State.modGrp_cells (b g : Nat) (f : Group → Group) : (s.modGrp b g f).cells = s.cells := rfl
@[simp] theorem State.modGrp_fabric (b g : Nat) (f : Group → Group) : (s.modGrp b g f).fabric = s.fabric := rfl
@[simp] theorem State.modGrp_hdmcfg (b g : Nat) (f : Group → Group) : (s.modGrp b g f).hdmcfg = s.hdmcfg := rfl
@[simp] theorem State.modGrp_pwrctl (b g : Nat) (f : Group → Group) : (s.modGrp b g f).pwrctl = s.pwrctl := rfl
@[simp] theorem State.modGrp_pwrstat (b g : Nat) (f : Group → Group) : (s.modGrp b g f).pwrstat = s.pwrstat := rfl
@[simp] theorem State.modGrp_upViral (b g : Nat) (f : Group → Group) : (s.modGrp b g f).upViral = s.upViral := rfl
@[simp] theorem State.modGrp_snoops (b g : Nat) (f : Group → Group) : (s.modGrp b g f).snoops = s.snoops := rfl
@[simp] theorem State.modGrp_hostShared (b g : Nat) (f : Group → Group) : (s.modGrp b g f).hostShared = s.hostShared := rfl
@[simp] theorem State.modGrp_snoopHeld (b g : Nat) (f : Group → Group) : (s.modGrp b g f).snoopHeld = s.snoopHeld := rfl
@[simp] theorem State.modGrp_revoking (b g : Nat) (f : Group → Group) : (s.modGrp b g f).revoking = s.revoking := rfl
@[simp] theorem State.modGrp_remotes (b g : Nat) (f : Group → Group) : (s.modGrp b g f).remotes = s.remotes := rfl
@[simp] theorem State.modGrp_far (b g : Nat) (f : Group → Group) : (s.modGrp b g f).far = s.far := rfl
@[simp] theorem State.modGrp_farNow (b g : Nat) (f : Group → Group) : (s.modGrp b g f).farNow = s.farNow := rfl
@[simp] theorem State.modGrp_farPos (b g : Nat) (f : Group → Group) : (s.modGrp b g f).farPos = s.farPos := rfl
@[simp] theorem State.modGrp_farAsk (b g : Nat) (f : Group → Group) : (s.modGrp b g f).farAsk = s.farAsk := rfl
@[simp] theorem State.modGrp_sessions (b g : Nat) (f : Group → Group) : (s.modGrp b g f).sessions = s.sessions := rfl
@[simp] theorem State.modGrp_tasks (b g : Nat) (f : Group → Group) : (s.modGrp b g f).tasks = s.tasks := rfl
@[simp] theorem State.modGrp_gangs (b g : Nat) (f : Group → Group) : (s.modGrp b g f).gangs = s.gangs := rfl
@[simp] theorem State.modGrp_outbox (b g : Nat) (f : Group → Group) : (s.modGrp b g f).outbox = s.outbox := rfl
@[simp] theorem State.modGrp_focus (b g : Nat) (f : Group → Group) : (s.modGrp b g f).focus = s.focus := rfl
@[simp] theorem State.modGrp_agenda (b g : Nat) (f : Group → Group) : (s.modGrp b g f).agenda = s.agenda := rfl
@[simp] theorem State.modGrp_later (b g : Nat) (f : Group → Group) : (s.modGrp b g f).later = s.later := rfl
@[simp] theorem State.modGrp_tick (b g : Nat) (f : Group → Group) : (s.modGrp b g f).tick = s.tick := rfl
@[simp] theorem State.modGrp_nextId (b g : Nat) (f : Group → Group) : (s.modGrp b g f).nextId = s.nextId := rfl
@[simp] theorem State.modGrp_clock (b g : Nat) (f : Group → Group) : (s.modGrp b g f).clock = s.clock := rfl
@[simp] theorem State.modGrp_epoch (b g : Nat) (f : Group → Group) : (s.modGrp b g f).epoch = s.epoch := rfl
@[simp] theorem State.modGrp_window (b g : Nat) (f : Group → Group) : (s.modGrp b g f).window = s.window := rfl
@[simp] theorem State.modGrp_boots (b g : Nat) (f : Group → Group) : (s.modGrp b g f).boots = s.boots := rfl

/-! ### modSplOf -/

@[simp] theorem State.modSplOf_lpddr (b g e : Nat) (f : Split → Split) : (s.modSplOf b g e f).lpddr = s.lpddr := rfl
@[simp] theorem State.modSplOf_mem (b g e : Nat) (f : Split → Split) : (s.modSplOf b g e f).mem = s.mem := rfl
@[simp] theorem State.modSplOf_poison (b g e : Nat) (f : Split → Split) : (s.modSplOf b g e f).poison = s.poison := rfl
@[simp] theorem State.modSplOf_grids (b g e : Nat) (f : Split → Split) : (s.modSplOf b g e f).grids = s.grids := rfl
@[simp] theorem State.modSplOf_dies (b g e : Nat) (f : Split → Split) : (s.modSplOf b g e f).dies = s.dies := rfl
@[simp] theorem State.modSplOf_cores (b g e : Nat) (f : Split → Split) : (s.modSplOf b g e f).cores = s.cores := rfl
@[simp] theorem State.modSplOf_queues (b g e : Nat) (f : Split → Split) : (s.modSplOf b g e f).queues = s.queues := rfl
@[simp] theorem State.modSplOf_fns (b g e : Nat) (f : Split → Split) : (s.modSplOf b g e f).fns = s.fns := rfl
@[simp] theorem State.modSplOf_evq (b g e : Nat) (f : Split → Split) : (s.modSplOf b g e f).evq = s.evq := rfl
@[simp] theorem State.modSplOf_l2tlb (b g e : Nat) (f : Split → Split) : (s.modSplOf b g e f).l2tlb = s.l2tlb := rfl
@[simp] theorem State.modSplOf_ops (b g e : Nat) (f : Split → Split) : (s.modSplOf b g e f).ops = s.ops := rfl
@[simp] theorem State.modSplOf_parks (b g e : Nat) (f : Split → Split) : (s.modSplOf b g e f).parks = s.parks := rfl
@[simp] theorem State.modSplOf_pkts (b g e : Nat) (f : Split → Split) : (s.modSplOf b g e f).pkts = s.pkts := rfl
@[simp] theorem State.modSplOf_cells (b g e : Nat) (f : Split → Split) : (s.modSplOf b g e f).cells = s.cells := rfl
@[simp] theorem State.modSplOf_fabric (b g e : Nat) (f : Split → Split) : (s.modSplOf b g e f).fabric = s.fabric := rfl
@[simp] theorem State.modSplOf_hdmcfg (b g e : Nat) (f : Split → Split) : (s.modSplOf b g e f).hdmcfg = s.hdmcfg := rfl
@[simp] theorem State.modSplOf_pwrctl (b g e : Nat) (f : Split → Split) : (s.modSplOf b g e f).pwrctl = s.pwrctl := rfl
@[simp] theorem State.modSplOf_pwrstat (b g e : Nat) (f : Split → Split) : (s.modSplOf b g e f).pwrstat = s.pwrstat := rfl
@[simp] theorem State.modSplOf_upViral (b g e : Nat) (f : Split → Split) : (s.modSplOf b g e f).upViral = s.upViral := rfl
@[simp] theorem State.modSplOf_snoops (b g e : Nat) (f : Split → Split) : (s.modSplOf b g e f).snoops = s.snoops := rfl
@[simp] theorem State.modSplOf_hostShared (b g e : Nat) (f : Split → Split) : (s.modSplOf b g e f).hostShared = s.hostShared := rfl
@[simp] theorem State.modSplOf_snoopHeld (b g e : Nat) (f : Split → Split) : (s.modSplOf b g e f).snoopHeld = s.snoopHeld := rfl
@[simp] theorem State.modSplOf_revoking (b g e : Nat) (f : Split → Split) : (s.modSplOf b g e f).revoking = s.revoking := rfl
@[simp] theorem State.modSplOf_remotes (b g e : Nat) (f : Split → Split) : (s.modSplOf b g e f).remotes = s.remotes := rfl
@[simp] theorem State.modSplOf_far (b g e : Nat) (f : Split → Split) : (s.modSplOf b g e f).far = s.far := rfl
@[simp] theorem State.modSplOf_farNow (b g e : Nat) (f : Split → Split) : (s.modSplOf b g e f).farNow = s.farNow := rfl
@[simp] theorem State.modSplOf_farPos (b g e : Nat) (f : Split → Split) : (s.modSplOf b g e f).farPos = s.farPos := rfl
@[simp] theorem State.modSplOf_farAsk (b g e : Nat) (f : Split → Split) : (s.modSplOf b g e f).farAsk = s.farAsk := rfl
@[simp] theorem State.modSplOf_sessions (b g e : Nat) (f : Split → Split) : (s.modSplOf b g e f).sessions = s.sessions := rfl
@[simp] theorem State.modSplOf_tasks (b g e : Nat) (f : Split → Split) : (s.modSplOf b g e f).tasks = s.tasks := rfl
@[simp] theorem State.modSplOf_gangs (b g e : Nat) (f : Split → Split) : (s.modSplOf b g e f).gangs = s.gangs := rfl
@[simp] theorem State.modSplOf_outbox (b g e : Nat) (f : Split → Split) : (s.modSplOf b g e f).outbox = s.outbox := rfl
@[simp] theorem State.modSplOf_focus (b g e : Nat) (f : Split → Split) : (s.modSplOf b g e f).focus = s.focus := rfl
@[simp] theorem State.modSplOf_agenda (b g e : Nat) (f : Split → Split) : (s.modSplOf b g e f).agenda = s.agenda := rfl
@[simp] theorem State.modSplOf_later (b g e : Nat) (f : Split → Split) : (s.modSplOf b g e f).later = s.later := rfl
@[simp] theorem State.modSplOf_tick (b g e : Nat) (f : Split → Split) : (s.modSplOf b g e f).tick = s.tick := rfl
@[simp] theorem State.modSplOf_nextId (b g e : Nat) (f : Split → Split) : (s.modSplOf b g e f).nextId = s.nextId := rfl
@[simp] theorem State.modSplOf_clock (b g e : Nat) (f : Split → Split) : (s.modSplOf b g e f).clock = s.clock := rfl
@[simp] theorem State.modSplOf_epoch (b g e : Nat) (f : Split → Split) : (s.modSplOf b g e f).epoch = s.epoch := rfl
@[simp] theorem State.modSplOf_window (b g e : Nat) (f : Split → Split) : (s.modSplOf b g e f).window = s.window := rfl
@[simp] theorem State.modSplOf_boots (b g e : Nat) (f : Split → Split) : (s.modSplOf b g e f).boots = s.boots := rfl

/-! ### modB -/

@[simp] theorem State.modB_lpddr (f : Block → Block) : (s.modB f).lpddr = s.lpddr := rfl
@[simp] theorem State.modB_mem (f : Block → Block) : (s.modB f).mem = s.mem := rfl
@[simp] theorem State.modB_poison (f : Block → Block) : (s.modB f).poison = s.poison := rfl
@[simp] theorem State.modB_grids (f : Block → Block) : (s.modB f).grids = s.grids := rfl
@[simp] theorem State.modB_dies (f : Block → Block) : (s.modB f).dies = s.dies := rfl
@[simp] theorem State.modB_cores (f : Block → Block) : (s.modB f).cores = s.cores := rfl
@[simp] theorem State.modB_queues (f : Block → Block) : (s.modB f).queues = s.queues := rfl
@[simp] theorem State.modB_fns (f : Block → Block) : (s.modB f).fns = s.fns := rfl
@[simp] theorem State.modB_evq (f : Block → Block) : (s.modB f).evq = s.evq := rfl
@[simp] theorem State.modB_l2tlb (f : Block → Block) : (s.modB f).l2tlb = s.l2tlb := rfl
@[simp] theorem State.modB_ops (f : Block → Block) : (s.modB f).ops = s.ops := rfl
@[simp] theorem State.modB_parks (f : Block → Block) : (s.modB f).parks = s.parks := rfl
@[simp] theorem State.modB_pkts (f : Block → Block) : (s.modB f).pkts = s.pkts := rfl
@[simp] theorem State.modB_cells (f : Block → Block) : (s.modB f).cells = s.cells := rfl
@[simp] theorem State.modB_fabric (f : Block → Block) : (s.modB f).fabric = s.fabric := rfl
@[simp] theorem State.modB_hdmcfg (f : Block → Block) : (s.modB f).hdmcfg = s.hdmcfg := rfl
@[simp] theorem State.modB_pwrctl (f : Block → Block) : (s.modB f).pwrctl = s.pwrctl := rfl
@[simp] theorem State.modB_pwrstat (f : Block → Block) : (s.modB f).pwrstat = s.pwrstat := rfl
@[simp] theorem State.modB_upViral (f : Block → Block) : (s.modB f).upViral = s.upViral := rfl
@[simp] theorem State.modB_snoops (f : Block → Block) : (s.modB f).snoops = s.snoops := rfl
@[simp] theorem State.modB_hostShared (f : Block → Block) : (s.modB f).hostShared = s.hostShared := rfl
@[simp] theorem State.modB_snoopHeld (f : Block → Block) : (s.modB f).snoopHeld = s.snoopHeld := rfl
@[simp] theorem State.modB_revoking (f : Block → Block) : (s.modB f).revoking = s.revoking := rfl
@[simp] theorem State.modB_remotes (f : Block → Block) : (s.modB f).remotes = s.remotes := rfl
@[simp] theorem State.modB_far (f : Block → Block) : (s.modB f).far = s.far := rfl
@[simp] theorem State.modB_farNow (f : Block → Block) : (s.modB f).farNow = s.farNow := rfl
@[simp] theorem State.modB_farPos (f : Block → Block) : (s.modB f).farPos = s.farPos := rfl
@[simp] theorem State.modB_farAsk (f : Block → Block) : (s.modB f).farAsk = s.farAsk := rfl
@[simp] theorem State.modB_sessions (f : Block → Block) : (s.modB f).sessions = s.sessions := rfl
@[simp] theorem State.modB_tasks (f : Block → Block) : (s.modB f).tasks = s.tasks := rfl
@[simp] theorem State.modB_gangs (f : Block → Block) : (s.modB f).gangs = s.gangs := rfl
@[simp] theorem State.modB_outbox (f : Block → Block) : (s.modB f).outbox = s.outbox := rfl
@[simp] theorem State.modB_focus (f : Block → Block) : (s.modB f).focus = s.focus := rfl
@[simp] theorem State.modB_agenda (f : Block → Block) : (s.modB f).agenda = s.agenda := rfl
@[simp] theorem State.modB_later (f : Block → Block) : (s.modB f).later = s.later := rfl
@[simp] theorem State.modB_tick (f : Block → Block) : (s.modB f).tick = s.tick := rfl
@[simp] theorem State.modB_nextId (f : Block → Block) : (s.modB f).nextId = s.nextId := rfl
@[simp] theorem State.modB_clock (f : Block → Block) : (s.modB f).clock = s.clock := rfl
@[simp] theorem State.modB_epoch (f : Block → Block) : (s.modB f).epoch = s.epoch := rfl
@[simp] theorem State.modB_window (f : Block → Block) : (s.modB f).window = s.window := rfl
@[simp] theorem State.modB_boots (f : Block → Block) : (s.modB f).boots = s.boots := rfl

/-! ### modG -/

@[simp] theorem State.modG_lpddr (f : Group → Group) : (s.modG f).lpddr = s.lpddr := rfl
@[simp] theorem State.modG_mem (f : Group → Group) : (s.modG f).mem = s.mem := rfl
@[simp] theorem State.modG_poison (f : Group → Group) : (s.modG f).poison = s.poison := rfl
@[simp] theorem State.modG_grids (f : Group → Group) : (s.modG f).grids = s.grids := rfl
@[simp] theorem State.modG_dies (f : Group → Group) : (s.modG f).dies = s.dies := rfl
@[simp] theorem State.modG_cores (f : Group → Group) : (s.modG f).cores = s.cores := rfl
@[simp] theorem State.modG_queues (f : Group → Group) : (s.modG f).queues = s.queues := rfl
@[simp] theorem State.modG_fns (f : Group → Group) : (s.modG f).fns = s.fns := rfl
@[simp] theorem State.modG_evq (f : Group → Group) : (s.modG f).evq = s.evq := rfl
@[simp] theorem State.modG_l2tlb (f : Group → Group) : (s.modG f).l2tlb = s.l2tlb := rfl
@[simp] theorem State.modG_ops (f : Group → Group) : (s.modG f).ops = s.ops := rfl
@[simp] theorem State.modG_parks (f : Group → Group) : (s.modG f).parks = s.parks := rfl
@[simp] theorem State.modG_pkts (f : Group → Group) : (s.modG f).pkts = s.pkts := rfl
@[simp] theorem State.modG_cells (f : Group → Group) : (s.modG f).cells = s.cells := rfl
@[simp] theorem State.modG_fabric (f : Group → Group) : (s.modG f).fabric = s.fabric := rfl
@[simp] theorem State.modG_hdmcfg (f : Group → Group) : (s.modG f).hdmcfg = s.hdmcfg := rfl
@[simp] theorem State.modG_pwrctl (f : Group → Group) : (s.modG f).pwrctl = s.pwrctl := rfl
@[simp] theorem State.modG_pwrstat (f : Group → Group) : (s.modG f).pwrstat = s.pwrstat := rfl
@[simp] theorem State.modG_upViral (f : Group → Group) : (s.modG f).upViral = s.upViral := rfl
@[simp] theorem State.modG_snoops (f : Group → Group) : (s.modG f).snoops = s.snoops := rfl
@[simp] theorem State.modG_hostShared (f : Group → Group) : (s.modG f).hostShared = s.hostShared := rfl
@[simp] theorem State.modG_snoopHeld (f : Group → Group) : (s.modG f).snoopHeld = s.snoopHeld := rfl
@[simp] theorem State.modG_revoking (f : Group → Group) : (s.modG f).revoking = s.revoking := rfl
@[simp] theorem State.modG_remotes (f : Group → Group) : (s.modG f).remotes = s.remotes := rfl
@[simp] theorem State.modG_far (f : Group → Group) : (s.modG f).far = s.far := rfl
@[simp] theorem State.modG_farNow (f : Group → Group) : (s.modG f).farNow = s.farNow := rfl
@[simp] theorem State.modG_farPos (f : Group → Group) : (s.modG f).farPos = s.farPos := rfl
@[simp] theorem State.modG_farAsk (f : Group → Group) : (s.modG f).farAsk = s.farAsk := rfl
@[simp] theorem State.modG_sessions (f : Group → Group) : (s.modG f).sessions = s.sessions := rfl
@[simp] theorem State.modG_tasks (f : Group → Group) : (s.modG f).tasks = s.tasks := rfl
@[simp] theorem State.modG_gangs (f : Group → Group) : (s.modG f).gangs = s.gangs := rfl
@[simp] theorem State.modG_outbox (f : Group → Group) : (s.modG f).outbox = s.outbox := rfl
@[simp] theorem State.modG_focus (f : Group → Group) : (s.modG f).focus = s.focus := rfl
@[simp] theorem State.modG_agenda (f : Group → Group) : (s.modG f).agenda = s.agenda := rfl
@[simp] theorem State.modG_later (f : Group → Group) : (s.modG f).later = s.later := rfl
@[simp] theorem State.modG_tick (f : Group → Group) : (s.modG f).tick = s.tick := rfl
@[simp] theorem State.modG_nextId (f : Group → Group) : (s.modG f).nextId = s.nextId := rfl
@[simp] theorem State.modG_clock (f : Group → Group) : (s.modG f).clock = s.clock := rfl
@[simp] theorem State.modG_epoch (f : Group → Group) : (s.modG f).epoch = s.epoch := rfl
@[simp] theorem State.modG_window (f : Group → Group) : (s.modG f).window = s.window := rfl
@[simp] theorem State.modG_boots (f : Group → Group) : (s.modG f).boots = s.boots := rfl

/-! ### modS -/

@[simp] theorem State.modS_lpddr (f : Split → Split) : (s.modS f).lpddr = s.lpddr := rfl
@[simp] theorem State.modS_mem (f : Split → Split) : (s.modS f).mem = s.mem := rfl
@[simp] theorem State.modS_poison (f : Split → Split) : (s.modS f).poison = s.poison := rfl
@[simp] theorem State.modS_grids (f : Split → Split) : (s.modS f).grids = s.grids := rfl
@[simp] theorem State.modS_dies (f : Split → Split) : (s.modS f).dies = s.dies := rfl
@[simp] theorem State.modS_cores (f : Split → Split) : (s.modS f).cores = s.cores := rfl
@[simp] theorem State.modS_queues (f : Split → Split) : (s.modS f).queues = s.queues := rfl
@[simp] theorem State.modS_fns (f : Split → Split) : (s.modS f).fns = s.fns := rfl
@[simp] theorem State.modS_evq (f : Split → Split) : (s.modS f).evq = s.evq := rfl
@[simp] theorem State.modS_l2tlb (f : Split → Split) : (s.modS f).l2tlb = s.l2tlb := rfl
@[simp] theorem State.modS_ops (f : Split → Split) : (s.modS f).ops = s.ops := rfl
@[simp] theorem State.modS_parks (f : Split → Split) : (s.modS f).parks = s.parks := rfl
@[simp] theorem State.modS_pkts (f : Split → Split) : (s.modS f).pkts = s.pkts := rfl
@[simp] theorem State.modS_cells (f : Split → Split) : (s.modS f).cells = s.cells := rfl
@[simp] theorem State.modS_fabric (f : Split → Split) : (s.modS f).fabric = s.fabric := rfl
@[simp] theorem State.modS_hdmcfg (f : Split → Split) : (s.modS f).hdmcfg = s.hdmcfg := rfl
@[simp] theorem State.modS_pwrctl (f : Split → Split) : (s.modS f).pwrctl = s.pwrctl := rfl
@[simp] theorem State.modS_pwrstat (f : Split → Split) : (s.modS f).pwrstat = s.pwrstat := rfl
@[simp] theorem State.modS_upViral (f : Split → Split) : (s.modS f).upViral = s.upViral := rfl
@[simp] theorem State.modS_snoops (f : Split → Split) : (s.modS f).snoops = s.snoops := rfl
@[simp] theorem State.modS_hostShared (f : Split → Split) : (s.modS f).hostShared = s.hostShared := rfl
@[simp] theorem State.modS_snoopHeld (f : Split → Split) : (s.modS f).snoopHeld = s.snoopHeld := rfl
@[simp] theorem State.modS_revoking (f : Split → Split) : (s.modS f).revoking = s.revoking := rfl
@[simp] theorem State.modS_remotes (f : Split → Split) : (s.modS f).remotes = s.remotes := rfl
@[simp] theorem State.modS_far (f : Split → Split) : (s.modS f).far = s.far := rfl
@[simp] theorem State.modS_farNow (f : Split → Split) : (s.modS f).farNow = s.farNow := rfl
@[simp] theorem State.modS_farPos (f : Split → Split) : (s.modS f).farPos = s.farPos := rfl
@[simp] theorem State.modS_farAsk (f : Split → Split) : (s.modS f).farAsk = s.farAsk := rfl
@[simp] theorem State.modS_sessions (f : Split → Split) : (s.modS f).sessions = s.sessions := rfl
@[simp] theorem State.modS_tasks (f : Split → Split) : (s.modS f).tasks = s.tasks := rfl
@[simp] theorem State.modS_gangs (f : Split → Split) : (s.modS f).gangs = s.gangs := rfl
@[simp] theorem State.modS_outbox (f : Split → Split) : (s.modS f).outbox = s.outbox := rfl
@[simp] theorem State.modS_focus (f : Split → Split) : (s.modS f).focus = s.focus := rfl
@[simp] theorem State.modS_agenda (f : Split → Split) : (s.modS f).agenda = s.agenda := rfl
@[simp] theorem State.modS_later (f : Split → Split) : (s.modS f).later = s.later := rfl
@[simp] theorem State.modS_tick (f : Split → Split) : (s.modS f).tick = s.tick := rfl
@[simp] theorem State.modS_nextId (f : Split → Split) : (s.modS f).nextId = s.nextId := rfl
@[simp] theorem State.modS_clock (f : Split → Split) : (s.modS f).clock = s.clock := rfl
@[simp] theorem State.modS_epoch (f : Split → Split) : (s.modS f).epoch = s.epoch := rfl
@[simp] theorem State.modS_window (f : Split → Split) : (s.modS f).window = s.window := rfl
@[simp] theorem State.modS_boots (f : Split → Split) : (s.modS f).boots = s.boots := rfl

/-! ### modM -/

@[simp] theorem State.modM_lpddr (f : Stream → Stream) : (s.modM f).lpddr = s.lpddr := rfl
@[simp] theorem State.modM_mem (f : Stream → Stream) : (s.modM f).mem = s.mem := rfl
@[simp] theorem State.modM_poison (f : Stream → Stream) : (s.modM f).poison = s.poison := rfl
@[simp] theorem State.modM_grids (f : Stream → Stream) : (s.modM f).grids = s.grids := rfl
@[simp] theorem State.modM_dies (f : Stream → Stream) : (s.modM f).dies = s.dies := rfl
@[simp] theorem State.modM_cores (f : Stream → Stream) : (s.modM f).cores = s.cores := rfl
@[simp] theorem State.modM_queues (f : Stream → Stream) : (s.modM f).queues = s.queues := rfl
@[simp] theorem State.modM_fns (f : Stream → Stream) : (s.modM f).fns = s.fns := rfl
@[simp] theorem State.modM_evq (f : Stream → Stream) : (s.modM f).evq = s.evq := rfl
@[simp] theorem State.modM_l2tlb (f : Stream → Stream) : (s.modM f).l2tlb = s.l2tlb := rfl
@[simp] theorem State.modM_ops (f : Stream → Stream) : (s.modM f).ops = s.ops := rfl
@[simp] theorem State.modM_parks (f : Stream → Stream) : (s.modM f).parks = s.parks := rfl
@[simp] theorem State.modM_pkts (f : Stream → Stream) : (s.modM f).pkts = s.pkts := rfl
@[simp] theorem State.modM_cells (f : Stream → Stream) : (s.modM f).cells = s.cells := rfl
@[simp] theorem State.modM_fabric (f : Stream → Stream) : (s.modM f).fabric = s.fabric := rfl
@[simp] theorem State.modM_hdmcfg (f : Stream → Stream) : (s.modM f).hdmcfg = s.hdmcfg := rfl
@[simp] theorem State.modM_pwrctl (f : Stream → Stream) : (s.modM f).pwrctl = s.pwrctl := rfl
@[simp] theorem State.modM_pwrstat (f : Stream → Stream) : (s.modM f).pwrstat = s.pwrstat := rfl
@[simp] theorem State.modM_upViral (f : Stream → Stream) : (s.modM f).upViral = s.upViral := rfl
@[simp] theorem State.modM_snoops (f : Stream → Stream) : (s.modM f).snoops = s.snoops := rfl
@[simp] theorem State.modM_hostShared (f : Stream → Stream) : (s.modM f).hostShared = s.hostShared := rfl
@[simp] theorem State.modM_snoopHeld (f : Stream → Stream) : (s.modM f).snoopHeld = s.snoopHeld := rfl
@[simp] theorem State.modM_revoking (f : Stream → Stream) : (s.modM f).revoking = s.revoking := rfl
@[simp] theorem State.modM_remotes (f : Stream → Stream) : (s.modM f).remotes = s.remotes := rfl
@[simp] theorem State.modM_far (f : Stream → Stream) : (s.modM f).far = s.far := rfl
@[simp] theorem State.modM_farNow (f : Stream → Stream) : (s.modM f).farNow = s.farNow := rfl
@[simp] theorem State.modM_farPos (f : Stream → Stream) : (s.modM f).farPos = s.farPos := rfl
@[simp] theorem State.modM_farAsk (f : Stream → Stream) : (s.modM f).farAsk = s.farAsk := rfl
@[simp] theorem State.modM_sessions (f : Stream → Stream) : (s.modM f).sessions = s.sessions := rfl
@[simp] theorem State.modM_tasks (f : Stream → Stream) : (s.modM f).tasks = s.tasks := rfl
@[simp] theorem State.modM_gangs (f : Stream → Stream) : (s.modM f).gangs = s.gangs := rfl
@[simp] theorem State.modM_outbox (f : Stream → Stream) : (s.modM f).outbox = s.outbox := rfl
@[simp] theorem State.modM_focus (f : Stream → Stream) : (s.modM f).focus = s.focus := rfl
@[simp] theorem State.modM_agenda (f : Stream → Stream) : (s.modM f).agenda = s.agenda := rfl
@[simp] theorem State.modM_later (f : Stream → Stream) : (s.modM f).later = s.later := rfl
@[simp] theorem State.modM_tick (f : Stream → Stream) : (s.modM f).tick = s.tick := rfl
@[simp] theorem State.modM_nextId (f : Stream → Stream) : (s.modM f).nextId = s.nextId := rfl
@[simp] theorem State.modM_clock (f : Stream → Stream) : (s.modM f).clock = s.clock := rfl
@[simp] theorem State.modM_epoch (f : Stream → Stream) : (s.modM f).epoch = s.epoch := rfl
@[simp] theorem State.modM_window (f : Stream → Stream) : (s.modM f).window = s.window := rfl
@[simp] theorem State.modM_boots (f : Stream → Stream) : (s.modM f).boots = s.boots := rfl

/-! ### setS -/

@[simp] theorem State.setS_lpddr (r : Nat) (v : Word) : (s.setS r v).lpddr = s.lpddr := rfl
@[simp] theorem State.setS_mem (r : Nat) (v : Word) : (s.setS r v).mem = s.mem := rfl
@[simp] theorem State.setS_poison (r : Nat) (v : Word) : (s.setS r v).poison = s.poison := rfl
@[simp] theorem State.setS_grids (r : Nat) (v : Word) : (s.setS r v).grids = s.grids := rfl
@[simp] theorem State.setS_dies (r : Nat) (v : Word) : (s.setS r v).dies = s.dies := rfl
@[simp] theorem State.setS_cores (r : Nat) (v : Word) : (s.setS r v).cores = s.cores := rfl
@[simp] theorem State.setS_queues (r : Nat) (v : Word) : (s.setS r v).queues = s.queues := rfl
@[simp] theorem State.setS_fns (r : Nat) (v : Word) : (s.setS r v).fns = s.fns := rfl
@[simp] theorem State.setS_evq (r : Nat) (v : Word) : (s.setS r v).evq = s.evq := rfl
@[simp] theorem State.setS_l2tlb (r : Nat) (v : Word) : (s.setS r v).l2tlb = s.l2tlb := rfl
@[simp] theorem State.setS_ops (r : Nat) (v : Word) : (s.setS r v).ops = s.ops := rfl
@[simp] theorem State.setS_parks (r : Nat) (v : Word) : (s.setS r v).parks = s.parks := rfl
@[simp] theorem State.setS_pkts (r : Nat) (v : Word) : (s.setS r v).pkts = s.pkts := rfl
@[simp] theorem State.setS_cells (r : Nat) (v : Word) : (s.setS r v).cells = s.cells := rfl
@[simp] theorem State.setS_fabric (r : Nat) (v : Word) : (s.setS r v).fabric = s.fabric := rfl
@[simp] theorem State.setS_hdmcfg (r : Nat) (v : Word) : (s.setS r v).hdmcfg = s.hdmcfg := rfl
@[simp] theorem State.setS_pwrctl (r : Nat) (v : Word) : (s.setS r v).pwrctl = s.pwrctl := rfl
@[simp] theorem State.setS_pwrstat (r : Nat) (v : Word) : (s.setS r v).pwrstat = s.pwrstat := rfl
@[simp] theorem State.setS_upViral (r : Nat) (v : Word) : (s.setS r v).upViral = s.upViral := rfl
@[simp] theorem State.setS_snoops (r : Nat) (v : Word) : (s.setS r v).snoops = s.snoops := rfl
@[simp] theorem State.setS_hostShared (r : Nat) (v : Word) : (s.setS r v).hostShared = s.hostShared := rfl
@[simp] theorem State.setS_snoopHeld (r : Nat) (v : Word) : (s.setS r v).snoopHeld = s.snoopHeld := rfl
@[simp] theorem State.setS_revoking (r : Nat) (v : Word) : (s.setS r v).revoking = s.revoking := rfl
@[simp] theorem State.setS_remotes (r : Nat) (v : Word) : (s.setS r v).remotes = s.remotes := rfl
@[simp] theorem State.setS_far (r : Nat) (v : Word) : (s.setS r v).far = s.far := rfl
@[simp] theorem State.setS_farNow (r : Nat) (v : Word) : (s.setS r v).farNow = s.farNow := rfl
@[simp] theorem State.setS_farPos (r : Nat) (v : Word) : (s.setS r v).farPos = s.farPos := rfl
@[simp] theorem State.setS_farAsk (r : Nat) (v : Word) : (s.setS r v).farAsk = s.farAsk := rfl
@[simp] theorem State.setS_sessions (r : Nat) (v : Word) : (s.setS r v).sessions = s.sessions := rfl
@[simp] theorem State.setS_tasks (r : Nat) (v : Word) : (s.setS r v).tasks = s.tasks := rfl
@[simp] theorem State.setS_gangs (r : Nat) (v : Word) : (s.setS r v).gangs = s.gangs := rfl
@[simp] theorem State.setS_outbox (r : Nat) (v : Word) : (s.setS r v).outbox = s.outbox := rfl
@[simp] theorem State.setS_focus (r : Nat) (v : Word) : (s.setS r v).focus = s.focus := rfl
@[simp] theorem State.setS_agenda (r : Nat) (v : Word) : (s.setS r v).agenda = s.agenda := rfl
@[simp] theorem State.setS_later (r : Nat) (v : Word) : (s.setS r v).later = s.later := rfl
@[simp] theorem State.setS_tick (r : Nat) (v : Word) : (s.setS r v).tick = s.tick := rfl
@[simp] theorem State.setS_nextId (r : Nat) (v : Word) : (s.setS r v).nextId = s.nextId := rfl
@[simp] theorem State.setS_clock (r : Nat) (v : Word) : (s.setS r v).clock = s.clock := rfl
@[simp] theorem State.setS_epoch (r : Nat) (v : Word) : (s.setS r v).epoch = s.epoch := rfl
@[simp] theorem State.setS_window (r : Nat) (v : Word) : (s.setS r v).window = s.window := rfl
@[simp] theorem State.setS_boots (r : Nat) (v : Word) : (s.setS r v).boots = s.boots := rfl

/-! ### setP -/

@[simp] theorem State.setP_lpddr (r : Nat) (v : DWord) : (s.setP r v).lpddr = s.lpddr := rfl
@[simp] theorem State.setP_mem (r : Nat) (v : DWord) : (s.setP r v).mem = s.mem := rfl
@[simp] theorem State.setP_poison (r : Nat) (v : DWord) : (s.setP r v).poison = s.poison := rfl
@[simp] theorem State.setP_grids (r : Nat) (v : DWord) : (s.setP r v).grids = s.grids := rfl
@[simp] theorem State.setP_dies (r : Nat) (v : DWord) : (s.setP r v).dies = s.dies := rfl
@[simp] theorem State.setP_cores (r : Nat) (v : DWord) : (s.setP r v).cores = s.cores := rfl
@[simp] theorem State.setP_queues (r : Nat) (v : DWord) : (s.setP r v).queues = s.queues := rfl
@[simp] theorem State.setP_fns (r : Nat) (v : DWord) : (s.setP r v).fns = s.fns := rfl
@[simp] theorem State.setP_evq (r : Nat) (v : DWord) : (s.setP r v).evq = s.evq := rfl
@[simp] theorem State.setP_l2tlb (r : Nat) (v : DWord) : (s.setP r v).l2tlb = s.l2tlb := rfl
@[simp] theorem State.setP_ops (r : Nat) (v : DWord) : (s.setP r v).ops = s.ops := rfl
@[simp] theorem State.setP_parks (r : Nat) (v : DWord) : (s.setP r v).parks = s.parks := rfl
@[simp] theorem State.setP_pkts (r : Nat) (v : DWord) : (s.setP r v).pkts = s.pkts := rfl
@[simp] theorem State.setP_cells (r : Nat) (v : DWord) : (s.setP r v).cells = s.cells := rfl
@[simp] theorem State.setP_fabric (r : Nat) (v : DWord) : (s.setP r v).fabric = s.fabric := rfl
@[simp] theorem State.setP_hdmcfg (r : Nat) (v : DWord) : (s.setP r v).hdmcfg = s.hdmcfg := rfl
@[simp] theorem State.setP_pwrctl (r : Nat) (v : DWord) : (s.setP r v).pwrctl = s.pwrctl := rfl
@[simp] theorem State.setP_pwrstat (r : Nat) (v : DWord) : (s.setP r v).pwrstat = s.pwrstat := rfl
@[simp] theorem State.setP_upViral (r : Nat) (v : DWord) : (s.setP r v).upViral = s.upViral := rfl
@[simp] theorem State.setP_snoops (r : Nat) (v : DWord) : (s.setP r v).snoops = s.snoops := rfl
@[simp] theorem State.setP_hostShared (r : Nat) (v : DWord) : (s.setP r v).hostShared = s.hostShared := rfl
@[simp] theorem State.setP_snoopHeld (r : Nat) (v : DWord) : (s.setP r v).snoopHeld = s.snoopHeld := rfl
@[simp] theorem State.setP_revoking (r : Nat) (v : DWord) : (s.setP r v).revoking = s.revoking := rfl
@[simp] theorem State.setP_remotes (r : Nat) (v : DWord) : (s.setP r v).remotes = s.remotes := rfl
@[simp] theorem State.setP_far (r : Nat) (v : DWord) : (s.setP r v).far = s.far := rfl
@[simp] theorem State.setP_farNow (r : Nat) (v : DWord) : (s.setP r v).farNow = s.farNow := rfl
@[simp] theorem State.setP_farPos (r : Nat) (v : DWord) : (s.setP r v).farPos = s.farPos := rfl
@[simp] theorem State.setP_farAsk (r : Nat) (v : DWord) : (s.setP r v).farAsk = s.farAsk := rfl
@[simp] theorem State.setP_sessions (r : Nat) (v : DWord) : (s.setP r v).sessions = s.sessions := rfl
@[simp] theorem State.setP_tasks (r : Nat) (v : DWord) : (s.setP r v).tasks = s.tasks := rfl
@[simp] theorem State.setP_gangs (r : Nat) (v : DWord) : (s.setP r v).gangs = s.gangs := rfl
@[simp] theorem State.setP_outbox (r : Nat) (v : DWord) : (s.setP r v).outbox = s.outbox := rfl
@[simp] theorem State.setP_focus (r : Nat) (v : DWord) : (s.setP r v).focus = s.focus := rfl
@[simp] theorem State.setP_agenda (r : Nat) (v : DWord) : (s.setP r v).agenda = s.agenda := rfl
@[simp] theorem State.setP_later (r : Nat) (v : DWord) : (s.setP r v).later = s.later := rfl
@[simp] theorem State.setP_tick (r : Nat) (v : DWord) : (s.setP r v).tick = s.tick := rfl
@[simp] theorem State.setP_nextId (r : Nat) (v : DWord) : (s.setP r v).nextId = s.nextId := rfl
@[simp] theorem State.setP_clock (r : Nat) (v : DWord) : (s.setP r v).clock = s.clock := rfl
@[simp] theorem State.setP_epoch (r : Nat) (v : DWord) : (s.setP r v).epoch = s.epoch := rfl
@[simp] theorem State.setP_window (r : Nat) (v : DWord) : (s.setP r v).window = s.window := rfl
@[simp] theorem State.setP_boots (r : Nat) (v : DWord) : (s.setP r v).boots = s.boots := rfl

/-! ### modGrid -/

@[simp] theorem State.modGrid_lpddr (g : Nat) (f : Grid → Grid) : (s.modGrid g f).lpddr = s.lpddr := rfl
@[simp] theorem State.modGrid_mem (g : Nat) (f : Grid → Grid) : (s.modGrid g f).mem = s.mem := rfl
@[simp] theorem State.modGrid_poison (g : Nat) (f : Grid → Grid) : (s.modGrid g f).poison = s.poison := rfl
@[simp] theorem State.modGrid_blocks (g : Nat) (f : Grid → Grid) : (s.modGrid g f).blocks = s.blocks := rfl
@[simp] theorem State.modGrid_dies (g : Nat) (f : Grid → Grid) : (s.modGrid g f).dies = s.dies := rfl
@[simp] theorem State.modGrid_cores (g : Nat) (f : Grid → Grid) : (s.modGrid g f).cores = s.cores := rfl
@[simp] theorem State.modGrid_queues (g : Nat) (f : Grid → Grid) : (s.modGrid g f).queues = s.queues := rfl
@[simp] theorem State.modGrid_fns (g : Nat) (f : Grid → Grid) : (s.modGrid g f).fns = s.fns := rfl
@[simp] theorem State.modGrid_evq (g : Nat) (f : Grid → Grid) : (s.modGrid g f).evq = s.evq := rfl
@[simp] theorem State.modGrid_l2tlb (g : Nat) (f : Grid → Grid) : (s.modGrid g f).l2tlb = s.l2tlb := rfl
@[simp] theorem State.modGrid_ops (g : Nat) (f : Grid → Grid) : (s.modGrid g f).ops = s.ops := rfl
@[simp] theorem State.modGrid_parks (g : Nat) (f : Grid → Grid) : (s.modGrid g f).parks = s.parks := rfl
@[simp] theorem State.modGrid_pkts (g : Nat) (f : Grid → Grid) : (s.modGrid g f).pkts = s.pkts := rfl
@[simp] theorem State.modGrid_cells (g : Nat) (f : Grid → Grid) : (s.modGrid g f).cells = s.cells := rfl
@[simp] theorem State.modGrid_fabric (g : Nat) (f : Grid → Grid) : (s.modGrid g f).fabric = s.fabric := rfl
@[simp] theorem State.modGrid_hdmcfg (g : Nat) (f : Grid → Grid) : (s.modGrid g f).hdmcfg = s.hdmcfg := rfl
@[simp] theorem State.modGrid_pwrctl (g : Nat) (f : Grid → Grid) : (s.modGrid g f).pwrctl = s.pwrctl := rfl
@[simp] theorem State.modGrid_pwrstat (g : Nat) (f : Grid → Grid) : (s.modGrid g f).pwrstat = s.pwrstat := rfl
@[simp] theorem State.modGrid_upViral (g : Nat) (f : Grid → Grid) : (s.modGrid g f).upViral = s.upViral := rfl
@[simp] theorem State.modGrid_snoops (g : Nat) (f : Grid → Grid) : (s.modGrid g f).snoops = s.snoops := rfl
@[simp] theorem State.modGrid_hostShared (g : Nat) (f : Grid → Grid) : (s.modGrid g f).hostShared = s.hostShared := rfl
@[simp] theorem State.modGrid_snoopHeld (g : Nat) (f : Grid → Grid) : (s.modGrid g f).snoopHeld = s.snoopHeld := rfl
@[simp] theorem State.modGrid_revoking (g : Nat) (f : Grid → Grid) : (s.modGrid g f).revoking = s.revoking := rfl
@[simp] theorem State.modGrid_remotes (g : Nat) (f : Grid → Grid) : (s.modGrid g f).remotes = s.remotes := rfl
@[simp] theorem State.modGrid_far (g : Nat) (f : Grid → Grid) : (s.modGrid g f).far = s.far := rfl
@[simp] theorem State.modGrid_farNow (g : Nat) (f : Grid → Grid) : (s.modGrid g f).farNow = s.farNow := rfl
@[simp] theorem State.modGrid_farPos (g : Nat) (f : Grid → Grid) : (s.modGrid g f).farPos = s.farPos := rfl
@[simp] theorem State.modGrid_farAsk (g : Nat) (f : Grid → Grid) : (s.modGrid g f).farAsk = s.farAsk := rfl
@[simp] theorem State.modGrid_sessions (g : Nat) (f : Grid → Grid) : (s.modGrid g f).sessions = s.sessions := rfl
@[simp] theorem State.modGrid_tasks (g : Nat) (f : Grid → Grid) : (s.modGrid g f).tasks = s.tasks := rfl
@[simp] theorem State.modGrid_gangs (g : Nat) (f : Grid → Grid) : (s.modGrid g f).gangs = s.gangs := rfl
@[simp] theorem State.modGrid_outbox (g : Nat) (f : Grid → Grid) : (s.modGrid g f).outbox = s.outbox := rfl
@[simp] theorem State.modGrid_focus (g : Nat) (f : Grid → Grid) : (s.modGrid g f).focus = s.focus := rfl
@[simp] theorem State.modGrid_agenda (g : Nat) (f : Grid → Grid) : (s.modGrid g f).agenda = s.agenda := rfl
@[simp] theorem State.modGrid_later (g : Nat) (f : Grid → Grid) : (s.modGrid g f).later = s.later := rfl
@[simp] theorem State.modGrid_tick (g : Nat) (f : Grid → Grid) : (s.modGrid g f).tick = s.tick := rfl
@[simp] theorem State.modGrid_nextId (g : Nat) (f : Grid → Grid) : (s.modGrid g f).nextId = s.nextId := rfl
@[simp] theorem State.modGrid_clock (g : Nat) (f : Grid → Grid) : (s.modGrid g f).clock = s.clock := rfl
@[simp] theorem State.modGrid_epoch (g : Nat) (f : Grid → Grid) : (s.modGrid g f).epoch = s.epoch := rfl
@[simp] theorem State.modGrid_window (g : Nat) (f : Grid → Grid) : (s.modGrid g f).window = s.window := rfl
@[simp] theorem State.modGrid_boots (g : Nat) (f : Grid → Grid) : (s.modGrid g f).boots = s.boots := rfl

/-! ### modDie -/

@[simp] theorem State.modDie_lpddr (d : Nat) (f : Die → Die) : (s.modDie d f).lpddr = s.lpddr := rfl
@[simp] theorem State.modDie_mem (d : Nat) (f : Die → Die) : (s.modDie d f).mem = s.mem := rfl
@[simp] theorem State.modDie_poison (d : Nat) (f : Die → Die) : (s.modDie d f).poison = s.poison := rfl
@[simp] theorem State.modDie_blocks (d : Nat) (f : Die → Die) : (s.modDie d f).blocks = s.blocks := rfl
@[simp] theorem State.modDie_grids (d : Nat) (f : Die → Die) : (s.modDie d f).grids = s.grids := rfl
@[simp] theorem State.modDie_cores (d : Nat) (f : Die → Die) : (s.modDie d f).cores = s.cores := rfl
@[simp] theorem State.modDie_queues (d : Nat) (f : Die → Die) : (s.modDie d f).queues = s.queues := rfl
@[simp] theorem State.modDie_fns (d : Nat) (f : Die → Die) : (s.modDie d f).fns = s.fns := rfl
@[simp] theorem State.modDie_evq (d : Nat) (f : Die → Die) : (s.modDie d f).evq = s.evq := rfl
@[simp] theorem State.modDie_l2tlb (d : Nat) (f : Die → Die) : (s.modDie d f).l2tlb = s.l2tlb := rfl
@[simp] theorem State.modDie_ops (d : Nat) (f : Die → Die) : (s.modDie d f).ops = s.ops := rfl
@[simp] theorem State.modDie_parks (d : Nat) (f : Die → Die) : (s.modDie d f).parks = s.parks := rfl
@[simp] theorem State.modDie_pkts (d : Nat) (f : Die → Die) : (s.modDie d f).pkts = s.pkts := rfl
@[simp] theorem State.modDie_cells (d : Nat) (f : Die → Die) : (s.modDie d f).cells = s.cells := rfl
@[simp] theorem State.modDie_fabric (d : Nat) (f : Die → Die) : (s.modDie d f).fabric = s.fabric := rfl
@[simp] theorem State.modDie_hdmcfg (d : Nat) (f : Die → Die) : (s.modDie d f).hdmcfg = s.hdmcfg := rfl
@[simp] theorem State.modDie_pwrctl (d : Nat) (f : Die → Die) : (s.modDie d f).pwrctl = s.pwrctl := rfl
@[simp] theorem State.modDie_pwrstat (d : Nat) (f : Die → Die) : (s.modDie d f).pwrstat = s.pwrstat := rfl
@[simp] theorem State.modDie_upViral (d : Nat) (f : Die → Die) : (s.modDie d f).upViral = s.upViral := rfl
@[simp] theorem State.modDie_snoops (d : Nat) (f : Die → Die) : (s.modDie d f).snoops = s.snoops := rfl
@[simp] theorem State.modDie_hostShared (d : Nat) (f : Die → Die) : (s.modDie d f).hostShared = s.hostShared := rfl
@[simp] theorem State.modDie_snoopHeld (d : Nat) (f : Die → Die) : (s.modDie d f).snoopHeld = s.snoopHeld := rfl
@[simp] theorem State.modDie_revoking (d : Nat) (f : Die → Die) : (s.modDie d f).revoking = s.revoking := rfl
@[simp] theorem State.modDie_remotes (d : Nat) (f : Die → Die) : (s.modDie d f).remotes = s.remotes := rfl
@[simp] theorem State.modDie_far (d : Nat) (f : Die → Die) : (s.modDie d f).far = s.far := rfl
@[simp] theorem State.modDie_farNow (d : Nat) (f : Die → Die) : (s.modDie d f).farNow = s.farNow := rfl
@[simp] theorem State.modDie_farPos (d : Nat) (f : Die → Die) : (s.modDie d f).farPos = s.farPos := rfl
@[simp] theorem State.modDie_farAsk (d : Nat) (f : Die → Die) : (s.modDie d f).farAsk = s.farAsk := rfl
@[simp] theorem State.modDie_sessions (d : Nat) (f : Die → Die) : (s.modDie d f).sessions = s.sessions := rfl
@[simp] theorem State.modDie_tasks (d : Nat) (f : Die → Die) : (s.modDie d f).tasks = s.tasks := rfl
@[simp] theorem State.modDie_gangs (d : Nat) (f : Die → Die) : (s.modDie d f).gangs = s.gangs := rfl
@[simp] theorem State.modDie_outbox (d : Nat) (f : Die → Die) : (s.modDie d f).outbox = s.outbox := rfl
@[simp] theorem State.modDie_focus (d : Nat) (f : Die → Die) : (s.modDie d f).focus = s.focus := rfl
@[simp] theorem State.modDie_agenda (d : Nat) (f : Die → Die) : (s.modDie d f).agenda = s.agenda := rfl
@[simp] theorem State.modDie_later (d : Nat) (f : Die → Die) : (s.modDie d f).later = s.later := rfl
@[simp] theorem State.modDie_tick (d : Nat) (f : Die → Die) : (s.modDie d f).tick = s.tick := rfl
@[simp] theorem State.modDie_nextId (d : Nat) (f : Die → Die) : (s.modDie d f).nextId = s.nextId := rfl
@[simp] theorem State.modDie_clock (d : Nat) (f : Die → Die) : (s.modDie d f).clock = s.clock := rfl
@[simp] theorem State.modDie_epoch (d : Nat) (f : Die → Die) : (s.modDie d f).epoch = s.epoch := rfl
@[simp] theorem State.modDie_window (d : Nat) (f : Die → Die) : (s.modDie d f).window = s.window := rfl
@[simp] theorem State.modDie_boots (d : Nat) (f : Die → Die) : (s.modDie d f).boots = s.boots := rfl

/-! ### modCore -/

@[simp] theorem State.modCore_lpddr (d c : Nat) (f : Core → Core) : (s.modCore d c f).lpddr = s.lpddr := rfl
@[simp] theorem State.modCore_mem (d c : Nat) (f : Core → Core) : (s.modCore d c f).mem = s.mem := rfl
@[simp] theorem State.modCore_poison (d c : Nat) (f : Core → Core) : (s.modCore d c f).poison = s.poison := rfl
@[simp] theorem State.modCore_blocks (d c : Nat) (f : Core → Core) : (s.modCore d c f).blocks = s.blocks := rfl
@[simp] theorem State.modCore_grids (d c : Nat) (f : Core → Core) : (s.modCore d c f).grids = s.grids := rfl
@[simp] theorem State.modCore_dies (d c : Nat) (f : Core → Core) : (s.modCore d c f).dies = s.dies := rfl
@[simp] theorem State.modCore_queues (d c : Nat) (f : Core → Core) : (s.modCore d c f).queues = s.queues := rfl
@[simp] theorem State.modCore_fns (d c : Nat) (f : Core → Core) : (s.modCore d c f).fns = s.fns := rfl
@[simp] theorem State.modCore_evq (d c : Nat) (f : Core → Core) : (s.modCore d c f).evq = s.evq := rfl
@[simp] theorem State.modCore_l2tlb (d c : Nat) (f : Core → Core) : (s.modCore d c f).l2tlb = s.l2tlb := rfl
@[simp] theorem State.modCore_ops (d c : Nat) (f : Core → Core) : (s.modCore d c f).ops = s.ops := rfl
@[simp] theorem State.modCore_parks (d c : Nat) (f : Core → Core) : (s.modCore d c f).parks = s.parks := rfl
@[simp] theorem State.modCore_pkts (d c : Nat) (f : Core → Core) : (s.modCore d c f).pkts = s.pkts := rfl
@[simp] theorem State.modCore_cells (d c : Nat) (f : Core → Core) : (s.modCore d c f).cells = s.cells := rfl
@[simp] theorem State.modCore_fabric (d c : Nat) (f : Core → Core) : (s.modCore d c f).fabric = s.fabric := rfl
@[simp] theorem State.modCore_hdmcfg (d c : Nat) (f : Core → Core) : (s.modCore d c f).hdmcfg = s.hdmcfg := rfl
@[simp] theorem State.modCore_pwrctl (d c : Nat) (f : Core → Core) : (s.modCore d c f).pwrctl = s.pwrctl := rfl
@[simp] theorem State.modCore_pwrstat (d c : Nat) (f : Core → Core) : (s.modCore d c f).pwrstat = s.pwrstat := rfl
@[simp] theorem State.modCore_upViral (d c : Nat) (f : Core → Core) : (s.modCore d c f).upViral = s.upViral := rfl
@[simp] theorem State.modCore_snoops (d c : Nat) (f : Core → Core) : (s.modCore d c f).snoops = s.snoops := rfl
@[simp] theorem State.modCore_hostShared (d c : Nat) (f : Core → Core) : (s.modCore d c f).hostShared = s.hostShared := rfl
@[simp] theorem State.modCore_snoopHeld (d c : Nat) (f : Core → Core) : (s.modCore d c f).snoopHeld = s.snoopHeld := rfl
@[simp] theorem State.modCore_revoking (d c : Nat) (f : Core → Core) : (s.modCore d c f).revoking = s.revoking := rfl
@[simp] theorem State.modCore_remotes (d c : Nat) (f : Core → Core) : (s.modCore d c f).remotes = s.remotes := rfl
@[simp] theorem State.modCore_far (d c : Nat) (f : Core → Core) : (s.modCore d c f).far = s.far := rfl
@[simp] theorem State.modCore_farNow (d c : Nat) (f : Core → Core) : (s.modCore d c f).farNow = s.farNow := rfl
@[simp] theorem State.modCore_farPos (d c : Nat) (f : Core → Core) : (s.modCore d c f).farPos = s.farPos := rfl
@[simp] theorem State.modCore_farAsk (d c : Nat) (f : Core → Core) : (s.modCore d c f).farAsk = s.farAsk := rfl
@[simp] theorem State.modCore_sessions (d c : Nat) (f : Core → Core) : (s.modCore d c f).sessions = s.sessions := rfl
@[simp] theorem State.modCore_tasks (d c : Nat) (f : Core → Core) : (s.modCore d c f).tasks = s.tasks := rfl
@[simp] theorem State.modCore_gangs (d c : Nat) (f : Core → Core) : (s.modCore d c f).gangs = s.gangs := rfl
@[simp] theorem State.modCore_outbox (d c : Nat) (f : Core → Core) : (s.modCore d c f).outbox = s.outbox := rfl
@[simp] theorem State.modCore_focus (d c : Nat) (f : Core → Core) : (s.modCore d c f).focus = s.focus := rfl
@[simp] theorem State.modCore_agenda (d c : Nat) (f : Core → Core) : (s.modCore d c f).agenda = s.agenda := rfl
@[simp] theorem State.modCore_later (d c : Nat) (f : Core → Core) : (s.modCore d c f).later = s.later := rfl
@[simp] theorem State.modCore_tick (d c : Nat) (f : Core → Core) : (s.modCore d c f).tick = s.tick := rfl
@[simp] theorem State.modCore_nextId (d c : Nat) (f : Core → Core) : (s.modCore d c f).nextId = s.nextId := rfl
@[simp] theorem State.modCore_clock (d c : Nat) (f : Core → Core) : (s.modCore d c f).clock = s.clock := rfl
@[simp] theorem State.modCore_epoch (d c : Nat) (f : Core → Core) : (s.modCore d c f).epoch = s.epoch := rfl
@[simp] theorem State.modCore_window (d c : Nat) (f : Core → Core) : (s.modCore d c f).window = s.window := rfl
@[simp] theorem State.modCore_boots (d c : Nat) (f : Core → Core) : (s.modCore d c f).boots = s.boots := rfl

/-! ### modQueue -/

@[simp] theorem State.modQueue_lpddr (q : Nat) (f : Queue → Queue) : (s.modQueue q f).lpddr = s.lpddr := rfl
@[simp] theorem State.modQueue_mem (q : Nat) (f : Queue → Queue) : (s.modQueue q f).mem = s.mem := rfl
@[simp] theorem State.modQueue_poison (q : Nat) (f : Queue → Queue) : (s.modQueue q f).poison = s.poison := rfl
@[simp] theorem State.modQueue_blocks (q : Nat) (f : Queue → Queue) : (s.modQueue q f).blocks = s.blocks := rfl
@[simp] theorem State.modQueue_grids (q : Nat) (f : Queue → Queue) : (s.modQueue q f).grids = s.grids := rfl
@[simp] theorem State.modQueue_dies (q : Nat) (f : Queue → Queue) : (s.modQueue q f).dies = s.dies := rfl
@[simp] theorem State.modQueue_cores (q : Nat) (f : Queue → Queue) : (s.modQueue q f).cores = s.cores := rfl
@[simp] theorem State.modQueue_fns (q : Nat) (f : Queue → Queue) : (s.modQueue q f).fns = s.fns := rfl
@[simp] theorem State.modQueue_evq (q : Nat) (f : Queue → Queue) : (s.modQueue q f).evq = s.evq := rfl
@[simp] theorem State.modQueue_l2tlb (q : Nat) (f : Queue → Queue) : (s.modQueue q f).l2tlb = s.l2tlb := rfl
@[simp] theorem State.modQueue_ops (q : Nat) (f : Queue → Queue) : (s.modQueue q f).ops = s.ops := rfl
@[simp] theorem State.modQueue_parks (q : Nat) (f : Queue → Queue) : (s.modQueue q f).parks = s.parks := rfl
@[simp] theorem State.modQueue_pkts (q : Nat) (f : Queue → Queue) : (s.modQueue q f).pkts = s.pkts := rfl
@[simp] theorem State.modQueue_cells (q : Nat) (f : Queue → Queue) : (s.modQueue q f).cells = s.cells := rfl
@[simp] theorem State.modQueue_fabric (q : Nat) (f : Queue → Queue) : (s.modQueue q f).fabric = s.fabric := rfl
@[simp] theorem State.modQueue_hdmcfg (q : Nat) (f : Queue → Queue) : (s.modQueue q f).hdmcfg = s.hdmcfg := rfl
@[simp] theorem State.modQueue_pwrctl (q : Nat) (f : Queue → Queue) : (s.modQueue q f).pwrctl = s.pwrctl := rfl
@[simp] theorem State.modQueue_pwrstat (q : Nat) (f : Queue → Queue) : (s.modQueue q f).pwrstat = s.pwrstat := rfl
@[simp] theorem State.modQueue_upViral (q : Nat) (f : Queue → Queue) : (s.modQueue q f).upViral = s.upViral := rfl
@[simp] theorem State.modQueue_snoops (q : Nat) (f : Queue → Queue) : (s.modQueue q f).snoops = s.snoops := rfl
@[simp] theorem State.modQueue_hostShared (q : Nat) (f : Queue → Queue) : (s.modQueue q f).hostShared = s.hostShared := rfl
@[simp] theorem State.modQueue_snoopHeld (q : Nat) (f : Queue → Queue) : (s.modQueue q f).snoopHeld = s.snoopHeld := rfl
@[simp] theorem State.modQueue_revoking (q : Nat) (f : Queue → Queue) : (s.modQueue q f).revoking = s.revoking := rfl
@[simp] theorem State.modQueue_remotes (q : Nat) (f : Queue → Queue) : (s.modQueue q f).remotes = s.remotes := rfl
@[simp] theorem State.modQueue_far (q : Nat) (f : Queue → Queue) : (s.modQueue q f).far = s.far := rfl
@[simp] theorem State.modQueue_farNow (q : Nat) (f : Queue → Queue) : (s.modQueue q f).farNow = s.farNow := rfl
@[simp] theorem State.modQueue_farPos (q : Nat) (f : Queue → Queue) : (s.modQueue q f).farPos = s.farPos := rfl
@[simp] theorem State.modQueue_farAsk (q : Nat) (f : Queue → Queue) : (s.modQueue q f).farAsk = s.farAsk := rfl
@[simp] theorem State.modQueue_sessions (q : Nat) (f : Queue → Queue) : (s.modQueue q f).sessions = s.sessions := rfl
@[simp] theorem State.modQueue_tasks (q : Nat) (f : Queue → Queue) : (s.modQueue q f).tasks = s.tasks := rfl
@[simp] theorem State.modQueue_gangs (q : Nat) (f : Queue → Queue) : (s.modQueue q f).gangs = s.gangs := rfl
@[simp] theorem State.modQueue_outbox (q : Nat) (f : Queue → Queue) : (s.modQueue q f).outbox = s.outbox := rfl
@[simp] theorem State.modQueue_focus (q : Nat) (f : Queue → Queue) : (s.modQueue q f).focus = s.focus := rfl
@[simp] theorem State.modQueue_agenda (q : Nat) (f : Queue → Queue) : (s.modQueue q f).agenda = s.agenda := rfl
@[simp] theorem State.modQueue_later (q : Nat) (f : Queue → Queue) : (s.modQueue q f).later = s.later := rfl
@[simp] theorem State.modQueue_tick (q : Nat) (f : Queue → Queue) : (s.modQueue q f).tick = s.tick := rfl
@[simp] theorem State.modQueue_nextId (q : Nat) (f : Queue → Queue) : (s.modQueue q f).nextId = s.nextId := rfl
@[simp] theorem State.modQueue_clock (q : Nat) (f : Queue → Queue) : (s.modQueue q f).clock = s.clock := rfl
@[simp] theorem State.modQueue_epoch (q : Nat) (f : Queue → Queue) : (s.modQueue q f).epoch = s.epoch := rfl
@[simp] theorem State.modQueue_window (q : Nat) (f : Queue → Queue) : (s.modQueue q f).window = s.window := rfl
@[simp] theorem State.modQueue_boots (q : Nat) (f : Queue → Queue) : (s.modQueue q f).boots = s.boots := rfl

/-! ### modFn -/

@[simp] theorem State.modFn_lpddr (f : Nat) (g : Fn → Fn) : (s.modFn f g).lpddr = s.lpddr := rfl
@[simp] theorem State.modFn_mem (f : Nat) (g : Fn → Fn) : (s.modFn f g).mem = s.mem := rfl
@[simp] theorem State.modFn_poison (f : Nat) (g : Fn → Fn) : (s.modFn f g).poison = s.poison := rfl
@[simp] theorem State.modFn_blocks (f : Nat) (g : Fn → Fn) : (s.modFn f g).blocks = s.blocks := rfl
@[simp] theorem State.modFn_grids (f : Nat) (g : Fn → Fn) : (s.modFn f g).grids = s.grids := rfl
@[simp] theorem State.modFn_dies (f : Nat) (g : Fn → Fn) : (s.modFn f g).dies = s.dies := rfl
@[simp] theorem State.modFn_cores (f : Nat) (g : Fn → Fn) : (s.modFn f g).cores = s.cores := rfl
@[simp] theorem State.modFn_queues (f : Nat) (g : Fn → Fn) : (s.modFn f g).queues = s.queues := rfl
@[simp] theorem State.modFn_evq (f : Nat) (g : Fn → Fn) : (s.modFn f g).evq = s.evq := rfl
@[simp] theorem State.modFn_l2tlb (f : Nat) (g : Fn → Fn) : (s.modFn f g).l2tlb = s.l2tlb := rfl
@[simp] theorem State.modFn_ops (f : Nat) (g : Fn → Fn) : (s.modFn f g).ops = s.ops := rfl
@[simp] theorem State.modFn_parks (f : Nat) (g : Fn → Fn) : (s.modFn f g).parks = s.parks := rfl
@[simp] theorem State.modFn_pkts (f : Nat) (g : Fn → Fn) : (s.modFn f g).pkts = s.pkts := rfl
@[simp] theorem State.modFn_cells (f : Nat) (g : Fn → Fn) : (s.modFn f g).cells = s.cells := rfl
@[simp] theorem State.modFn_fabric (f : Nat) (g : Fn → Fn) : (s.modFn f g).fabric = s.fabric := rfl
@[simp] theorem State.modFn_hdmcfg (f : Nat) (g : Fn → Fn) : (s.modFn f g).hdmcfg = s.hdmcfg := rfl
@[simp] theorem State.modFn_pwrctl (f : Nat) (g : Fn → Fn) : (s.modFn f g).pwrctl = s.pwrctl := rfl
@[simp] theorem State.modFn_pwrstat (f : Nat) (g : Fn → Fn) : (s.modFn f g).pwrstat = s.pwrstat := rfl
@[simp] theorem State.modFn_upViral (f : Nat) (g : Fn → Fn) : (s.modFn f g).upViral = s.upViral := rfl
@[simp] theorem State.modFn_snoops (f : Nat) (g : Fn → Fn) : (s.modFn f g).snoops = s.snoops := rfl
@[simp] theorem State.modFn_hostShared (f : Nat) (g : Fn → Fn) : (s.modFn f g).hostShared = s.hostShared := rfl
@[simp] theorem State.modFn_snoopHeld (f : Nat) (g : Fn → Fn) : (s.modFn f g).snoopHeld = s.snoopHeld := rfl
@[simp] theorem State.modFn_revoking (f : Nat) (g : Fn → Fn) : (s.modFn f g).revoking = s.revoking := rfl
@[simp] theorem State.modFn_remotes (f : Nat) (g : Fn → Fn) : (s.modFn f g).remotes = s.remotes := rfl
@[simp] theorem State.modFn_far (f : Nat) (g : Fn → Fn) : (s.modFn f g).far = s.far := rfl
@[simp] theorem State.modFn_farNow (f : Nat) (g : Fn → Fn) : (s.modFn f g).farNow = s.farNow := rfl
@[simp] theorem State.modFn_farPos (f : Nat) (g : Fn → Fn) : (s.modFn f g).farPos = s.farPos := rfl
@[simp] theorem State.modFn_farAsk (f : Nat) (g : Fn → Fn) : (s.modFn f g).farAsk = s.farAsk := rfl
@[simp] theorem State.modFn_sessions (f : Nat) (g : Fn → Fn) : (s.modFn f g).sessions = s.sessions := rfl
@[simp] theorem State.modFn_tasks (f : Nat) (g : Fn → Fn) : (s.modFn f g).tasks = s.tasks := rfl
@[simp] theorem State.modFn_gangs (f : Nat) (g : Fn → Fn) : (s.modFn f g).gangs = s.gangs := rfl
@[simp] theorem State.modFn_outbox (f : Nat) (g : Fn → Fn) : (s.modFn f g).outbox = s.outbox := rfl
@[simp] theorem State.modFn_focus (f : Nat) (g : Fn → Fn) : (s.modFn f g).focus = s.focus := rfl
@[simp] theorem State.modFn_agenda (f : Nat) (g : Fn → Fn) : (s.modFn f g).agenda = s.agenda := rfl
@[simp] theorem State.modFn_later (f : Nat) (g : Fn → Fn) : (s.modFn f g).later = s.later := rfl
@[simp] theorem State.modFn_tick (f : Nat) (g : Fn → Fn) : (s.modFn f g).tick = s.tick := rfl
@[simp] theorem State.modFn_nextId (f : Nat) (g : Fn → Fn) : (s.modFn f g).nextId = s.nextId := rfl
@[simp] theorem State.modFn_clock (f : Nat) (g : Fn → Fn) : (s.modFn f g).clock = s.clock := rfl
@[simp] theorem State.modFn_epoch (f : Nat) (g : Fn → Fn) : (s.modFn f g).epoch = s.epoch := rfl
@[simp] theorem State.modFn_window (f : Nat) (g : Fn → Fn) : (s.modFn f g).window = s.window := rfl
@[simp] theorem State.modFn_boots (f : Nat) (g : Fn → Fn) : (s.modFn f g).boots = s.boots := rfl

/-! ### modCtx -/

@[simp] theorem State.modCtx_lpddr (f c : Nat) (g : Context → Context) : (s.modCtx f c g).lpddr = s.lpddr := rfl
@[simp] theorem State.modCtx_mem (f c : Nat) (g : Context → Context) : (s.modCtx f c g).mem = s.mem := rfl
@[simp] theorem State.modCtx_poison (f c : Nat) (g : Context → Context) : (s.modCtx f c g).poison = s.poison := rfl
@[simp] theorem State.modCtx_blocks (f c : Nat) (g : Context → Context) : (s.modCtx f c g).blocks = s.blocks := rfl
@[simp] theorem State.modCtx_grids (f c : Nat) (g : Context → Context) : (s.modCtx f c g).grids = s.grids := rfl
@[simp] theorem State.modCtx_dies (f c : Nat) (g : Context → Context) : (s.modCtx f c g).dies = s.dies := rfl
@[simp] theorem State.modCtx_cores (f c : Nat) (g : Context → Context) : (s.modCtx f c g).cores = s.cores := rfl
@[simp] theorem State.modCtx_queues (f c : Nat) (g : Context → Context) : (s.modCtx f c g).queues = s.queues := rfl
@[simp] theorem State.modCtx_evq (f c : Nat) (g : Context → Context) : (s.modCtx f c g).evq = s.evq := rfl
@[simp] theorem State.modCtx_l2tlb (f c : Nat) (g : Context → Context) : (s.modCtx f c g).l2tlb = s.l2tlb := rfl
@[simp] theorem State.modCtx_ops (f c : Nat) (g : Context → Context) : (s.modCtx f c g).ops = s.ops := rfl
@[simp] theorem State.modCtx_parks (f c : Nat) (g : Context → Context) : (s.modCtx f c g).parks = s.parks := rfl
@[simp] theorem State.modCtx_pkts (f c : Nat) (g : Context → Context) : (s.modCtx f c g).pkts = s.pkts := rfl
@[simp] theorem State.modCtx_cells (f c : Nat) (g : Context → Context) : (s.modCtx f c g).cells = s.cells := rfl
@[simp] theorem State.modCtx_fabric (f c : Nat) (g : Context → Context) : (s.modCtx f c g).fabric = s.fabric := rfl
@[simp] theorem State.modCtx_hdmcfg (f c : Nat) (g : Context → Context) : (s.modCtx f c g).hdmcfg = s.hdmcfg := rfl
@[simp] theorem State.modCtx_pwrctl (f c : Nat) (g : Context → Context) : (s.modCtx f c g).pwrctl = s.pwrctl := rfl
@[simp] theorem State.modCtx_pwrstat (f c : Nat) (g : Context → Context) : (s.modCtx f c g).pwrstat = s.pwrstat := rfl
@[simp] theorem State.modCtx_upViral (f c : Nat) (g : Context → Context) : (s.modCtx f c g).upViral = s.upViral := rfl
@[simp] theorem State.modCtx_snoops (f c : Nat) (g : Context → Context) : (s.modCtx f c g).snoops = s.snoops := rfl
@[simp] theorem State.modCtx_hostShared (f c : Nat) (g : Context → Context) : (s.modCtx f c g).hostShared = s.hostShared := rfl
@[simp] theorem State.modCtx_snoopHeld (f c : Nat) (g : Context → Context) : (s.modCtx f c g).snoopHeld = s.snoopHeld := rfl
@[simp] theorem State.modCtx_revoking (f c : Nat) (g : Context → Context) : (s.modCtx f c g).revoking = s.revoking := rfl
@[simp] theorem State.modCtx_remotes (f c : Nat) (g : Context → Context) : (s.modCtx f c g).remotes = s.remotes := rfl
@[simp] theorem State.modCtx_far (f c : Nat) (g : Context → Context) : (s.modCtx f c g).far = s.far := rfl
@[simp] theorem State.modCtx_farNow (f c : Nat) (g : Context → Context) : (s.modCtx f c g).farNow = s.farNow := rfl
@[simp] theorem State.modCtx_farPos (f c : Nat) (g : Context → Context) : (s.modCtx f c g).farPos = s.farPos := rfl
@[simp] theorem State.modCtx_farAsk (f c : Nat) (g : Context → Context) : (s.modCtx f c g).farAsk = s.farAsk := rfl
@[simp] theorem State.modCtx_sessions (f c : Nat) (g : Context → Context) : (s.modCtx f c g).sessions = s.sessions := rfl
@[simp] theorem State.modCtx_tasks (f c : Nat) (g : Context → Context) : (s.modCtx f c g).tasks = s.tasks := rfl
@[simp] theorem State.modCtx_gangs (f c : Nat) (g : Context → Context) : (s.modCtx f c g).gangs = s.gangs := rfl
@[simp] theorem State.modCtx_outbox (f c : Nat) (g : Context → Context) : (s.modCtx f c g).outbox = s.outbox := rfl
@[simp] theorem State.modCtx_focus (f c : Nat) (g : Context → Context) : (s.modCtx f c g).focus = s.focus := rfl
@[simp] theorem State.modCtx_agenda (f c : Nat) (g : Context → Context) : (s.modCtx f c g).agenda = s.agenda := rfl
@[simp] theorem State.modCtx_later (f c : Nat) (g : Context → Context) : (s.modCtx f c g).later = s.later := rfl
@[simp] theorem State.modCtx_tick (f c : Nat) (g : Context → Context) : (s.modCtx f c g).tick = s.tick := rfl
@[simp] theorem State.modCtx_nextId (f c : Nat) (g : Context → Context) : (s.modCtx f c g).nextId = s.nextId := rfl
@[simp] theorem State.modCtx_clock (f c : Nat) (g : Context → Context) : (s.modCtx f c g).clock = s.clock := rfl
@[simp] theorem State.modCtx_epoch (f c : Nat) (g : Context → Context) : (s.modCtx f c g).epoch = s.epoch := rfl
@[simp] theorem State.modCtx_window (f c : Nat) (g : Context → Context) : (s.modCtx f c g).window = s.window := rfl
@[simp] theorem State.modCtx_boots (f c : Nat) (g : Context → Context) : (s.modCtx f c g).boots = s.boots := rfl

/-! ### modFnBlock -/

@[simp] theorem State.modFnBlock_lpddr (f d : Nat) (g : FnBlock → FnBlock) : (s.modFnBlock f d g).lpddr = s.lpddr := rfl
@[simp] theorem State.modFnBlock_mem (f d : Nat) (g : FnBlock → FnBlock) : (s.modFnBlock f d g).mem = s.mem := rfl
@[simp] theorem State.modFnBlock_poison (f d : Nat) (g : FnBlock → FnBlock) : (s.modFnBlock f d g).poison = s.poison := rfl
@[simp] theorem State.modFnBlock_blocks (f d : Nat) (g : FnBlock → FnBlock) : (s.modFnBlock f d g).blocks = s.blocks := rfl
@[simp] theorem State.modFnBlock_grids (f d : Nat) (g : FnBlock → FnBlock) : (s.modFnBlock f d g).grids = s.grids := rfl
@[simp] theorem State.modFnBlock_dies (f d : Nat) (g : FnBlock → FnBlock) : (s.modFnBlock f d g).dies = s.dies := rfl
@[simp] theorem State.modFnBlock_cores (f d : Nat) (g : FnBlock → FnBlock) : (s.modFnBlock f d g).cores = s.cores := rfl
@[simp] theorem State.modFnBlock_queues (f d : Nat) (g : FnBlock → FnBlock) : (s.modFnBlock f d g).queues = s.queues := rfl
@[simp] theorem State.modFnBlock_evq (f d : Nat) (g : FnBlock → FnBlock) : (s.modFnBlock f d g).evq = s.evq := rfl
@[simp] theorem State.modFnBlock_l2tlb (f d : Nat) (g : FnBlock → FnBlock) : (s.modFnBlock f d g).l2tlb = s.l2tlb := rfl
@[simp] theorem State.modFnBlock_ops (f d : Nat) (g : FnBlock → FnBlock) : (s.modFnBlock f d g).ops = s.ops := rfl
@[simp] theorem State.modFnBlock_parks (f d : Nat) (g : FnBlock → FnBlock) : (s.modFnBlock f d g).parks = s.parks := rfl
@[simp] theorem State.modFnBlock_pkts (f d : Nat) (g : FnBlock → FnBlock) : (s.modFnBlock f d g).pkts = s.pkts := rfl
@[simp] theorem State.modFnBlock_cells (f d : Nat) (g : FnBlock → FnBlock) : (s.modFnBlock f d g).cells = s.cells := rfl
@[simp] theorem State.modFnBlock_fabric (f d : Nat) (g : FnBlock → FnBlock) : (s.modFnBlock f d g).fabric = s.fabric := rfl
@[simp] theorem State.modFnBlock_hdmcfg (f d : Nat) (g : FnBlock → FnBlock) : (s.modFnBlock f d g).hdmcfg = s.hdmcfg := rfl
@[simp] theorem State.modFnBlock_pwrctl (f d : Nat) (g : FnBlock → FnBlock) : (s.modFnBlock f d g).pwrctl = s.pwrctl := rfl
@[simp] theorem State.modFnBlock_pwrstat (f d : Nat) (g : FnBlock → FnBlock) : (s.modFnBlock f d g).pwrstat = s.pwrstat := rfl
@[simp] theorem State.modFnBlock_upViral (f d : Nat) (g : FnBlock → FnBlock) : (s.modFnBlock f d g).upViral = s.upViral := rfl
@[simp] theorem State.modFnBlock_snoops (f d : Nat) (g : FnBlock → FnBlock) : (s.modFnBlock f d g).snoops = s.snoops := rfl
@[simp] theorem State.modFnBlock_hostShared (f d : Nat) (g : FnBlock → FnBlock) : (s.modFnBlock f d g).hostShared = s.hostShared := rfl
@[simp] theorem State.modFnBlock_snoopHeld (f d : Nat) (g : FnBlock → FnBlock) : (s.modFnBlock f d g).snoopHeld = s.snoopHeld := rfl
@[simp] theorem State.modFnBlock_revoking (f d : Nat) (g : FnBlock → FnBlock) : (s.modFnBlock f d g).revoking = s.revoking := rfl
@[simp] theorem State.modFnBlock_remotes (f d : Nat) (g : FnBlock → FnBlock) : (s.modFnBlock f d g).remotes = s.remotes := rfl
@[simp] theorem State.modFnBlock_far (f d : Nat) (g : FnBlock → FnBlock) : (s.modFnBlock f d g).far = s.far := rfl
@[simp] theorem State.modFnBlock_farNow (f d : Nat) (g : FnBlock → FnBlock) : (s.modFnBlock f d g).farNow = s.farNow := rfl
@[simp] theorem State.modFnBlock_farPos (f d : Nat) (g : FnBlock → FnBlock) : (s.modFnBlock f d g).farPos = s.farPos := rfl
@[simp] theorem State.modFnBlock_farAsk (f d : Nat) (g : FnBlock → FnBlock) : (s.modFnBlock f d g).farAsk = s.farAsk := rfl
@[simp] theorem State.modFnBlock_sessions (f d : Nat) (g : FnBlock → FnBlock) : (s.modFnBlock f d g).sessions = s.sessions := rfl
@[simp] theorem State.modFnBlock_tasks (f d : Nat) (g : FnBlock → FnBlock) : (s.modFnBlock f d g).tasks = s.tasks := rfl
@[simp] theorem State.modFnBlock_gangs (f d : Nat) (g : FnBlock → FnBlock) : (s.modFnBlock f d g).gangs = s.gangs := rfl
@[simp] theorem State.modFnBlock_outbox (f d : Nat) (g : FnBlock → FnBlock) : (s.modFnBlock f d g).outbox = s.outbox := rfl
@[simp] theorem State.modFnBlock_focus (f d : Nat) (g : FnBlock → FnBlock) : (s.modFnBlock f d g).focus = s.focus := rfl
@[simp] theorem State.modFnBlock_agenda (f d : Nat) (g : FnBlock → FnBlock) : (s.modFnBlock f d g).agenda = s.agenda := rfl
@[simp] theorem State.modFnBlock_later (f d : Nat) (g : FnBlock → FnBlock) : (s.modFnBlock f d g).later = s.later := rfl
@[simp] theorem State.modFnBlock_tick (f d : Nat) (g : FnBlock → FnBlock) : (s.modFnBlock f d g).tick = s.tick := rfl
@[simp] theorem State.modFnBlock_nextId (f d : Nat) (g : FnBlock → FnBlock) : (s.modFnBlock f d g).nextId = s.nextId := rfl
@[simp] theorem State.modFnBlock_clock (f d : Nat) (g : FnBlock → FnBlock) : (s.modFnBlock f d g).clock = s.clock := rfl
@[simp] theorem State.modFnBlock_epoch (f d : Nat) (g : FnBlock → FnBlock) : (s.modFnBlock f d g).epoch = s.epoch := rfl
@[simp] theorem State.modFnBlock_window (f d : Nat) (g : FnBlock → FnBlock) : (s.modFnBlock f d g).window = s.window := rfl
@[simp] theorem State.modFnBlock_boots (f d : Nat) (g : FnBlock → FnBlock) : (s.modFnBlock f d g).boots = s.boots := rfl

/-! ### modEvq -/

@[simp] theorem State.modEvq_lpddr (f d : Nat) (g : EventQ → EventQ) : (s.modEvq f d g).lpddr = s.lpddr := rfl
@[simp] theorem State.modEvq_mem (f d : Nat) (g : EventQ → EventQ) : (s.modEvq f d g).mem = s.mem := rfl
@[simp] theorem State.modEvq_poison (f d : Nat) (g : EventQ → EventQ) : (s.modEvq f d g).poison = s.poison := rfl
@[simp] theorem State.modEvq_blocks (f d : Nat) (g : EventQ → EventQ) : (s.modEvq f d g).blocks = s.blocks := rfl
@[simp] theorem State.modEvq_grids (f d : Nat) (g : EventQ → EventQ) : (s.modEvq f d g).grids = s.grids := rfl
@[simp] theorem State.modEvq_dies (f d : Nat) (g : EventQ → EventQ) : (s.modEvq f d g).dies = s.dies := rfl
@[simp] theorem State.modEvq_cores (f d : Nat) (g : EventQ → EventQ) : (s.modEvq f d g).cores = s.cores := rfl
@[simp] theorem State.modEvq_queues (f d : Nat) (g : EventQ → EventQ) : (s.modEvq f d g).queues = s.queues := rfl
@[simp] theorem State.modEvq_fns (f d : Nat) (g : EventQ → EventQ) : (s.modEvq f d g).fns = s.fns := rfl
@[simp] theorem State.modEvq_l2tlb (f d : Nat) (g : EventQ → EventQ) : (s.modEvq f d g).l2tlb = s.l2tlb := rfl
@[simp] theorem State.modEvq_ops (f d : Nat) (g : EventQ → EventQ) : (s.modEvq f d g).ops = s.ops := rfl
@[simp] theorem State.modEvq_parks (f d : Nat) (g : EventQ → EventQ) : (s.modEvq f d g).parks = s.parks := rfl
@[simp] theorem State.modEvq_pkts (f d : Nat) (g : EventQ → EventQ) : (s.modEvq f d g).pkts = s.pkts := rfl
@[simp] theorem State.modEvq_cells (f d : Nat) (g : EventQ → EventQ) : (s.modEvq f d g).cells = s.cells := rfl
@[simp] theorem State.modEvq_fabric (f d : Nat) (g : EventQ → EventQ) : (s.modEvq f d g).fabric = s.fabric := rfl
@[simp] theorem State.modEvq_hdmcfg (f d : Nat) (g : EventQ → EventQ) : (s.modEvq f d g).hdmcfg = s.hdmcfg := rfl
@[simp] theorem State.modEvq_pwrctl (f d : Nat) (g : EventQ → EventQ) : (s.modEvq f d g).pwrctl = s.pwrctl := rfl
@[simp] theorem State.modEvq_pwrstat (f d : Nat) (g : EventQ → EventQ) : (s.modEvq f d g).pwrstat = s.pwrstat := rfl
@[simp] theorem State.modEvq_upViral (f d : Nat) (g : EventQ → EventQ) : (s.modEvq f d g).upViral = s.upViral := rfl
@[simp] theorem State.modEvq_snoops (f d : Nat) (g : EventQ → EventQ) : (s.modEvq f d g).snoops = s.snoops := rfl
@[simp] theorem State.modEvq_hostShared (f d : Nat) (g : EventQ → EventQ) : (s.modEvq f d g).hostShared = s.hostShared := rfl
@[simp] theorem State.modEvq_snoopHeld (f d : Nat) (g : EventQ → EventQ) : (s.modEvq f d g).snoopHeld = s.snoopHeld := rfl
@[simp] theorem State.modEvq_revoking (f d : Nat) (g : EventQ → EventQ) : (s.modEvq f d g).revoking = s.revoking := rfl
@[simp] theorem State.modEvq_remotes (f d : Nat) (g : EventQ → EventQ) : (s.modEvq f d g).remotes = s.remotes := rfl
@[simp] theorem State.modEvq_far (f d : Nat) (g : EventQ → EventQ) : (s.modEvq f d g).far = s.far := rfl
@[simp] theorem State.modEvq_farNow (f d : Nat) (g : EventQ → EventQ) : (s.modEvq f d g).farNow = s.farNow := rfl
@[simp] theorem State.modEvq_farPos (f d : Nat) (g : EventQ → EventQ) : (s.modEvq f d g).farPos = s.farPos := rfl
@[simp] theorem State.modEvq_farAsk (f d : Nat) (g : EventQ → EventQ) : (s.modEvq f d g).farAsk = s.farAsk := rfl
@[simp] theorem State.modEvq_sessions (f d : Nat) (g : EventQ → EventQ) : (s.modEvq f d g).sessions = s.sessions := rfl
@[simp] theorem State.modEvq_tasks (f d : Nat) (g : EventQ → EventQ) : (s.modEvq f d g).tasks = s.tasks := rfl
@[simp] theorem State.modEvq_gangs (f d : Nat) (g : EventQ → EventQ) : (s.modEvq f d g).gangs = s.gangs := rfl
@[simp] theorem State.modEvq_outbox (f d : Nat) (g : EventQ → EventQ) : (s.modEvq f d g).outbox = s.outbox := rfl
@[simp] theorem State.modEvq_focus (f d : Nat) (g : EventQ → EventQ) : (s.modEvq f d g).focus = s.focus := rfl
@[simp] theorem State.modEvq_agenda (f d : Nat) (g : EventQ → EventQ) : (s.modEvq f d g).agenda = s.agenda := rfl
@[simp] theorem State.modEvq_later (f d : Nat) (g : EventQ → EventQ) : (s.modEvq f d g).later = s.later := rfl
@[simp] theorem State.modEvq_tick (f d : Nat) (g : EventQ → EventQ) : (s.modEvq f d g).tick = s.tick := rfl
@[simp] theorem State.modEvq_nextId (f d : Nat) (g : EventQ → EventQ) : (s.modEvq f d g).nextId = s.nextId := rfl
@[simp] theorem State.modEvq_clock (f d : Nat) (g : EventQ → EventQ) : (s.modEvq f d g).clock = s.clock := rfl
@[simp] theorem State.modEvq_epoch (f d : Nat) (g : EventQ → EventQ) : (s.modEvq f d g).epoch = s.epoch := rfl
@[simp] theorem State.modEvq_window (f d : Nat) (g : EventQ → EventQ) : (s.modEvq f d g).window = s.window := rfl
@[simp] theorem State.modEvq_boots (f d : Nat) (g : EventQ → EventQ) : (s.modEvq f d g).boots = s.boots := rfl

/-! ### emit -/

@[simp] theorem State.emit_lpddr (o : Out) : (s.emit o).lpddr = s.lpddr := rfl
@[simp] theorem State.emit_mem (o : Out) : (s.emit o).mem = s.mem := rfl
@[simp] theorem State.emit_poison (o : Out) : (s.emit o).poison = s.poison := rfl
@[simp] theorem State.emit_blocks (o : Out) : (s.emit o).blocks = s.blocks := rfl
@[simp] theorem State.emit_grids (o : Out) : (s.emit o).grids = s.grids := rfl
@[simp] theorem State.emit_dies (o : Out) : (s.emit o).dies = s.dies := rfl
@[simp] theorem State.emit_cores (o : Out) : (s.emit o).cores = s.cores := rfl
@[simp] theorem State.emit_queues (o : Out) : (s.emit o).queues = s.queues := rfl
@[simp] theorem State.emit_fns (o : Out) : (s.emit o).fns = s.fns := rfl
@[simp] theorem State.emit_evq (o : Out) : (s.emit o).evq = s.evq := rfl
@[simp] theorem State.emit_l2tlb (o : Out) : (s.emit o).l2tlb = s.l2tlb := rfl
@[simp] theorem State.emit_ops (o : Out) : (s.emit o).ops = s.ops := rfl
@[simp] theorem State.emit_parks (o : Out) : (s.emit o).parks = s.parks := rfl
@[simp] theorem State.emit_pkts (o : Out) : (s.emit o).pkts = s.pkts := rfl
@[simp] theorem State.emit_cells (o : Out) : (s.emit o).cells = s.cells := rfl
@[simp] theorem State.emit_fabric (o : Out) : (s.emit o).fabric = s.fabric := rfl
@[simp] theorem State.emit_hdmcfg (o : Out) : (s.emit o).hdmcfg = s.hdmcfg := rfl
@[simp] theorem State.emit_pwrctl (o : Out) : (s.emit o).pwrctl = s.pwrctl := rfl
@[simp] theorem State.emit_pwrstat (o : Out) : (s.emit o).pwrstat = s.pwrstat := rfl
@[simp] theorem State.emit_upViral (o : Out) : (s.emit o).upViral = s.upViral := rfl
@[simp] theorem State.emit_snoops (o : Out) : (s.emit o).snoops = s.snoops := rfl
@[simp] theorem State.emit_hostShared (o : Out) : (s.emit o).hostShared = s.hostShared := rfl
@[simp] theorem State.emit_snoopHeld (o : Out) : (s.emit o).snoopHeld = s.snoopHeld := rfl
@[simp] theorem State.emit_revoking (o : Out) : (s.emit o).revoking = s.revoking := rfl
@[simp] theorem State.emit_remotes (o : Out) : (s.emit o).remotes = s.remotes := rfl
@[simp] theorem State.emit_far (o : Out) : (s.emit o).far = s.far := rfl
@[simp] theorem State.emit_farNow (o : Out) : (s.emit o).farNow = s.farNow := rfl
@[simp] theorem State.emit_farPos (o : Out) : (s.emit o).farPos = s.farPos := rfl
@[simp] theorem State.emit_farAsk (o : Out) : (s.emit o).farAsk = s.farAsk := rfl
@[simp] theorem State.emit_sessions (o : Out) : (s.emit o).sessions = s.sessions := rfl
@[simp] theorem State.emit_tasks (o : Out) : (s.emit o).tasks = s.tasks := rfl
@[simp] theorem State.emit_gangs (o : Out) : (s.emit o).gangs = s.gangs := rfl
@[simp] theorem State.emit_focus (o : Out) : (s.emit o).focus = s.focus := rfl
@[simp] theorem State.emit_agenda (o : Out) : (s.emit o).agenda = s.agenda := rfl
@[simp] theorem State.emit_later (o : Out) : (s.emit o).later = s.later := rfl
@[simp] theorem State.emit_tick (o : Out) : (s.emit o).tick = s.tick := rfl
@[simp] theorem State.emit_nextId (o : Out) : (s.emit o).nextId = s.nextId := rfl
@[simp] theorem State.emit_clock (o : Out) : (s.emit o).clock = s.clock := rfl
@[simp] theorem State.emit_epoch (o : Out) : (s.emit o).epoch = s.epoch := rfl
@[simp] theorem State.emit_window (o : Out) : (s.emit o).window = s.window := rfl
@[simp] theorem State.emit_boots (o : Out) : (s.emit o).boots = s.boots := rfl

/-! ### fresh -/

@[simp] theorem State.fresh_lpddr (w : Nat) : ((s.fresh w).2).lpddr = s.lpddr := rfl
@[simp] theorem State.fresh_mem (w : Nat) : ((s.fresh w).2).mem = s.mem := rfl
@[simp] theorem State.fresh_poison (w : Nat) : ((s.fresh w).2).poison = s.poison := rfl
@[simp] theorem State.fresh_blocks (w : Nat) : ((s.fresh w).2).blocks = s.blocks := rfl
@[simp] theorem State.fresh_grids (w : Nat) : ((s.fresh w).2).grids = s.grids := rfl
@[simp] theorem State.fresh_dies (w : Nat) : ((s.fresh w).2).dies = s.dies := rfl
@[simp] theorem State.fresh_cores (w : Nat) : ((s.fresh w).2).cores = s.cores := rfl
@[simp] theorem State.fresh_queues (w : Nat) : ((s.fresh w).2).queues = s.queues := rfl
@[simp] theorem State.fresh_fns (w : Nat) : ((s.fresh w).2).fns = s.fns := rfl
@[simp] theorem State.fresh_evq (w : Nat) : ((s.fresh w).2).evq = s.evq := rfl
@[simp] theorem State.fresh_l2tlb (w : Nat) : ((s.fresh w).2).l2tlb = s.l2tlb := rfl
@[simp] theorem State.fresh_ops (w : Nat) : ((s.fresh w).2).ops = s.ops := rfl
@[simp] theorem State.fresh_parks (w : Nat) : ((s.fresh w).2).parks = s.parks := rfl
@[simp] theorem State.fresh_pkts (w : Nat) : ((s.fresh w).2).pkts = s.pkts := rfl
@[simp] theorem State.fresh_cells (w : Nat) : ((s.fresh w).2).cells = s.cells := rfl
@[simp] theorem State.fresh_fabric (w : Nat) : ((s.fresh w).2).fabric = s.fabric := rfl
@[simp] theorem State.fresh_hdmcfg (w : Nat) : ((s.fresh w).2).hdmcfg = s.hdmcfg := rfl
@[simp] theorem State.fresh_pwrctl (w : Nat) : ((s.fresh w).2).pwrctl = s.pwrctl := rfl
@[simp] theorem State.fresh_pwrstat (w : Nat) : ((s.fresh w).2).pwrstat = s.pwrstat := rfl
@[simp] theorem State.fresh_upViral (w : Nat) : ((s.fresh w).2).upViral = s.upViral := rfl
@[simp] theorem State.fresh_snoops (w : Nat) : ((s.fresh w).2).snoops = s.snoops := rfl
@[simp] theorem State.fresh_hostShared (w : Nat) : ((s.fresh w).2).hostShared = s.hostShared := rfl
@[simp] theorem State.fresh_snoopHeld (w : Nat) : ((s.fresh w).2).snoopHeld = s.snoopHeld := rfl
@[simp] theorem State.fresh_revoking (w : Nat) : ((s.fresh w).2).revoking = s.revoking := rfl
@[simp] theorem State.fresh_remotes (w : Nat) : ((s.fresh w).2).remotes = s.remotes := rfl
@[simp] theorem State.fresh_far (w : Nat) : ((s.fresh w).2).far = s.far := rfl
@[simp] theorem State.fresh_farNow (w : Nat) : ((s.fresh w).2).farNow = s.farNow := rfl
@[simp] theorem State.fresh_farPos (w : Nat) : ((s.fresh w).2).farPos = s.farPos := rfl
@[simp] theorem State.fresh_farAsk (w : Nat) : ((s.fresh w).2).farAsk = s.farAsk := rfl
@[simp] theorem State.fresh_sessions (w : Nat) : ((s.fresh w).2).sessions = s.sessions := rfl
@[simp] theorem State.fresh_tasks (w : Nat) : ((s.fresh w).2).tasks = s.tasks := rfl
@[simp] theorem State.fresh_gangs (w : Nat) : ((s.fresh w).2).gangs = s.gangs := rfl
@[simp] theorem State.fresh_outbox (w : Nat) : ((s.fresh w).2).outbox = s.outbox := rfl
@[simp] theorem State.fresh_focus (w : Nat) : ((s.fresh w).2).focus = s.focus := rfl
@[simp] theorem State.fresh_agenda (w : Nat) : ((s.fresh w).2).agenda = s.agenda := rfl
@[simp] theorem State.fresh_later (w : Nat) : ((s.fresh w).2).later = s.later := rfl
@[simp] theorem State.fresh_nextId (w : Nat) : ((s.fresh w).2).nextId = s.nextId := rfl
@[simp] theorem State.fresh_clock (w : Nat) : ((s.fresh w).2).clock = s.clock := rfl
@[simp] theorem State.fresh_epoch (w : Nat) : ((s.fresh w).2).epoch = s.epoch := rfl
@[simp] theorem State.fresh_window (w : Nat) : ((s.fresh w).2).window = s.window := rfl
@[simp] theorem State.fresh_boots (w : Nat) : ((s.fresh w).2).boots = s.boots := rfl

/-! ### newId -/

@[simp] theorem State.newId_lpddr : (s.newId.2).lpddr = s.lpddr := rfl
@[simp] theorem State.newId_mem : (s.newId.2).mem = s.mem := rfl
@[simp] theorem State.newId_poison : (s.newId.2).poison = s.poison := rfl
@[simp] theorem State.newId_blocks : (s.newId.2).blocks = s.blocks := rfl
@[simp] theorem State.newId_grids : (s.newId.2).grids = s.grids := rfl
@[simp] theorem State.newId_dies : (s.newId.2).dies = s.dies := rfl
@[simp] theorem State.newId_cores : (s.newId.2).cores = s.cores := rfl
@[simp] theorem State.newId_queues : (s.newId.2).queues = s.queues := rfl
@[simp] theorem State.newId_fns : (s.newId.2).fns = s.fns := rfl
@[simp] theorem State.newId_evq : (s.newId.2).evq = s.evq := rfl
@[simp] theorem State.newId_l2tlb : (s.newId.2).l2tlb = s.l2tlb := rfl
@[simp] theorem State.newId_ops : (s.newId.2).ops = s.ops := rfl
@[simp] theorem State.newId_parks : (s.newId.2).parks = s.parks := rfl
@[simp] theorem State.newId_pkts : (s.newId.2).pkts = s.pkts := rfl
@[simp] theorem State.newId_cells : (s.newId.2).cells = s.cells := rfl
@[simp] theorem State.newId_fabric : (s.newId.2).fabric = s.fabric := rfl
@[simp] theorem State.newId_hdmcfg : (s.newId.2).hdmcfg = s.hdmcfg := rfl
@[simp] theorem State.newId_pwrctl : (s.newId.2).pwrctl = s.pwrctl := rfl
@[simp] theorem State.newId_pwrstat : (s.newId.2).pwrstat = s.pwrstat := rfl
@[simp] theorem State.newId_upViral : (s.newId.2).upViral = s.upViral := rfl
@[simp] theorem State.newId_snoops : (s.newId.2).snoops = s.snoops := rfl
@[simp] theorem State.newId_hostShared : (s.newId.2).hostShared = s.hostShared := rfl
@[simp] theorem State.newId_snoopHeld : (s.newId.2).snoopHeld = s.snoopHeld := rfl
@[simp] theorem State.newId_revoking : (s.newId.2).revoking = s.revoking := rfl
@[simp] theorem State.newId_remotes : (s.newId.2).remotes = s.remotes := rfl
@[simp] theorem State.newId_far : (s.newId.2).far = s.far := rfl
@[simp] theorem State.newId_farNow : (s.newId.2).farNow = s.farNow := rfl
@[simp] theorem State.newId_farPos : (s.newId.2).farPos = s.farPos := rfl
@[simp] theorem State.newId_farAsk : (s.newId.2).farAsk = s.farAsk := rfl
@[simp] theorem State.newId_sessions : (s.newId.2).sessions = s.sessions := rfl
@[simp] theorem State.newId_tasks : (s.newId.2).tasks = s.tasks := rfl
@[simp] theorem State.newId_gangs : (s.newId.2).gangs = s.gangs := rfl
@[simp] theorem State.newId_outbox : (s.newId.2).outbox = s.outbox := rfl
@[simp] theorem State.newId_focus : (s.newId.2).focus = s.focus := rfl
@[simp] theorem State.newId_agenda : (s.newId.2).agenda = s.agenda := rfl
@[simp] theorem State.newId_later : (s.newId.2).later = s.later := rfl
@[simp] theorem State.newId_tick : (s.newId.2).tick = s.tick := rfl
@[simp] theorem State.newId_clock : (s.newId.2).clock = s.clock := rfl
@[simp] theorem State.newId_epoch : (s.newId.2).epoch = s.epoch := rfl
@[simp] theorem State.newId_window : (s.newId.2).window = s.window := rfl
@[simp] theorem State.newId_boots : (s.newId.2).boots = s.boots := rfl

@[simp] theorem State.emit_outbox (o : Out) : (s.emit o).outbox = s.outbox ++ [o] := rfl
@[simp] theorem State.fresh_tick (w : Nat) : (s.fresh w).2.tick = s.tick + 1 := rfl
@[simp] theorem State.fresh_fst (w : Nat) : (s.fresh w).1 = Config.free w s.tick := rfl
@[simp] theorem State.newId_nextId : s.newId.2.nextId = s.nextId + 1 := rfl
@[simp] theorem State.newId_fst : s.newId.1 = s.nextId := rfl

/-! ### The accessors after the updates -/

theorem State.blkOf_modBlk (b c : Nat) (f : Block → Block) :
    (s.modBlk b f).blkOf c = if b = c then f (s.blkOf b) else s.blkOf c := Tab.get_set _ _ _ _ _

@[simp] theorem State.blkOf_modBlk_same (b : Nat) (f : Block → Block) : (s.modBlk b f).blkOf b = f (s.blkOf b) := by
  simp [State.blkOf_modBlk]

theorem State.blkOf_modBlk_ne {b c : Nat} (f : Block → Block) (h : b ≠ c) : (s.modBlk b f).blkOf c = s.blkOf c := by
  simp [State.blkOf_modBlk, h]

/-- A change of one group leaves the rest of its block, and every other block. -/
theorem State.blkOf_modGrp (b g c : Nat) (f : Group → Group) :
    (s.modGrp b g f).blkOf c = if b = c then { s.blkOf b with groups := (s.blkOf b).groups.set g (f (s.grpOf b g)) }
      else s.blkOf c := State.blkOf_modBlk s b c _

theorem State.grpOf_modGrp (b g c h : Nat) (f : Group → Group) :
    (s.modGrp b g f).grpOf c h = if b = c ∧ g = h then f (s.grpOf b g) else s.grpOf c h := by
  rw [State.grpOf, State.blkOf_modGrp]
  by_cases hb : b = c
  · subst hb
    simp only [if_true, true_and, Tab.get_set, State.grpOf]
  · simp [hb, State.grpOf]

@[simp] theorem State.grpOf_modGrp_same (b g : Nat) (f : Group → Group) : (s.modGrp b g f).grpOf b g = f (s.grpOf b g) := by
  simp [State.grpOf_modGrp]

theorem State.grpOf_modSplOf (b g e c h : Nat) (f : Split → Split) :
    (s.modSplOf b g e f).grpOf c h =
      if b = c ∧ g = h then { s.grpOf b g with splits := (s.grpOf b g).splits.set e (f (s.splOf b g e)) } else s.grpOf c h :=
  State.grpOf_modGrp s b g c h _

theorem State.splOf_modSplOf (b g e c h i : Nat) (f : Split → Split) :
    (s.modSplOf b g e f).splOf c h i = if b = c ∧ g = h ∧ e = i then f (s.splOf b g e) else s.splOf c h i := by
  rw [State.splOf, State.grpOf_modSplOf]
  by_cases hb : b = c ∧ g = h
  · obtain ⟨rfl, rfl⟩ := hb
    simp only [and_self, if_true, true_and, Tab.get_set, State.splOf]
  · rw [if_neg hb, if_neg (fun hh => hb ⟨hh.1, hh.2.1⟩), State.splOf]

@[simp] theorem State.splOf_modSplOf_same (b g e : Nat) (f : Split → Split) :
    (s.modSplOf b g e f).splOf b g e = f (s.splOf b g e) := by simp [State.splOf_modSplOf]

/-- A change of a group's registers or buffers, not of its splits, leaves the splits. -/
theorem State.splOf_modGrp (b g c h i : Nat) (f : Group → Group) :
    (s.modGrp b g f).splOf c h i = if b = c ∧ g = h then (f (s.grpOf b g)).splits.get {} i else s.splOf c h i := by
  rw [State.splOf, State.grpOf_modGrp]
  split <;> rfl

@[simp] theorem State.blk_modB (f : Block → Block) : (s.modB f).blk = f s.blk := by
  simp [State.blk, State.modB]
@[simp] theorem State.grp_modG (f : Group → Group) : (s.modG f).grp = f s.grp := by
  simp [State.grp, State.modG]
@[simp] theorem State.spl_modS (f : Split → Split) : (s.modS f).spl = f s.spl := by
  simp [State.spl, State.modS]
@[simp] theorem State.grp_modS (f : Split → Split) :
    (s.modS f).grp = { s.grp with splits := s.grp.splits.set s.focus.ent (f s.spl) } := by
  simp [State.grp, State.spl, State.modS, State.grpOf_modSplOf]
theorem State.spl_modG (f : Group → Group) : (s.modG f).spl = (f s.grp).splits.get {} s.focus.ent := by
  simp [State.spl, State.grp, State.modG, State.splOf_modGrp]
theorem State.blk_modG (f : Group → Group) :
    (s.modG f).blk = { s.blk with groups := s.blk.groups.set s.focus.grp (f s.grp) } := by
  simp [State.blk, State.grp, State.modG, State.blkOf_modGrp]
theorem State.blk_modS (f : Split → Split) :
    (s.modS f).blk = { s.blk with groups := s.blk.groups.set s.focus.grp (s.modS f).grp } := by
  rw [State.grp_modS]
  simp [State.blk, State.grp, State.spl, State.modS, State.modSplOf, State.blkOf_modGrp, State.splOf]
@[simp] theorem State.ms_modM (f : Stream → Stream) : (s.modM f).ms = f s.ms := by
  simp [State.ms, State.modM]

@[simp] theorem State.getS_setS_pc (r : Nat) (v : Word) : (s.setS r v).spl.pc = s.spl.pc := by
  simp only [State.setS, State.spl_modS, Split.setS]; split <;> rfl

theorem State.gridOf_modGrid (g h : Nat) (f : Grid → Grid) :
    (s.modGrid g f).gridOf h = if g = h then f (s.gridOf g) else s.gridOf h := Tab.get_set _ _ _ _ _
theorem State.dieOf_modDie (d e : Nat) (f : Die → Die) :
    (s.modDie d f).dieOf e = if d = e then f (s.dieOf d) else s.dieOf e := Tab.get_set _ _ _ _ _
theorem State.coreOf_modCore (d c e k : Nat) (f : Core → Core) :
    (s.modCore d c f).coreOf e k = if State.coreKey d c = State.coreKey e k then f (s.coreOf d c) else s.coreOf e k :=
  Tab.get_set _ _ _ _ _
theorem State.queueOf_modQueue (q r : Nat) (f : Queue → Queue) :
    (s.modQueue q f).queueOf r = if q = r then f (s.queueOf q) else s.queueOf r := Tab.get_set _ _ _ _ _
theorem State.fnOf_modFn (f h : Nat) (g : Fn → Fn) :
    (s.modFn f g).fnOf h = if f = h then g (s.fnOf f) else s.fnOf h := Tab.get_set _ _ _ _ _
theorem State.evqOf_modEvq (f d h e : Nat) (g : EventQ → EventQ) :
    (s.modEvq f d g).evqOf h e = if 4 * f + d = 4 * h + e then g (s.evqOf f d) else s.evqOf h e := Tab.get_set _ _ _ _ _
theorem State.ctxOf_modCtx (f c h d : Nat) (g : Context → Context) :
    (s.modCtx f c g).ctxOf h d = if f = h ∧ c = d then g (s.ctxOf f c) else s.ctxOf h d := by
  rw [State.ctxOf, State.modCtx, State.fnOf_modFn]
  by_cases hb : f = h
  · subst hb
    simp only [if_true, true_and, Tab.get_set, State.ctxOf]
  · simp [hb, State.ctxOf]

/-- The block of a function on a die after a change of one (R220). -/
theorem State.fnBlock_modFnBlock (f d h e : Nat) (g : FnBlock → FnBlock) :
    (s.modFnBlock f d g).fnBlock h e = if f = h ∧ d = e then g (s.fnBlock f d) else s.fnBlock h e := by
  rw [State.fnBlock, State.modFnBlock, State.fnOf_modFn]
  by_cases hb : f = h
  · subst hb
    simp only [if_true, true_and, Tab.get_set, State.fnBlock]
  · simp only [hb, if_false, false_and, State.fnBlock]

/-- A scalar register after a write of one (R122): s0 to s124 are one cell each. -/
theorem Split.getS_setS (x : Split) (r q : Nat) (v : Word) (h : r < 125) :
    (x.setS r v).getS q = if r = q then v else x.getS q := by
  have h' : ¬ 125 ≤ r := by omega
  simp only [Split.setS, h', if_false, Split.getS, Cells.get_set]
  by_cases hq : r = q
  · subst hq; simp [h']
  · simp [hq]

end Sys2Proof.Machine
end

