-- ==== Sys2Proof/Laws/Device.lean ====
section
/-! SUPPORT. What a controller of a die does where its accesses hit (R221, R225), and that every operation that writes memory keeps
its canonical form. -/

namespace Sys2Proof.Machine

/-! ### Accesses that hit -/

theorem translate_devHits {s : State} {d fn ctx n va pa : Nat} {acc : AccType} (h : DevHits s d fn ctx acc n va pa) :
    ∃ p, s.translate d none fn ctx va acc = (s, .ok p) ∧ s.reachPa fn p n (!acc.writes) = .ok pa := by
  obtain ⟨-, -, t, ht, hw, hp, -⟩ := h
  refine ⟨_, ?_, hp⟩
  unfold State.translate
  rw [ht]
  cases ha : acc.writes
  · rfl
  · simp [hw ha]

theorem translateRun_devHits {s : State} {d fn ctx n va pa : Nat} {acc : AccType} (h : DevHits s d fn ctx acc n va pa) (hn : 0 < n) (k : Nat) :
    ∃ p, s.translateRun d fn ctx acc (k + 2) va n = (s, .ok [(p, n)]) ∧ s.reachPa fn p n (!acc.writes) = .ok pa := by
  have hm : min n (4096 - va % 4096) = n := Nat.min_eq_left h.1
  obtain ⟨p, ht, hp⟩ := translate_devHits h
  refine ⟨p, ?_, hp⟩
  rw [State.translateRun.eq_2]
  simp only [if_neg (Nat.pos_iff_ne_zero.mp hn), hm, ht, Nat.sub_self]
  rw [State.translateRun.eq_2]
  simp

theorem hostTlp_of_range {s : State} {pa : Nat} (h : s.rangeOf pa ≠ .host) : s.hostTlp pa = false := by
  unfold State.hostTlp
  cases hr : s.rangeOf pa <;> first | exact absurd hr h | rfl

theorem devRead_devHits {s : State} {d fn ctx n va pa : Nat} (h : DevHits s d fn ctx .read n va pa) (hn : 0 < n) :
    s.devRead d fn ctx va n = (s, some (s.rd pa n)) := by
  obtain ⟨p, ht, hp⟩ := translateRun_devHits h hn (n / 4096)
  have hr : s.tlpRead pa n = s := by
    obtain ⟨-, -, t, -, -, -, hh⟩ := h
    rw [State.tlpRead, hostTlp_of_range hh]; rfl
  unfold State.devRead
  rw [ht]
  simp only [State.devPieces, State.devPiece]
  rw [show s.reachPa fn p n true = .ok pa from hp]
  simp [hr]

theorem linesOf_one {pa n : Nat} (h : pa % 128 + n ≤ 128) (hn : 0 < n) : State.linesOf pa n = [pa / 128] := by
  have : (pa + n - 1) / 128 = pa / 128 := by omega
  simp [State.linesOf, Nat.pos_iff_ne_zero.mp hn, this]

/-- A write of one line to a home where it need not wait. -/
theorem homeWrites_now {s : State} {pa : Nat} {bs : List Byte} (h : pa % 128 + bs.length ≤ 128) (hn : 0 < bs.length)
    (hc : s.canWrite pa = true) (fn : Nat) (who : Asker) (k : Nat) : s.homeWrites fn who (k + 2) pa bs = (s.wr fn pa bs, true) := by
  simp only [State.canWrite, Bool.and_eq_true, Bool.not_eq_true'] at hc
  have hne : bs ≠ [] := fun e => by rw [e] at hn; exact Nat.lt_irrefl 0 hn
  have ht : bs.take (128 - pa % 128) = bs := List.take_of_length_le (by omega)
  have hd : bs.drop (128 - pa % 128) = [] := List.drop_eq_nil_of_le (by omega)
  have hcl : s.claim pa bs.length = s := by
    simp only [State.claim, linesOf_one h hn, List.foldl_cons, List.foldl_nil, State.claimLine]
    rw [if_neg (by rw [hc.1.2]; exact Bool.false_ne_true), Nat.max_eq_left (by omega), if_neg (by rw [hc.2]; exact Bool.false_ne_true)]
  rw [State.homeWrites.eq_2, if_neg hne]
  simp only [ht, hd, State.homeWrite, hc.1.1, hcl]
  simp [State.homeWrites.eq_2]

theorem devStore_devHits {s : State} {d fn ctx va pa : Nat} {bs : List Byte} (h : DevHits s d fn ctx .write bs.length va pa)
    (hn : 0 < bs.length) (hc : s.canWrite pa = true) (who : Asker) :
    s.devStore d fn ctx va bs who = (s.wr fn pa bs, true, true) := by
  obtain ⟨p, ht, hp⟩ := translateRun_devHits h hn (bs.length / 4096)
  have htg : s.devTarget fn (p, bs.length) = some (pa, false) := by
    unfold State.devTarget
    rw [show s.reachPa fn p bs.length false = .ok pa from hp]
  have hw : (s.reachPa fn p bs.length false == .wait) = false := by rw [show s.reachPa fn p bs.length false = .ok pa from hp]; rfl
  unfold State.devStore
  rw [ht]
  simp only [List.any_cons, List.any_nil, hw, Bool.or_self, Bool.false_eq_true, if_false, List.all_cons, List.all_nil, htg, Option.isSome_some, Bool.and_self, if_true, State.writePieces]
  rw [List.take_of_length_le (Nat.le_refl _), homeWrites_now (h.2.1 rfl) hn hc]
  simp

theorem devWrite_devHits {s : State} {d fn ctx va pa : Nat} {bs : List Byte} (h : DevHits s d fn ctx .write bs.length va pa)
    (hn : 0 < bs.length) (hc : s.canWrite pa = true) : s.devWrite d fn ctx va bs = (s.wr fn pa bs, true) := by
  unfold State.devWrite
  rw [devStore_devHits h hn hc]

/-- What an agent does is done whole once no access of it to another module waits (R371; log 71). -/
theorem farSee_done {α : Type} {s : State} {w : FarWho} {f : State → State × α} {t : State} {r : α} (hf : f (s.asAgent w) = (t, r))
    (h : t.farAsk = none) (die : Nat) : s.farSee w die f = (t.agentDone s w, some r) := by
  unfold State.farSee
  rw [hf]
  simp only [h]

theorem farTry_done {s : State} {w : FarWho} {f : State → State} {t : State} (hf : f (s.asAgent w) = t) (h : t.farAsk = none) (die : Nat) :
    s.farTry w die f = (t.agentDone s w, true) := by
  have hs : (fun u => (f u, ())) (s.asAgent w) = (t, ()) := by simp only [hf]
  unfold State.farTry
  rw [farSee_done hs h]
  rfl

theorem farRun_done {s : State} {w : FarWho} {f : State → State} {t : State} (hf : f (s.asAgent w) = t) (h : t.farAsk = none) (die : Nat) :
    s.farRun w die f = t.agentDone s w := by
  unfold State.farRun
  rw [farTry_done hf h]

theorem fwIssue_serves {s u : State} {d l q : Nat} {b : List Byte} (h : Serves s d l q b u) {t : Nat} (ht : pkType b = t)
    (k : State → Nat → List Byte → State) (hk : (k u q b).farAsk = none) :
    s.fwIssue d l t k = (k u q b).agentDone s (.queue q) := by
  obtain ⟨h1, h2, h3, i, hi, rfl⟩ := h
  subst ht
  have hf : (match (s.asAgent (.queue (1024 * d + i))).fwTurn d l (pkType b) with
      | (s, false) => s
      | (s, true) =>
        match s.queueHead (1024 * d + i) with
        | .empty => s
        | .fault => s.queueErr (1024 * d + i) 0x09 0
        | .short _ => s.queueErr (1024 * d + i) 0x02 0
        | .pkt b =>
          match s.packetError (1024 * d + i) b with
          | some e => s.queueErr (1024 * d + i) e.1 e.2
          | none => k s (1024 * d + i) b) = k u (1024 * d + i) b := by simp only [h1, h2, h3]
  simp only [State.fwIssue, hi, State.atFirmware]
  exact farRun_done hf hk _

/-! ### Memory keeps its canonical form -/

theorem memInv_of_mem {s t : State} (h : MemInv s) (e : t.mem = s.mem) : MemInv t := by unfold MemInv at *; rw [e]; exact h

theorem foldl_memInv {α β : Type} (g : β → State) (f : β → α → β) (hf : ∀ a p, MemInv (g a) → MemInv (g (f a p))) (l : List α) (a : β)
    (h : MemInv (g a)) : MemInv (g (l.foldl f a)) := by
  induction l generalizing a with
  | nil => exact h
  | cons p t ih => exact ih _ (hf a p h)

theorem ask_mem (s : State) (a : FarAsk) : (s.ask a).mem = s.mem := by unfold State.ask; split <;> rfl

theorem claimLine_mem (s : State) (l pa : Nat) : (s.claimLine l pa).mem = s.mem := by
  unfold State.claimLine
  repeat' split
  all_goals first | rfl | exact ask_mem ..

theorem claim_memInv {s : State} (h : MemInv s) (pa n : Nat) : MemInv (s.claim pa n) :=
  foldl_memInv id _ (fun a p ha => memInv_of_mem ha (claimLine_mem a p _)) _ _ h

theorem holdReq_mem (s : State) (r : HeldReq) : (s.holdReq r).mem = s.mem := by
  unfold State.holdReq; split <;> rfl

theorem orByte_memInv {s : State} (h : MemInv s) (pa : Nat) (m : Byte) : MemInv (s.orByte pa m) := by
  unfold State.orByte
  split
  · exact memInv_of_mem h (holdReq_mem ..)
  · exact Cells.wf_set _ _ (claim_memInv h pa 1)

theorem markDirty_memInv {s : State} (h : MemInv s) (fn pa : Nat) : MemInv (s.markDirty fn pa) := by
  unfold State.markDirty
  split
  · exact orByte_memInv h ..
  · exact h

theorem tlpWrite_mem (s : State) (pa : Nat) (bs : List Byte) : (s.tlpWrite pa bs).mem = s.mem := by
  unfold State.tlpWrite; split <;> rfl

theorem tlpRead_mem (s : State) (pa n : Nat) : (s.tlpRead pa n).mem = s.mem := by
  unfold State.tlpRead; split <;> rfl

theorem wr_memInv {s : State} (h : MemInv s) (fn pa : Nat) (bs : List Byte) : MemInv (s.wr fn pa bs) :=
  putBytes_wf _ _ (memInv_of_mem (markDirty_memInv h fn pa) (tlpWrite_mem _ pa bs))

theorem homeWrite_memInv {s : State} (h : MemInv s) (fn pa : Nat) (bs : List Byte) (who : Asker) : MemInv (s.homeWrite fn pa bs who).1 := by
  unfold State.homeWrite
  split
  · exact memInv_of_mem h (holdReq_mem ..)
  · exact wr_memInv (claim_memInv h ..) ..

theorem homeWrites_memInv {s : State} (h : MemInv s) (fn : Nat) (who : Asker) (k pa : Nat) (bs : List Byte) :
    MemInv (s.homeWrites fn who k pa bs).1 := by
  induction k generalizing s pa bs with
  | zero => exact h
  | succ k ih =>
    rw [State.homeWrites.eq_2]
    split
    · exact h
    · exact ih (homeWrite_memInv h ..) _ _

theorem sendFlit_mem (s : State) (d l : Nat) (p : List Byte) : (s.sendFlit d l p).mem = s.mem := by
  have he : ∀ (t : State) (fs : List Flit), (t.emitFlits d l fs).mem = t.mem := by
    intro t fs
    have hf : ∀ u : State, (fs.foldl (fun s f => s.emit (.flit d l (Flit.wire f))) u).mem = u.mem := by
      induction fs with
      | nil => intro u; rfl
      | cons f r ih => intro u; exact ih (u.emit (.flit d l (Flit.wire f)))
    unfold State.emitFlits
    split
    · exact hf t
    · rfl
  unfold State.sendFlit
  dsimp only
  split
  · exact he _ _
  · rfl

theorem flitsTo_mem (s : State) (pa : Nat) (bs : List Byte) : (s.flitsTo pa bs).mem = s.mem := by
  unfold State.flitsTo
  split
  · generalize List.range ((bs.length + 229) / 230) = l
    rename_i p hp
    clear hp
    induction l generalizing s with
    | nil => rfl
    | cons i t ih => exact (ih _).trans (sendFlit_mem ..)
  · rfl

theorem sendMsg_mem (s : State) (id pa fn : Nat) (req : RemoteOp) : (s.sendMsg id pa fn req).mem = s.mem := by
  unfold State.sendMsg
  split
  · exact flitsTo_mem ..
  · rfl

theorem postRemote_mem (s : State) (r : Remote) : (s.postRemote r).mem = s.mem := by
  unfold State.postRemote
  dsimp only
  split
  · rfl
  · exact sendMsg_mem ..

theorem farDo_mem (s : State) (fn pa : Nat) (req : RemoteOp) : (s.farDo fn pa req).1.mem = s.mem := by
  unfold State.farDo
  repeat' split
  all_goals first | rfl | exact ask_mem ..

theorem tabRead_mem (s : State) (fn pa : Nat) : (tabRead s fn pa).1.mem = s.mem := by
  unfold tabRead
  split
  · exact tlpRead_mem ..
  · rename_i pa _
    have h := farDo_mem s fn pa (.read 8)
    split <;> rename_i hl <;> rw [hl] at h <;> exact h
  · exact ask_mem ..
  all_goals rfl

theorem farRead_memInv {s : State} (h : MemInv s) (fn k pa n : Nat) : MemInv (s.farRead fn k pa n).1 := by
  induction k generalizing s pa n with
  | zero => exact h
  | succ k ih =>
    have hd := memInv_of_mem h (farDo_mem s fn pa (.read (min n (128 - pa % 128))))
    rw [State.farRead.eq_2]
    split
    · exact h
    · dsimp only
      split
      · rename_i hl
        rw [hl] at hd
        have hr := ih hd (pa + min n (128 - pa % 128)) (n - min n (128 - pa % 128))
        split <;> rename_i hm <;> rw [hm] at hr <;> exact hr
      · rename_i hl; rw [hl] at hd; exact hd

theorem farWrite_memInv {s : State} (h : MemInv s) (fn k pa : Nat) (bs : List Byte) : MemInv (s.farWrite fn k pa bs).1 := by
  induction k generalizing s pa bs with
  | zero => exact h
  | succ k ih =>
    have hd := memInv_of_mem h (farDo_mem s fn pa (.write (bs.take (128 - pa % 128))))
    rw [State.farWrite.eq_2]
    split
    · exact h
    · dsimp only
      split <;> rename_i hl <;> rw [hl] at hd
      · exact ih hd _ _
      · exact hd

theorem leafUpdate_memInv {s : State} (h : MemInv s) (fn pa e : Nat) (w : Bool) : MemInv (leafUpdate s fn pa e w).1 := by
  unfold leafUpdate
  dsimp only
  generalize (if w = true then 0x30 else 0x10) = x
  split
  · exact h
  · split
    · exact h
    · split
      · rename_i pa _
        have hd := memInv_of_mem h (farDo_mem s fn pa (.atomic .or 8 x x))
        split <;> rename_i hl <;> rw [hl] at hd <;> exact hd
      · exact h
      · exact orByte_memInv h ..

theorem leafEnd_memInv {s : State} (h : MemInv s) (fn ctx va pa e size : Nat) (acc : AccType) :
    MemInv (leafEnd s fn ctx va pa e size acc).1 := by
  have hu := leafUpdate_memInv h fn pa e acc.writes
  unfold leafEnd
  repeat' split
  all_goals first | exact h | (rename_i hl; rw [hl] at hu; exact hu)

theorem walkFrom_memInv {s : State} (h : MemInv s) (fn ctx dom rb va : Nat) (acc : AccType) (n tab : Nat) :
    MemInv (walkFrom s fn ctx dom rb va acc n tab).1 := by
  induction n generalizing s tab with
  | zero => exact h
  | succ n ih =>
    have ht := fun (u : State) (hu : MemInv u) a => memInv_of_mem hu (tabRead_mem u fn a)
    rw [walkFrom.eq_2]
    dsimp only
    split
    · have h1 := ht s h (tab + 8 * (16 * bits va 20 16))
      split <;> rename_i hl <;> rw [hl] at h1
      · exact h1
      · split
        · split
          · exact h1
          · exact leafEnd_memInv h1 ..
        · have h2 := ht _ h1 (tab + 8 * bits va 20 12)
          split <;> rename_i hm <;> rw [hm] at h2
          · exact h2
          · split
            · exact h2
            · split
              · exact h2
              · exact leafEnd_memInv h2 ..
    · generalize (if 3 - n = 0 then bits va 55 39 else if 3 - n = 1 then bits va 38 30 else bits va 29 21) = i
      split
      · exact h
      · have h1 := ht s h (tab + 8 * i)
        split <;> rename_i hl <;> rw [hl] at h1
        · exact h1
        · repeat' split
          all_goals first | exact h1 | exact leafEnd_memInv h1 .. | exact ih h1 _

/-- A page-table walk writes memory only to mark a leaf, and keeps its canonical form. -/
theorem walk_memInv {s : State} (h : MemInv s) (die fn ctx va : Nat) (acc : AccType) : MemInv (walk s die fn ctx va acc).1 := by
  have ht := fun (u : State) (hu : MemInv u) a => memInv_of_mem hu (tabRead_mem u fn a)
  unfold walk
  dsimp only
  split
  · exact h
  · generalize (s.fnBlock fn die).ctxTable + 16 * ctx = a
    have h1 := ht s h a
    split <;> rename_i hl <;> rw [hl] at h1
    · exact h1
    · have h2 := ht _ h1 (a + 8)
      split <;> rename_i hm <;> rw [hm] at h2
      · exact h2
      · repeat' split
        all_goals first | exact h2 | exact walkFrom_memInv h2 ..

theorem fillTlb_mem (s : State) (d : Nat) (c : Option Nat) (t : Tlb) : (s.fillTlb d c t).mem = s.mem := by
  cases c <;> rfl

theorem translate_memInv {s : State} (h : MemInv s) (d : Nat) (c : Option Nat) (fn ctx va : Nat) (acc : AccType) :
    MemInv (s.translate d c fn ctx va acc).1 := by
  have hw := walk_memInv h d fn ctx va acc
  unfold State.translate
  split
  · split <;> exact h
  · split <;> rename_i hl <;> rw [hl] at hw
    · exact hw
    · exact memInv_of_mem hw (fillTlb_mem ..)

theorem translateRun_memInv {s : State} (h : MemInv s) (d fn ctx : Nat) (acc : AccType) (k va n : Nat) :
    MemInv (s.translateRun d fn ctx acc k va n).1 := by
  induction k generalizing s va n with
  | zero => exact h
  | succ k ih =>
    have ht := translate_memInv h d none fn ctx va acc
    rw [State.translateRun.eq_2]
    split
    · exact h
    · dsimp only
      split
      · rename_i hl; rw [hl] at ht; exact ht
      · rename_i hl; rw [hl] at ht
        have hr := ih ht (va + min n (4096 - va % 4096)) (n - min n (4096 - va % 4096))
        split <;> rename_i hm <;> rw [hm] at hr <;> exact hr

theorem reach_memInv {s : State} (h : MemInv s) (b : Block) (va n : Nat) (acc : AccType) : MemInv (s.reach b va n acc).1 := by
  have ht := translate_memInv h b.die (some b.core) (s.gridOf b.grid).fn (s.gridOf b.grid).ctx va acc
  unfold State.reach
  dsimp only
  split <;> rename_i hl <;> rw [hl] at ht <;> exact ht

theorem reachLanes_memInv {s : State} (h : MemInv s) (acc : AccType) (n : Nat) (las : List (Nat × Nat)) :
    MemInv (reachLanes acc n las s).1 := by
  induction las generalizing s with
  | nil => exact h
  | cons r t ih =>
    obtain ⟨l, va⟩ := r
    have h1 := reach_memInv h s.blk va n acc
    exact ih h1

theorem devPiece_memInv {s : State} (h : MemInv s) (fn pa n : Nat) : MemInv (s.devPiece fn pa n).1 := by
  unfold State.devPiece
  repeat' split
  all_goals first | exact h | exact farRead_memInv h .. | exact memInv_of_mem h (tlpRead_mem ..) | exact memInv_of_mem h (ask_mem ..)

theorem devPieces_memInv {s : State} (h : MemInv s) (fn : Nat) (l : List (Nat × Nat)) : MemInv (s.devPieces fn l).1 := by
  induction l generalizing s with
  | nil => exact h
  | cons p t ih =>
    have hp := devPiece_memInv h fn p.1 p.2
    rw [State.devPieces.eq_2]
    split <;> rename_i hl <;> rw [hl] at hp
    · exact hp
    · have ht := ih hp
      split <;> rename_i hm <;> rw [hm] at ht <;> exact ht

theorem devRead_memInv {s : State} (h : MemInv s) (d fn ctx va n : Nat) : MemInv (s.devRead d fn ctx va n).1 := by
  have ht := translateRun_memInv h d fn ctx .read (n / 4096 + 2) va n
  unfold State.devRead
  split <;> rename_i hl <;> rw [hl] at ht
  · exact ht
  · exact devPieces_memInv ht ..

theorem farStore_memInv {s : State} (h : MemInv s) (d fn pa : Nat) (bs : List Byte) (who : Asker) :
    MemInv (s.farStore d fn pa bs who).1 := by
  have hf := farWrite_memInv h fn (bs.length / 128 + 2) pa bs
  unfold State.farStore
  split
  · exact memInv_of_mem h (postRemote_mem ..)
  · exact hf

theorem writePieces_memInv {s : State} (h : MemInv s) (d fn : Nat) (who : Asker) (l : List (Nat × Nat)) (bs : List Byte) :
    MemInv (s.writePieces d fn who l bs).1 := by
  induction l generalizing s bs with
  | nil => exact h
  | cons p t ih =>
    rw [State.writePieces.eq_2]
    split
    · exact h
    · rename_i pa far _
      have hf := farStore_memInv h d fn pa (bs.take p.2) who
      have hw := homeWrites_memInv h fn who (p.2 / 128 + 2) pa (bs.take p.2)
      cases far
      · have := ih hw (bs.drop p.2)
        simpa using this
      · simp only [if_true]
        generalize hx : s.farStore d fn pa (bs.take p.2) who = x at hf
        obtain ⟨u, ok, now⟩ := x
        cases ok
        · exact hf
        · exact ih hf _

theorem devStore_memInv {s : State} (h : MemInv s) (d fn ctx va : Nat) (bs : List Byte) (who : Asker) :
    MemInv (s.devStore d fn ctx va bs who).1 := by
  have ht := translateRun_memInv h d fn ctx .write (bs.length / 4096 + 2) va bs.length
  unfold State.devStore
  split <;> rename_i hl <;> rw [hl] at ht
  · exact ht
  · split
    · exact memInv_of_mem ht (ask_mem ..)
    · split
      · exact writePieces_memInv ht ..
      · exact ht

theorem devWrite_memInv {s : State} (h : MemInv s) (d fn ctx va : Nat) (bs : List Byte) : MemInv (s.devWrite d fn ctx va bs).1 :=
  devStore_memInv h ..

theorem devNum_memInv {s : State} (h : MemInv s) (d fn ctx va n : Nat) : MemInv (s.devNum d fn ctx va n).1 := by
  have hr := devRead_memInv h d fn ctx va n
  unfold State.devNum
  split <;> rename_i hl <;> rw [hl] at hr <;> exact hr

theorem loseEvent_mem (s : State) (fn d : Nat) : (s.loseEvent fn d).mem = s.mem := rfl

theorem raise_mem (s : State) (fn v : Nat) : (s.raise fn v).mem = s.mem := by
  unfold State.raise; split <;> rfl

theorem dropEvent_memInv {s : State} (h : MemInv s) (fn d : Nat) : MemInv (s.dropEvent fn d) := by
  have hl : MemInv (s.loseEvent fn d) := h
  unfold State.dropEvent
  dsimp only
  split
  · exact hl
  · exact devWrite_memInv hl ..

/-- An event record keeps the canonical form of memory, wherever it goes. -/
theorem event_memInv {s : State} (h : MemInv s) (fn d k o2 o4 o5 o6 w8 w10 : Nat) : MemInv (s.event fn d k o2 o4 o5 o6 w8 w10) := by
  have hl : MemInv (s.loseEvent fn d) := h
  unfold State.event
  dsimp only
  split
  · exact hl
  · split
    · exact dropEvent_memInv h ..
    · generalize toBytes 1 k ++ toBytes 1 d ++ toBytes 2 o2 ++ toBytes 1 o4 ++ toBytes 1 o5 ++ toBytes 2 o6 ++ toBytes 8 w8 ++
        toBytes 8 w10 ++ toBytes 8 ((s.evqOf fn d).write % 2 ^ 63) = bs
      have hw := devStore_memInv h d fn 0 ((s.evqOf fn d).base + 32 * ((s.evqOf fn d).write % 2 ^ (s.evqOf fn d).z)) bs
        (.record fn d (s.evqOf fn d).write)
      split <;> rename_i hm <;> rw [hm] at hw
      · exact dropEvent_memInv hw ..
      · split
        · exact memInv_of_mem hw (raise_mem ..)
        · exact hw

theorem setExtent_memInv {s : State} (h : MemInv s) (i v : Nat) : MemInv (s.setExtent i v) := homeWrite_memInv h ..
theorem shadowBit_memInv {s : State} (h : MemInv s) (q i : Nat) (v : Bool) : MemInv (s.shadowBit q i v) := homeWrite_memInv h ..
theorem eraseMem_memInv {s : State} (h : MemInv s) (a n : Nat) : MemInv (s.eraseMem a n) := Cells.wf_filter _ h

theorem harvest_memInv {s : State} (h : MemInv s) (d fn ctx i n dst : Nat) : MemInv (s.harvest d fn ctx i n dst) := by
  unfold State.harvest
  dsimp only
  generalize (s.fnBlock fn d).dirtyBase + i / 8 = a
  have hu : MemInv (if (State.linesOf a (8 * n)).any fun l => s.heldPage (l * 128) then s.ask .wait else s.claim a (8 * n)) := by
    split
    · exact memInv_of_mem h (ask_mem ..)
    · exact claim_memInv h a (8 * n)
  generalize (if (State.linesOf a (8 * n)).any fun l => s.heldPage (l * 128) then s.ask .wait else s.claim a (8 * n)) = u at hu ⊢
  have hz : MemInv { u with mem := putBytes u.mem a (toBytes (8 * n) 0) } := putBytes_wf _ _ hu
  have hd := devWrite_memInv hz d fn ctx dst (s.rd a (8 * n))
  split <;> rename_i hm <;> rw [hm] at hd
  · exact hd
  · exact putBytes_wf _ _ hd

theorem placeWord_memInv {s : State} (h : MemInv s) (w : Word) : MemInv (placeWord s w) :=
  putBytes_wf _ _ (putBytes_wf _ _ (putBytes_wf _ _ (putBytes_wf _ _ h)))

end Sys2Proof.Machine
end

