-- ==== Sys2Proof/Laws/Issue.lean ====
section
/-! SUPPORT. What the issue of a word can do: startWord, endWord and tickCore, once each; then a word whose body changes the issuing
group only. -/

namespace Sys2Proof.Machine

/-- Reading a table after every record is changed where it stands: a listed key answers the changed record. -/
theorem Tab_get_map {α : Type} (d : α) (F : Nat × α → Nat × α) (hk : ∀ e, (F e).1 = e.1) (m : Tab α) (q : Nat) :
    (Tab.has m q = true ∧ Tab.get d (m.map F) q = (F (q, Tab.get d m q)).2) ∨
    (Tab.has m q = false ∧ Tab.get d (m.map F) q = d ∧ Tab.get d m q = d) := by
  induction m with
  | nil => exact .inr ⟨rfl, rfl, rfl⟩
  | cons e t ih =>
    obtain ⟨a, x⟩ := e
    have h1 := hk (a, x)
    by_cases ha : a = q
    · subst ha
      left
      simp only [Tab.has, List.any_cons, beq_self_eq_true, Bool.true_or, true_and, List.map_cons, Tab.get]
      generalize hy : F (a, x) = y at h1
      obtain ⟨y1, y2⟩ := y
      simp only at h1
      simp [h1, hy]
    · have hb : (a == q) = false := by simpa using ha
      simp only [Tab.has, List.any_cons, hb, Bool.false_or, List.map_cons, Tab.get, ha, if_false] at ih ⊢
      generalize hy : F (a, x) = y at h1
      obtain ⟨y1, y2⟩ := y
      simp only at h1
      simp only [h1, ha, if_false]
      exact ih

theorem Tab_get_of_not_has {α : Type} (d : α) (m : Tab α) (q : Nat) (h : Tab.has m q = false) : Tab.get d m q = d := by
  induction m with
  | nil => rfl
  | cons e t ih =>
    obtain ⟨a, x⟩ := e
    simp only [Tab.has, List.any_cons, Bool.or_eq_false_iff, beq_eq_false_iff_ne] at h ih
    simp only [Tab.get, h.1, if_false]
    exact ih h.2

namespace State

theorem account_fst (s : State) (b : Option Nat) (e : Nat × Block) : (s.account b e).1 = e.1 := by
  simp only [account]; split
  · rfl
  · split
    · rfl
    · split <;> rfl

theorem account_snd (s : State) (b : Option Nat) (e : Nat × Block) : (s.account b e).2 =
    { e.2 with busy := (s.account b e).2.busy, idle := (s.account b e).2.idle, stalled := (s.account b e).2.stalled } := by
  simp only [account]; split
  · rfl
  · split
    · rfl
    · split <;> rfl

/-- What a cycle of a core does to a block: its counts at most. -/
theorem tickCore_blkOf (s : State) (b c : Nat) : (s.tickCore b).blkOf c =
    { s.blkOf c with busy := ((s.tickCore b).blkOf c).busy, idle := ((s.tickCore b).blkOf c).idle,
                     stalled := ((s.tickCore b).blkOf c).stalled } := by
  have h : (s.tickCore b).blkOf c = Tab.get {} (s.blocks.map fun e =>
      if e.2.die == (s.blkOf b).die && e.2.core == (s.blkOf b).core then s.account (some b) e else e) c := rfl
  rcases Tab_get_map {} (fun e : Nat × Block =>
      if e.2.die == (s.blkOf b).die && e.2.core == (s.blkOf b).core then s.account (some b) e else e)
      (fun e => by split; exact account_fst s _ e; rfl) s.blocks c with ⟨_, h'⟩ | ⟨_, h', h''⟩
  · rw [h, h']
    simp only
    split
    · exact account_snd s _ _
    · rfl
  · rw [h, h']
    simp only [State.blkOf, h'']

theorem tickCore_grpOf (s : State) (b c g : Nat) : (s.tickCore b).grpOf c g = s.grpOf c g := by
  rw [grpOf, tickCore_blkOf]; rfl

theorem tickCore_splOf (s : State) (b c g e : Nat) : (s.tickCore b).splOf c g e = s.splOf c g e := by
  rw [splOf, tickCore_grpOf]; rfl

theorem tickCore_coreOf (s : State) (b d c : Nat) : (s.tickCore b).coreOf d c =
    if coreKey (s.blkOf b).die (s.blkOf b).core = coreKey d c then { s.coreOf d c with cycles := (s.coreOf d c).cycles + 1 }
    else s.coreOf d c := by
  have h : (s.tickCore b).coreOf d c = ((s.modCore (s.blkOf b).die (s.blkOf b).core fun c => { c with cycles := c.cycles + 1 }).coreOf d c) := rfl
  rw [h, State.coreOf_modCore]
  split
  · next h =>
    have : s.coreOf (s.blkOf b).die (s.blkOf b).core = s.coreOf d c := by rw [coreOf, h]; rfl
    rw [this]
  · rfl

theorem tickCore_rest (s : State) (b : Nat) : s.tickCore b =
    { s with blocks := (s.tickCore b).blocks, cores := (s.tickCore b).cores, clock := s.clock + 1 } := rfl

@[simp] theorem tickCore_focus (s : State) (b : Nat) : (s.tickCore b).focus = s.focus := rfl
@[simp] theorem tickCore_clock (s : State) (b : Nat) : (s.tickCore b).clock = s.clock + 1 := rfl
@[simp] theorem tickCore_mem (s : State) (b : Nat) : (s.tickCore b).mem = s.mem := rfl

/-- The issuing block is busy for the cycle (R112). -/
theorem tickCore_blk (s : State) (b : Nat) (h : Tab.has s.blocks b = true) :
    (s.tickCore b).blkOf b = { s.blkOf b with busy := (s.blkOf b).busy + 1 } := by
  have h0 : (s.tickCore b).blkOf b = Tab.get {} (s.blocks.map fun e =>
      if e.2.die == (s.blkOf b).die && e.2.core == (s.blkOf b).core then s.account (some b) e else e) b := rfl
  rcases Tab_get_map {} (fun e : Nat × Block =>
      if e.2.die == (s.blkOf b).die && e.2.core == (s.blkOf b).core then s.account (some b) e else e)
      (fun e => by split; exact account_fst s _ e; rfl) s.blocks b with ⟨_, h'⟩ | ⟨hf, _, _⟩
  · rw [h0, h']
    simp only
    rw [if_pos (by simp [State.blkOf])]
    simp [account, State.blkOf]
  · rw [h] at hf; exact absurd hf (by simp)

end State

theorem has_of_live {s : State} {b : Nat} (h : (s.blkOf b).live = true) : Tab.has s.blocks b = true := by
  cases hb : Tab.has s.blocks b with
  | true => rfl
  | false =>
    rw [State.blkOf, Tab_get_of_not_has _ _ _ hb] at h
    exact absurd h (by decide)

/-- The end of a word, as one cycle after a change of the issuing group. -/
theorem endWord_live (long : Bool) (s : State) (h : (s.blkOf s.focus.blk).live = true) : endWord long s =
    ((s.modS fun x => { x with ll := if long then x.ll + 1 else x.ll, replay := none }).modG
      fun g => { g with lastIssue := s.clock, overdue := false, yielded := (g.splits.get {} s.focus.ent).gaveWay }).tickCore
      s.focus.blk := by
  simp only [endWord, h, if_true]; rfl

theorem startWord_spl (w : Word) (s : State) : (startWord w s).spl =
    { s.spl with sig := crc32c s.spl.sig w, pc := s.spl.pc + 4, left := s.spl.left - 1, status := .ready, lastIssue := s.clock,
                 held := none, last := some { State.frameOf s.spl with word := w } } := by
  simp [startWord]

theorem modG_rest (s : State) (f : Group → Group) : s.modG f = { s with blocks := (s.modG f).blocks } := rfl

/-- A group of the issuing block after a change of the issuing group. -/
theorem grpOf_modG (s : State) (f : Group → Group) (b g : Nat) : (s.modG f).grpOf b g =
    if s.focus.blk = b ∧ s.focus.grp = g then f s.grp else s.grpOf b g := State.grpOf_modGrp s _ _ _ _ _

theorem blkOf_modG (s : State) (f : Group → Group) (b : Nat) : (s.modG f).blkOf b =
    if s.focus.blk = b then { s.blk with groups := s.blk.groups.set s.focus.grp (f s.grp) } else s.blkOf b :=
  State.blkOf_modGrp s _ _ _ _

theorem modS_eq_modG (s : State) (f : Split → Split) :
    s.modS f = s.modG fun g => { g with splits := g.splits.set s.focus.ent (f (g.splits.get {} s.focus.ent)) } := rfl

/-- Two changes of the issuing group are one. -/
theorem modG_modG (s : State) (f h : Group → Group) : (s.modG f).modG h = s.modG fun g => h (f g) := by
  simp only [State.modG, State.modGrp, State.modBlk, State.setBlk, State.blkOf, Tab.get_set_same, Tab.set_set]

/-- startWord with the frame that the word leaves given, for states that the word has changed. -/
def startWith (w : Word) (fr : Frame) (s : State) : State :=
  s.modS fun x => { x with sig := crc32c x.sig w, pc := x.pc + 4, left := x.left - 1, status := .ready, lastIssue := s.clock, held := none,
                           last := some fr }

/-- The frame of a word of the issuing split (R415). -/
def wordFrame (w : Word) (s : State) : Frame := { State.frameOf s.spl with word := w }

theorem startWord_eq (w : Word) (s : State) : startWord w s = startWith w (wordFrame w s) s := rfl

/-- The composition of the changes that a word of the group makes: startWith, its body, endWord. -/
def wordGroupWith (w : Word) (fr : Frame) (s : State) (long : Bool) (h : Group → Group) (g : Group) : Group :=
  let x := g.splits.get {} s.focus.ent
  let x' : Split :=
    { x with sig := crc32c x.sig w, pc := x.pc + 4, left := x.left - 1, status := .ready, lastIssue := s.clock, held := none,
             last := some fr }
  let b := h { g with splits := g.splits.set s.focus.ent x' }
  let y := b.splits.get {} s.focus.ent
  let y' : Split := { y with ll := if long then y.ll + 1 else y.ll, replay := none }
  { b with splits := b.splits.set s.focus.ent y', lastIssue := s.clock, overdue := false,
           yielded := ((b.splits.set s.focus.ent y').get {} s.focus.ent).gaveWay }

/-- The same for startWord. -/
def wordGroup (w : Word) (s : State) (long : Bool) (h : Group → Group) (g : Group) : Group := wordGroupWith w (wordFrame w s) s long h g

theorem live_modG (s : State) (f : Group → Group) (b : Nat) : ((s.modG f).blkOf b).live = (s.blkOf b).live := by
  rw [blkOf_modG]; split
  · next h => subst h; rfl
  · rfl

/-- A word whose body changes the issuing group by h changes the group, and a cycle passes. -/
theorem group_word_with (w : Word) (fr : Frame) (s : State) (long : Bool) (h : Group → Group) (live : Running s) :
    endWord long ((startWith w fr s).modG h) = (s.modG (wordGroupWith w fr s long h)).tickCore s.focus.blk := by
  have hl : ((((startWith w fr s).modG h).blkOf ((startWith w fr s).modG h).focus.blk)).live = true := by
    rw [live_modG, startWith, modS_eq_modG, live_modG]; exact live
  rw [endWord_live _ _ hl, modS_eq_modG, startWith, modS_eq_modG, modG_modG, modG_modG, modG_modG]
  rfl

theorem group_word (w : Word) (s : State) (long : Bool) (h : Group → Group) (live : Running s) :
    endWord long ((startWord w s).modG h) = (s.modG (wordGroup w s long h)).tickCore s.focus.blk := group_word_with _ _ _ _ _ live

/-- A change of the issuing group with a cycle: what it leaves alone, for a change that leaves the other splits alone. -/
theorem group_frame (s : State) (f : Group → Group) (live : Running s)
    (hs : ∀ e, e ≠ s.focus.ent → (f s.grp).splits.get {} e = s.grp.splits.get {} e) :
    GroupFrame s ((s.modG f).tickCore s.focus.blk) := by
  have hb : (s.modG f).blkOf s.focus.blk = { s.blk with groups := s.blk.groups.set s.focus.grp (f s.grp) } := by
    rw [blkOf_modG, if_pos rfl]
  have hlive : (((s.modG f)).blkOf s.focus.blk).live = true := by rw [live_modG]; exact live
  refine { focus := rfl, clock := rfl, cores := ?_, budgets := ?_, busy := ?_, blocks := ?_, groups := ?_, splits := ?_, rest := rfl,
           tlbs := ?_, blk := ?_ }
  · intro d c
    rw [State.tickCore_coreOf, hb]
    have : (s.modG f).coreOf d c = s.coreOf d c := rfl
    rw [this]
    by_cases h : State.coreKey s.blk.die s.blk.core = State.coreKey d c
    · simp [h]
    · simp [h, Ne.symm h]
  · intro d c
    rw [State.tickCore_coreOf]
    have : (s.modG f).coreOf d c = s.coreOf d c := rfl
    rw [this]; split <;> rfl
  · have := State.tickCore_blk (s.modG f) s.focus.blk (has_of_live hlive)
    rw [hb] at this
    exact congrArg Block.busy this
  · intro b h
    have := State.tickCore_blkOf (s.modG f) s.focus.blk b
    rw [blkOf_modG, if_neg (fun e => h e.symm)] at this
    exact this
  · intro g h
    rw [State.tickCore_grpOf, grpOf_modG, if_neg (fun e => h e.2.symm)]
  · intro e h
    rw [State.tickCore_splOf, State.splOf, grpOf_modG, if_pos ⟨rfl, rfl⟩, hs e h]; rfl
  · intro d c
    rw [State.tickCore_coreOf]
    have : (s.modG f).coreOf d c = s.coreOf d c := rfl
    rw [this]; split <;> rfl
  · have := State.tickCore_blk (s.modG f) s.focus.blk (has_of_live hlive)
    rw [hb] at this
    have e : ((s.modG f).tickCore s.focus.blk).blk = ((s.modG f).tickCore s.focus.blk).blkOf s.focus.blk := rfl
    rw [e, this]

theorem grp_tick (s : State) (f : Group → Group) : ((s.modG f).tickCore s.focus.blk).grp = f s.grp := by
  show ((s.modG f).tickCore s.focus.blk).grpOf s.focus.blk s.focus.grp = _
  rw [State.tickCore_grpOf, grpOf_modG, if_pos ⟨rfl, rfl⟩]

theorem spl_tick (s : State) (f : Group → Group) :
    ((s.modG f).tickCore s.focus.blk).spl = (f s.grp).splits.get {} s.focus.ent := by
  show ((s.modG f).tickCore s.focus.blk).splOf s.focus.blk s.focus.grp s.focus.ent = _
  rw [State.tickCore_splOf, State.splOf, grpOf_modG, if_pos ⟨rfl, rfl⟩]

/-- The end of a word of state s that has changed the state into startWith w f u, f the word's frame: what Issued says. -/
theorem issued_of {i : Instr} {s u : State} (long : Bool)
    (h : exec i s = .next (endWord long (startWith (encode i) (wordFrame (encode i) s) u))) (hc : u.clock = s.clock) (live : Running u) :
    Issued i (if long then 1 else 0) s u (endWord long (startWith (encode i) (wordFrame (encode i) s) u)) := by
  generalize hfr : wordFrame (encode i) s = fr at h ⊢
  have e : startWith (encode i) fr u = (startWith (encode i) fr u).modG id := by
    rw [startWith, modS_eq_modG, modG_modG]; rfl
  have hw : endWord long (startWith (encode i) fr u) =
      (u.modG (wordGroupWith (encode i) fr u long id)).tickCore u.focus.blk := by
    rw [e]; exact group_word_with _ _ _ _ _ live
  have hg : wordGroupWith (encode i) fr u long id u.grp = { u.grp with
      splits := u.grp.splits.set u.focus.ent (advance i s (if long then 1 else 0) u.spl), lastIssue := u.clock, overdue := false,
      yielded := (advance i s (if long then 1 else 0) u.spl).gaveWay } := by
    have h3 : Tab.get {} u.grp.splits u.focus.ent = u.spl := rfl
    have h4 : ({ State.frameOf s.spl with word := encode i } : Frame) = fr := hfr
    simp only [wordGroupWith, id, Tab.get_set_same, Tab.set_set, h3, advance, h4, hc]
    cases long <;> rfl
  have hf := group_frame u (wordGroupWith (encode i) fr u long id) live (by
    intro e he; rw [hg]; exact Tab.get_set_ne _ _ _ (Ne.symm he))
  rw [← hw] at hf
  refine { hf with next := h, rest := ?_, tlbs := hf.tlbs, blk := hf.blk, grp := ?_, spl := ?_ }
  · rw [hw]; rfl
  · rw [hw, grp_tick, spl_tick, hg, hc]; simp only [Tab.get_set_same]
  · rw [hw, spl_tick, hg]; exact Tab.get_set_same _ _ _ _

/-- A word whose body makes startWith w f u of startWord w s, f its frame, does what makes u of s. -/
theorem does_of {i : Instr} {s u : State} (long : Bool) {body : State → Eff} (he : exec i s = issue i long body s)
    (hf : long = true → FlagFree s) (hb : body (startWord (encode i) s) = .ok (startWith (encode i) (wordFrame (encode i) s) u))
    (hc : u.clock = s.clock) (live : Running u) : Does (if long then 1 else 0) i s u := by
  refine ⟨_, issued_of long ?_ hc live⟩
  have : ¬(long && decide (s.spl.count s.spl.nextFlag ≥ 63)) = true := by
    cases long
    · simp
    · have := hf rfl; simp only [FlagFree] at this; simp; omega
  rw [he, issue, if_neg this, hb]; rfl

/-- What a matrix word changes of its own stream is nothing to its reads of scratch. -/
theorem scrAt_modM (s : State) (f : Stream → Stream) (a n : Nat) : scrAt (s.modM f) a n = scrAt s a n := by
  have h : (s.modM f).blkOf s.focus.blk = { s.blkOf s.focus.blk with ms := f (s.blkOf s.focus.blk).ms } := State.blkOf_modBlk_same s _ _
  have hb : bufferedBytes (s.modM f) = bufferedBytes s := by
    funext w; unfold bufferedBytes State.scrNum; rw [show (s.modM f).focus = s.focus from rfl, h]
  unfold scrAt bufferedByte State.scr State.blk
  rw [show (s.modM f).focus = s.focus from rfl, show (s.modM f).clock = s.clock from rfl, h, hb]

/-- With empty store buffers a matrix word reads scratch as it stands (R277). -/
theorem scrAt_quiet {s : State} (h : ∀ g ∈ s.blk.groups, g.2.sb = []) (a n : Nat) : scrAt s a n = s.scr s.focus.blk a n :=
  if_pos (List.all_eq_true.mpr fun g hg => by rw [h g hg]; rfl)

end Sys2Proof.Machine
end

