-- ==== Sys2Proof/Laws/Results.lean ====
section
/-! SUPPORT. What the shared forms of instruction words do, once each: the forms that write a scalar register, the forms that write
vector registers, the forms that write predicates. -/

namespace Sys2Proof.Machine

section

variable (w : Word) (s : State)

/-! ### Nothing that a word reads changes when it starts -/

@[simp] theorem startWord_focus : (startWord w s).focus = s.focus := rfl
@[simp] theorem startWord_clock : (startWord w s).clock = s.clock := rfl
@[simp] theorem startWord_mem : (startWord w s).mem = s.mem := rfl
@[simp] theorem startWord_type : (startWord w s).spl.type = s.spl.type := by rw [startWord_spl]; rfl
@[simp] theorem startWord_mode : (startWord w s).spl.mode = s.spl.mode := by rw [startWord_spl]
@[simp] theorem startWord_getS (r : Nat) : (startWord w s).spl.getS r = s.spl.getS r := by rw [startWord_spl]; rfl
@[simp] theorem startWord_getP (r : Nat) : (startWord w s).spl.getP r = s.spl.getP r := by rw [startWord_spl]; rfl
@[simp] theorem startWord_sGetS (r : Nat) : (startWord w s).getS r = s.getS r := startWord_getS w s r
@[simp] theorem startWord_sGetP (r : Nat) : (startWord w s).getP r = s.getP r := startWord_getP w s r
theorem startWord_grp : (startWord w s).grp = { s.grp with splits := (startWord w s).grp.splits } := by simp [startWord]
@[simp] theorem startWord_getV (r l : Nat) : (startWord w s).grp.getV r l = s.grp.getV r l := by rw [startWord_grp]; rfl
@[simp] theorem startWord_sGetV (r l : Nat) : (startWord w s).getV r l = s.getV r l := startWord_getV w s r l
@[simp] theorem startWord_getVal (t r l : Nat) : (startWord w s).grp.getVal t r l = s.grp.getVal t r l := by
  rw [startWord_grp]; rfl
@[simp] theorem startWord_getPr (r l : Nat) : (startWord w s).grp.getPr r l = s.grp.getPr r l := by rw [startWord_grp]; rfl
@[simp] theorem startWord_guardAt (l : Nat) : (startWord w s).guardAt l = s.guardAt l := by
  simp only [State.guardAt, Split.guard, Split.guardInv, startWord_mode, startWord_getPr]
@[simp] theorem startWord_execLanes : (startWord w s).execLanes = s.execLanes := by
  have h1 : (startWord w s).spl.exec = s.spl.exec := by rw [startWord_spl]
  have h2 : (startWord w s).spl.replay = s.spl.replay := by rw [startWord_spl]
  have h3 : (startWord w s).grp.dead = s.grp.dead := by rw [startWord_grp]
  simp only [State.execLanes, h1, h2, h3, startWord_guardAt]
@[simp] theorem startWord_helpersOf (m : LaneMask) : (startWord w s).helpersOf m = s.helpersOf m := by
  have h : (startWord w s).grp.helpers = s.grp.helpers := by rw [startWord_grp]; rfl
  simp only [State.helpersOf, h]
@[simp] theorem startWord_writeLanes : (startWord w s).writeLanes = s.writeLanes := by simp [State.writeLanes]
@[simp] theorem startWord_execAnyGuard : (startWord w s).execAnyGuard = s.execAnyGuard := by
  have h1 : (startWord w s).spl.exec = s.spl.exec := by rw [startWord_spl]
  have h3 : (startWord w s).grp.dead = s.grp.dead := by rw [startWord_grp]
  simp only [State.execAnyGuard, h1, h3, startWord_helpersOf]
@[simp] theorem startWord_within (r n : Nat) : (startWord w s).within r n = s.within r n := by
  have h : (startWord w s).grp.vregs = s.grp.vregs := by rw [startWord_grp]
  simp only [State.within, h]
@[simp] theorem startWord_vOk (t r : Nat) : (startWord w s).vOk t r = s.vOk t r := by simp [State.vOk]
@[simp] theorem startWord_vecOk (ts rs : List Nat) : vecOk ts rs (startWord w s) = vecOk ts rs s := by
  have h : (startWord w s).vOk s.spl.type = s.vOk s.spl.type := funext fun r => startWord_vOk w s _ r
  simp [vecOk, h]

end

/-! ### Forms that write the issuing split only -/

/-- A short word whose body writes the split by f. -/
theorem split_result {i : Instr} {s : State} {f : State → State} {g : Split → Split} (live : Running s)
    (he : exec i s = simple i f s) (hf : f (startWord (encode i) s) = (startWord (encode i) s).modS g) {x : Split}
    (hg : let y := g (startWord (encode i) s).spl
      ({ y with ll := y.ll, replay := none } : Split) = advance i s 0 x) : SplitResult i s x := by
  have e : exec i s = .next (endWord false ((startWord (encode i) s).modS g)) := by
    rw [he, simple, issue, hf]; rfl
  rw [modS_eq_modG, group_word _ _ _ _ live] at e
  refine ⟨_, e, group_frame _ _ live ?_, ?_, ?_⟩
  · intro e he
    simp only [wordGroup, wordGroupWith, Tab.get_set, startWord_focus, if_neg he.symm]
  · rw [spl_tick]
    simp only [wordGroup, wordGroupWith, Tab.get_set_same, startWord_focus, Bool.false_eq_true, if_false]
    rw [startWord_spl] at hg
    exact hg
  · rw [grp_tick, spl_tick]; rfl

/-- A scalar write as a change of three fields. -/
theorem Split.setS_eq (x : Split) (r : Nat) (v : Word) : x.setS r v = { x with
    exec := if 125 ≤ r then setMaskWord x.exec (r - 125) v &&& x.live else x.exec
    execCopy := if 125 ≤ r then setMaskWord x.exec (r - 125) v &&& x.live else x.execCopy
    s := if 125 ≤ r then x.s else x.s.set r v } := by
  simp only [Split.setS]; split <;> rfl

/-- The forms of the scalar ALU (R181). -/
theorem scalar_result {i : Instr} {s : State} {d : BitVec 7} {f : Split → Word} (live : Running s)
    (he : exec i s = scalarOp i d f s) : ScalarResult i s d (f (startWord (encode i) s).spl) := by
  refine split_result live he (g := fun x => x.setS d.toNat (f (startWord (encode i) s).spl)) rfl ?_
  generalize f (startWord (encode i) s).spl = v
  simp only [startWord_spl, Split.setS_eq, advance, Nat.add_zero]

/-- The forms that write a pair (R7). -/
theorem scalar64_result {i : Instr} {s : State} {d : BitVec 7} {f : Split → DWord} (live : Running s)
    (he : exec i s = scalarOp64 i d f s) : SplitResult i s (s.spl.setP d.toNat (f (startWord (encode i) s).spl)) := by
  refine split_result live he (g := fun x => x.setP d.toNat (f (startWord (encode i) s).spl)) rfl ?_
  generalize f (startWord (encode i) s).spl = v
  simp only [startWord_spl, Split.setP, Split.setS_eq, advance, Nat.add_zero]

/-! ### Forms that write the lanes of the issuing group only -/

theorem vKey_inj {r q l k : Nat} (hl : l < 96) (hk : k < 96) : vKey r l = vKey q k ↔ r = q ∧ l = k := by
  simp only [vKey]; omega

theorem getLsbD_lt {m : LaneMask} {l : Nat} (h : m.getLsbD l = true) : l < 96 := by
  by_cases hl : l < 96
  · exact hl
  · rw [BitVec.getLsbD_of_ge _ _ (by omega)] at h; simp at h

theorem mem_lanesOf (m : LaneMask) (l : Nat) : l ∈ lanesOf m ↔ m.getLsbD l = true := by
  simp only [lanesOf, List.mem_filter, List.mem_range]
  exact ⟨fun h => h.2, fun h => ⟨getLsbD_lt h, h⟩⟩

theorem foldl_set_get (ls : List Nat) (c : Cells 32) (r q k : Nat) (f : Nat → Word) (hk : k < 96) (h : ∀ l ∈ ls, l < 96) :
    Cells.get (ls.foldl (fun m l => m.set (vKey r l) (f l)) c) (vKey q k) =
      if q = r ∧ k ∈ ls then f k else Cells.get c (vKey q k) := by
  induction ls generalizing c with
  | nil => simp
  | cons a t ih =>
    rw [List.foldl_cons, ih _ (fun l hl => h l (by simp [hl])), Cells.get_set]
    have ha := h a (by simp)
    by_cases hq : q = r
    · subst hq
      by_cases hm : k ∈ t
      · simp [hm]
      · by_cases hka : a = k
        · subst hka; simp [hm]
        · have : ¬ vKey q a = vKey q k := by rw [vKey_inj ha hk]; simp [hka]
          simp [hm, this, Ne.symm hka]
    · have : ¬ vKey r a = vKey q k := by rw [vKey_inj ha hk]; simp [Ne.symm hq]
      simp [hq, this]

theorem getV_setVs (g : Group) (r q k : Nat) (m : LaneMask) (f : Nat → Word) (hk : k < 96) :
    (g.setVs r (lanesOf m) f).getV q k = if q = r ∧ m.getLsbD k then f k else g.getV q k := by
  simp only [Group.getV, Group.setVs]
  rw [foldl_set_get _ _ _ _ _ _ hk (fun l hl => getLsbD_lt ((mem_lanesOf m l).mp hl))]
  simp only [mem_lanesOf]

theorem getPr_setPr (g : Group) (r q l k : Nat) (x : Bool) (hk : k < 96) (hl : l < 96) :
    (g.setPr r l x).getPr q k = if q = r ∧ q ≠ 0 ∧ k = l then x else g.getPr q k := by
  by_cases hr : r = 0
  · subst hr
    have : ¬ (q = 0 ∧ q ≠ 0 ∧ k = l) := fun h => h.2.1 h.1
    rw [if_neg this]; simp [Group.setPr]
  · simp only [Group.setPr, if_neg hr, Group.getPr, Cells.get_set]
    by_cases hq : q = r
    · subst hq
      simp only [if_true, true_and, ne_eq, hr, not_false_eq_true]
      have hb : (q == 0) = false := by simpa using hr
      rw [hb]
      simp only [Bool.false_or]
      by_cases hkl : k = l
      · subst hkl
        simp only [if_true]
        cases x <;> simp [hk]
      · simp only [hkl, if_false]
        have : (1#96 <<< l).getLsbD k = false := by
          simp only [BitVec.getLsbD_shiftLeft, BitVec.getLsbD_one]
          simp only [hk, decide_true, Bool.true_and]
          by_cases hlt : k < l
          · simp [hlt]
          · have : k - l ≠ 0 := by omega
            simp [this]
        cases x
        · simp only [Bool.false_eq_true, if_false, BitVec.getLsbD_and, BitVec.getLsbD_not, hk, decide_true, this]; simp
        · simp only [if_true, BitVec.getLsbD_or, this]; simp
    · have h2 : ¬ (q = r ∧ q ≠ 0 ∧ k = l) := fun h => hq h.1
      rw [if_neg h2, if_neg (Ne.symm hq)]

theorem setPr_v (g : Group) (r l : Nat) (x : Bool) : g.setPr r l x = { g with p := (g.setPr r l x).p } := by
  simp only [Group.setPr]; split <;> rfl

theorem setPs_v (g : Group) (r : Nat) (ls : List Nat) (f : Nat → Bool) :
    g.setPs r ls f = { g with p := (g.setPs r ls f).p } := by
  induction ls generalizing g with
  | nil => rfl
  | cons a t ih =>
    have h : g.setPs r (a :: t) f = (g.setPr r a (f a)).setPs r t f := rfl
    rw [h, ih, setPr_v g]

theorem getPr_setPs (g : Group) (r q k : Nat) (ls : List Nat) (f : Nat → Bool) (hk : k < 96) (h : ∀ l ∈ ls, l < 96) :
    (g.setPs r ls f).getPr q k = if q = r ∧ r ≠ 0 ∧ k ∈ ls then f k else g.getPr q k := by
  induction ls generalizing g with
  | nil => simp [Group.setPs]
  | cons a t ih =>
    have e : g.setPs r (a :: t) f = (g.setPr r a (f a)).setPs r t f := rfl
    rw [e, ih _ (fun l hl => h l (by simp [hl])), getPr_setPr _ _ _ _ _ _ hk (h a (by simp))]
    by_cases hq : q = r
    · subst hq
      by_cases hz : q = 0
      · simp [hz]
      · by_cases hm : k ∈ t
        · simp [hz, hm]
        · by_cases hka : k = a
          · subst hka; simp [hz, hm]
          · simp [hz, hm, hka]
    · simp [hq]

/-- A short word whose body writes the vector registers and predicates of the group by h. -/
theorem lane_result {i : Instr} {s : State} {long : Bool} {h : Group → Group} {v : Nat → Nat → Word} {p : Nat → Nat → Bool}
    (live : Running s) (hl : long = false)
    (he : exec i s = .next (endWord long ((startWord (encode i) s).modG h)))
    (hh : h (startWord (encode i) s).grp = { (startWord (encode i) s).grp with
      v := (h (startWord (encode i) s).grp).v, p := (h (startWord (encode i) s).grp).p })
    (hv : ∀ r l, l < 96 → (h (startWord (encode i) s).grp).getV r l = v r l)
    (hp : ∀ r l, l < 96 → (h (startWord (encode i) s).grp).getPr r l = p r l) : LaneResult i s v p := by
  subst hl
  rw [group_word _ _ _ _ live] at he
  have hg : (startWord (encode i) s).grp = { s.grp with splits := s.grp.splits.set s.focus.ent { s.spl with
      sig := crc32c s.spl.sig (encode i), pc := s.spl.pc + 4, left := s.spl.left - 1, status := .ready, lastIssue := s.clock,
      held := none, last := some (wordFrame (encode i) s) } } := by
    simp [startWord, wordFrame]
  have hsp : (h (startWord (encode i) s).grp).splits = (startWord (encode i) s).grp.splits := by rw [hh]
  have e0 : wordGroup (encode i) s false h s.grp =
      { h (startWord (encode i) s).grp with
        splits := (h (startWord (encode i) s).grp).splits.set s.focus.ent
          { (h (startWord (encode i) s).grp).splits.get {} s.focus.ent with
            ll := ((h (startWord (encode i) s).grp).splits.get {} s.focus.ent).ll, replay := none }
        lastIssue := s.clock, overdue := false
        yielded := (((h (startWord (encode i) s).grp).splits.set s.focus.ent
          { (h (startWord (encode i) s).grp).splits.get {} s.focus.ent with
            ll := ((h (startWord (encode i) s).grp).splits.get {} s.focus.ent).ll, replay := none }).get {} s.focus.ent).gaveWay } := by
    rw [hg]; rfl
  refine ⟨_, he, group_frame _ _ live ?_, ?_, ?_, ?_, ?_⟩
  · intro e hne
    rw [e0]
    simp only [Tab.get_set, if_neg hne.symm]
    rw [hsp, hg]
    simp only [Tab.get_set, if_neg hne.symm]
  · rw [spl_tick, e0]
    simp only [Tab.get_set_same]
    rw [hsp, hg]
    simp only [Tab.get_set_same]
    rfl
  · rw [spl_tick, grp_tick, e0]
    rw [hh, hg]
  · intro r l hl
    rw [grp_tick, e0]
    exact hv r l hl
  · intro r l hl
    rw [grp_tick, e0]
    exact hp r l hl

theorem setVs_rest (g : Group) (r : Nat) (ls : List Nat) (f : Nat → Word) :
    g.setVs r ls f = { g with v := (g.setVs r ls f).v } := rfl
theorem getPr_setVs (g : Group) (r : Nat) (ls : List Nat) (f : Nat → Word) (q l : Nat) :
    (g.setVs r ls f).getPr q l = g.getPr q l := rfl
theorem getV_setPs (g : Group) (r : Nat) (ls : List Nat) (f : Nat → Bool) (q l : Nat) :
    (g.setPs r ls f).getV q l = g.getV q l := by rw [setPs_v]; rfl

/-- The forms that write the 32 bits of vD whatever MODE.Type holds. -/
theorem vector32_result {i : Instr} {s : State} {d : Nat} {f : Split → Group → Nat → Word} (live : Running s)
    (he : exec i s = vecOp32 i d f s) :
    VectorResult i s d (f (startWord (encode i) s).spl (startWord (encode i) s).grp) := by
  refine lane_result (long := false) live rfl (h := fun g => g.setVs d (lanesOf (startWord (encode i) s).writeLanes)
    (f (startWord (encode i) s).spl g)) (by rw [he]; rfl) rfl (fun r l hl => ?_) (fun r l hl => ?_)
  · rw [getV_setVs _ _ _ _ _ _ hl, startWord_writeLanes, startWord_getV]
  · rw [getPr_setVs, startWord_getPr]

/-- The forms that write vD under a type of one register. -/
theorem vector_result {i : Instr} {s : State} {d : Nat} {types rs : List Nat} {f : Split → Group → Nat → Nat} (live : Running s)
    (he : exec i s = vecOp i types rs d f s) (ok : vecOk types rs s = true) (hp : isPair s.spl.type = false) :
    VectorResult i s d (fun l => BitVec.ofNat 32 (f (startWord (encode i) s).spl (startWord (encode i) s).grp l)) := by
  refine lane_result (long := false) live rfl (h := fun g => g.setVals (startWord (encode i) s).spl.type d
    (lanesOf (startWord (encode i) s).writeLanes) (f (startWord (encode i) s).spl g)) ?_ ?_ (fun r l hl => ?_) (fun r l hl => ?_)
  · rw [he, vecOp, issue]; simp only [startWord_vecOk, ok]; rfl
  · simp only [startWord_type, Group.setVals, hp]; rfl
  · simp only [startWord_type, Group.setVals, hp, Bool.false_eq_true, if_false, startWord_writeLanes]
    rw [getV_setVs _ _ _ _ _ _ hl, startWord_getV]
  · simp only [startWord_type, Group.setVals, hp, Bool.false_eq_true, if_false]
    rw [getPr_setVs, startWord_getPr]

/-- The same under a pair type. -/
theorem vector_pair_result {i : Instr} {s : State} {d : Nat} {types rs : List Nat} {f : Split → Group → Nat → Nat}
    (live : Running s) (he : exec i s = vecOp i types rs d f s) (ok : vecOk types rs s = true) (hp : isPair s.spl.type = true) :
    VectorPairResult i s d (fun l => BitVec.ofNat 64 (f (startWord (encode i) s).spl (startWord (encode i) s).grp l)) := by
  refine lane_result (long := false) live rfl (h := fun g => g.setVals (startWord (encode i) s).spl.type d
    (lanesOf (startWord (encode i) s).writeLanes) (f (startWord (encode i) s).spl g)) ?_ ?_ (fun r l hl => ?_) (fun r l hl => ?_)
  · rw [he, vecOp, issue]; simp only [startWord_vecOk, ok]; rfl
  · simp only [startWord_type, Group.setVals, hp]; rfl
  · simp only [startWord_type, Group.setVals, hp, if_true, startWord_writeLanes]
    rw [getV_setVs _ _ _ _ _ _ hl, getV_setVs _ _ _ _ _ _ hl, startWord_getV]
    by_cases hw : s.writeLanes.getLsbD l
    · simp only [hw, and_true, if_true]
      by_cases h1 : r = d
      · subst h1
        simp only [Nat.left_eq_add, Nat.succ_ne_self, if_false, if_true]
        simp [lo32, BitVec.setWidth_ofNat_of_le]
      · by_cases h2 : r = d + 1
        · subst h2
          simp [hi32]
          apply BitVec.eq_of_toNat_eq
          simp [Nat.shiftRight_eq_div_pow]
          omega
        · simp [h1, h2]
    · simp [hw]
  · simp only [startWord_type, Group.setVals, hp, if_true]
    rw [getPr_setVs, getPr_setVs, startWord_getPr]

/-- The forms that write pD. -/
theorem pred_result {i : Instr} {s : State} {d : Nat} {types rs : List Nat} {f : Split → Group → Nat → Bool} (live : Running s)
    (he : exec i s = vecPred i types rs d f s) (ok : vecOk types rs s = true) :
    PredResult i s d (f (startWord (encode i) s).spl (startWord (encode i) s).grp) := by
  refine lane_result (long := false) live rfl (h := fun g => g.setPs d (lanesOf (startWord (encode i) s).writeLanes)
    (f (startWord (encode i) s).spl g)) ?_ ?_ (fun r l hl => ?_) (fun r l hl => ?_)
  · rw [he, vecPred, issue]; simp only [startWord_vecOk, ok]; rfl
  · rw [setPs_v]
  · rw [getV_setPs, startWord_getV]
  · rw [getPr_setPs _ _ _ _ _ _ hl (fun l hl => getLsbD_lt ((mem_lanesOf _ l).mp hl)), startWord_writeLanes, startWord_getPr]
    simp only [mem_lanesOf]

end Sys2Proof.Machine
end

