-- ==== Sys2Proof/Laws/Elements.lean ====
section
/-! SUPPORT. The elements of a register value (R41): what pack builds, elem reads. -/

namespace Sys2Proof.Machine

theorem pack_lt (w n : Nat) (f : Nat → Nat) :
    (List.range n).foldl (fun a i => a + f i % 2 ^ w * 2 ^ (w * i)) 0 < 2 ^ (w * n) := by
  induction n with
  | zero => simp
  | succ n ih =>
    rw [List.range_succ, List.foldl_append]
    simp only [List.foldl_cons, List.foldl_nil]
    have h : f n % 2 ^ w < 2 ^ w := Nat.mod_lt _ (Nat.pow_pos (by omega))
    have h2 : f n % 2 ^ w * 2 ^ (w * n) ≤ (2 ^ w - 1) * 2 ^ (w * n) := Nat.mul_le_mul_right _ (by omega)
    have h3 : (2 ^ w - 1) * 2 ^ (w * n) + 2 ^ (w * n) = 2 ^ (w * (n + 1)) := by
      rw [Nat.sub_mul, Nat.one_mul, ← Nat.pow_add, Nat.mul_succ, Nat.add_comm w]
      exact Nat.sub_add_cancel (Nat.pow_le_pow_right (by omega) (by omega))
    omega

theorem elem_pack_aux (w n : Nat) (f : Nat → Nat) (k : Nat) (hk : k < n) :
    (List.range n).foldl (fun a i => a + f i % 2 ^ w * 2 ^ (w * i)) 0 / 2 ^ (w * k) % 2 ^ w = f k % 2 ^ w := by
  induction n with
  | zero => omega
  | succ n ih =>
    rw [List.range_succ, List.foldl_append]
    simp only [List.foldl_cons, List.foldl_nil]
    have hlt := pack_lt w n f
    generalize (List.range n).foldl (fun a i => a + f i % 2 ^ w * 2 ^ (w * i)) 0 = p at ih hlt
    by_cases h : k = n
    · subst h
      rw [Nat.add_mul_div_right _ _ (Nat.pow_pos (by omega)), Nat.div_eq_of_lt hlt, Nat.zero_add, Nat.mod_mod]
    · have hkn : k < n := by omega
      rw [← ih hkn]
      have e : w * n = w * k + w * (n - k) := by rw [← Nat.mul_add]; congr 1; omega
      rw [e, Nat.pow_add, Nat.mul_comm (2 ^ (w * k)), ← Nat.mul_assoc, Nat.add_mul_div_right _ _ (Nat.pow_pos (by omega))]
      have e2 : w * (n - k) = w * (n - k - 1) + w := by
        rw [show n - k = n - k - 1 + 1 by omega, Nat.mul_succ]; simp
      rw [e2, Nat.pow_add, ← Nat.mul_assoc, Nat.add_mul_mod_self_right]

/-- Element k of a value built element by element. -/
theorem elem_pack (t : Nat) (f : Nat → Nat) (k : Nat) (hk : k < (tyOf t).n) : elem t (pack t f) k = f k % 2 ^ (tyOf t).w :=
  elem_pack_aux _ _ f k hk

theorem pack_lt_type (t : Nat) (f : Nat → Nat) : pack t f < 2 ^ ((tyOf t).w * (tyOf t).n) := pack_lt _ _ f

theorem type_width (t : Nat) : (tyOf t).w * (tyOf t).n = if isPair t then 64 else 32 := by
  match t with
  | 0 | 1 | 2 | 3 | 4 | 5 | 6 | 7 | 8 | 9 | 10 | 11 => rfl
  | n + 12 =>
    have h : isPair (n + 12) = false := by simp [isPair]
    rw [h]; rfl

end Sys2Proof.Machine
end

