-- ==== Sys2Proof/Laws/Exec.lean ====
section
/-! SUPPORT. exec, arm by arm: one rewriting rule per instruction, so that no proof unfolds the whole table. -/

namespace Sys2Proof.Machine

variable (s : State)

@[simp] theorem exec_smov (x0 : BitVec 7) (x1 : BitVec 7) : exec (.smov x0 x1) s = execSmov x0 x1 s := rfl
@[simp] theorem exec_smovi (x0 : BitVec 7) (x1 : BitVec 16) : exec (.smovi x0 x1) s = execSmovi x0 x1 s := rfl
@[simp] theorem exec_smovh (x0 : BitVec 7) (x1 : BitVec 16) : exec (.smovh x0 x1) s = execSmovh x0 x1 s := rfl
@[simp] theorem exec_sadd (x0 : BitVec 7) (x1 : BitVec 7) (x2 : BitVec 7) : exec (.sadd x0 x1 x2) s = execSadd x0 x1 x2 s := rfl
@[simp] theorem exec_ssub (x0 : BitVec 7) (x1 : BitVec 7) (x2 : BitVec 7) : exec (.ssub x0 x1 x2) s = execSsub x0 x1 x2 s := rfl
@[simp] theorem exec_smul (x0 : BitVec 7) (x1 : BitVec 7) (x2 : BitVec 7) : exec (.smul x0 x1 x2) s = execSmul x0 x1 x2 s := rfl
@[simp] theorem exec_smulh (x0 : Bool) (x1 : BitVec 7) (x2 : BitVec 7) (x3 : BitVec 7) : exec (.smulh x0 x1 x2 x3) s = execSmulh x0 x1 x2 x3 s := rfl
@[simp] theorem exec_sand (x0 : BitVec 7) (x1 : BitVec 7) (x2 : BitVec 7) : exec (.sand x0 x1 x2) s = execSand x0 x1 x2 s := rfl
@[simp] theorem exec_sor (x0 : BitVec 7) (x1 : BitVec 7) (x2 : BitVec 7) : exec (.sor x0 x1 x2) s = execSor x0 x1 x2 s := rfl
@[simp] theorem exec_sxor (x0 : BitVec 7) (x1 : BitVec 7) (x2 : BitVec 7) : exec (.sxor x0 x1 x2) s = execSxor x0 x1 x2 s := rfl
@[simp] theorem exec_snot (x0 : BitVec 7) (x1 : BitVec 7) : exec (.snot x0 x1) s = execSnot x0 x1 s := rfl
@[simp] theorem exec_sshl (x0 : BitVec 7) (x1 : BitVec 7) (x2 : BitVec 7) : exec (.sshl x0 x1 x2) s = execSshl x0 x1 x2 s := rfl
@[simp] theorem exec_sshr (x0 : BitVec 7) (x1 : BitVec 7) (x2 : BitVec 7) : exec (.sshr x0 x1 x2) s = execSshr x0 x1 x2 s := rfl
@[simp] theorem exec_ssra (x0 : BitVec 7) (x1 : BitVec 7) (x2 : BitVec 7) : exec (.ssra x0 x1 x2) s = execSsra x0 x1 x2 s := rfl
@[simp] theorem exec_smin (x0 : Bool) (x1 : BitVec 7) (x2 : BitVec 7) (x3 : BitVec 7) : exec (.smin x0 x1 x2 x3) s = execSmin x0 x1 x2 x3 s := rfl
@[simp] theorem exec_smax (x0 : Bool) (x1 : BitVec 7) (x2 : BitVec 7) (x3 : BitVec 7) : exec (.smax x0 x1 x2 x3) s = execSmax x0 x1 x2 x3 s := rfl
@[simp] theorem exec_scmp (x0 : Cc) (x1 : BitVec 7) (x2 : BitVec 7) (x3 : BitVec 7) : exec (.scmp x0 x1 x2 x3) s = execScmp x0 x1 x2 x3 s := rfl
@[simp] theorem exec_ssel (x0 : BitVec 7) (x1 : BitVec 7) (x2 : BitVec 7) : exec (.ssel x0 x1 x2) s = execSsel x0 x1 x2 s := rfl
@[simp] theorem exec_spopc (x0 : BitVec 7) (x1 : BitVec 7) : exec (.spopc x0 x1) s = execSpopc x0 x1 s := rfl
@[simp] theorem exec_sclz (x0 : BitVec 7) (x1 : BitVec 7) : exec (.sclz x0 x1) s = execSclz x0 x1 s := rfl
@[simp] theorem exec_sbrev (x0 : BitVec 7) (x1 : BitVec 7) : exec (.sbrev x0 x1) s = execSbrev x0 x1 s := rfl
@[simp] theorem exec_sbfe (x0 : Bool) (x1 : BitVec 7) (x2 : BitVec 7) (x3 : BitVec 7) : exec (.sbfe x0 x1 x2 x3) s = execSbfe x0 x1 x2 x3 s := rfl
@[simp] theorem exec_sld (x0 : LdSize) (x1 : BitVec 7) (x2 : BitVec 7) (x3 : BitVec 7) : exec (.sld x0 x1 x2 x3) s = execSld x0 x1 x2 x3 s := rfl
@[simp] theorem exec_sst (x0 : StSize) (x1 : BitVec 7) (x2 : BitVec 7) (x3 : BitVec 7) : exec (.sst x0 x1 x2 x3) s = execSst x0 x1 x2 x3 s := rfl
@[simp] theorem exec_slda (x0 : BitVec 7) (x1 : BitVec 16) : exec (.slda x0 x1) s = execSlda x0 x1 s := rfl
@[simp] theorem exec_sadd64 (x0 : BitVec 7) (x1 : BitVec 7) (x2 : BitVec 7) : exec (.sadd64 x0 x1 x2) s = execSadd64 x0 x1 x2 s := rfl
@[simp] theorem exec_ssub64 (x0 : BitVec 7) (x1 : BitVec 7) (x2 : BitVec 7) : exec (.ssub64 x0 x1 x2) s = execSsub64 x0 x1 x2 s := rfl
@[simp] theorem exec_scmp64 (x0 : Cc) (x1 : BitVec 7) (x2 : BitVec 7) (x3 : BitVec 7) : exec (.scmp64 x0 x1 x2 x3) s = execScmp64 x0 x1 x2 x3 s := rfl
@[simp] theorem exec_saddImm (x0 : BitVec 7) (x1 : BitVec 16) : exec (.saddImm x0 x1) s = execSaddImm x0 x1 s := rfl
@[simp] theorem exec_ssubImm (x0 : BitVec 7) (x1 : BitVec 16) : exec (.ssubImm x0 x1) s = execSsubImm x0 x1 s := rfl
@[simp] theorem exec_smulImm (x0 : BitVec 7) (x1 : BitVec 16) : exec (.smulImm x0 x1) s = execSmulImm x0 x1 s := rfl
@[simp] theorem exec_sandImm (x0 : BitVec 7) (x1 : BitVec 16) : exec (.sandImm x0 x1) s = execSandImm x0 x1 s := rfl
@[simp] theorem exec_sorImm (x0 : BitVec 7) (x1 : BitVec 16) : exec (.sorImm x0 x1) s = execSorImm x0 x1 s := rfl
@[simp] theorem exec_sxorImm (x0 : BitVec 7) (x1 : BitVec 16) : exec (.sxorImm x0 x1) s = execSxorImm x0 x1 s := rfl
@[simp] theorem exec_sshlImm (x0 : BitVec 7) (x1 : BitVec 5) : exec (.sshlImm x0 x1) s = execSshlImm x0 x1 s := rfl
@[simp] theorem exec_sshrImm (x0 : BitVec 7) (x1 : BitVec 5) : exec (.sshrImm x0 x1) s = execSshrImm x0 x1 s := rfl
@[simp] theorem exec_ssraImm (x0 : BitVec 7) (x1 : BitVec 5) : exec (.ssraImm x0 x1) s = execSsraImm x0 x1 s := rfl
@[simp] theorem exec_bra (x0 : BitVec 24) : exec (.bra x0) s = execBra x0 s := rfl
@[simp] theorem exec_brx (x0 : BitVec 24) : exec (.brx x0) s = execBrx x0 s := rfl
@[simp] theorem exec_call (x0 : BitVec 24) : exec (.call x0) s = execCall x0 s := rfl
@[simp] theorem exec_callx (x0 : BitVec 7) : exec (.callx x0) s = execCallx x0 s := rfl
@[simp] theorem exec_elect (x0 : BitVec 7) (x1 : BitVec 7) : exec (.elect x0 x1) s = execElect x0 x1 s := rfl
@[simp] theorem exec_clauseHeader (x0 : BitVec 12) (x1 : BitVec 4) (x2 : BitVec 4) (x3 : BitVec 4) (x4 : Bool) (x5 : Bool) (x6 : Bool) : exec (.clauseHeader x0 x1 x2 x3 x4 x5 x6) s = execClauseHeader x0 x1 x2 x3 x4 x5 x6 s := rfl
@[simp] theorem exec_mode (x0 : BitVec 7) (x1 : Bool) (x2 : BitVec 4) (x3 : BitVec 3) (x4 : Bool) (x5 : Bool) (x6 : Bool) (x7 : Bool) (x8 : Bool) (x9 : Bool) : exec (.mode x0 x1 x2 x3 x4 x5 x6 x7 x8 x9) s = execMode x0 x1 x2 x3 x4 x5 x6 x7 x8 x9 s := rfl
@[simp] theorem exec_modes (x0 : BitVec 7) : exec (.modes x0) s = execModes x0 s := rfl
@[simp] theorem exec_modesSwap (x0 : BitVec 7) (x1 : BitVec 7) : exec (.modesSwap x0 x1) s = execModesSwap x0 x1 s := rfl
@[simp] theorem exec_waitf (x0 : BitVec 12) : exec (.waitf x0) s = execWaitf x0 s := rfl
@[simp] theorem exec_sigchk (x0 : BitVec 24) : exec (.sigchk x0) s = execSigchk x0 s := rfl
@[simp] theorem exec_trap (x0 : BitVec 16) : exec (.trap x0) s = execTrap x0 s := rfl
@[simp] theorem exec_sysr (x0 : BitVec 7) (x1 : BitVec 16) : exec (.sysr x0 x1) s = execSysr x0 x1 s := rfl
@[simp] theorem exec_sysw (x0 : BitVec 7) (x1 : BitVec 16) : exec (.sysw x0 x1) s = execSysw x0 x1 s := rfl
@[simp] theorem exec_qsub (x0 : BitVec 7) (x1 : BitVec 7) : exec (.qsub x0 x1) s = execQsub x0 x1 s := rfl
@[simp] theorem exec_rcommit (x0 : BitVec 16) : exec (.rcommit x0) s = execRcommit x0 s := rfl
@[simp] theorem exec_sleep (x0 : BitVec 16) : exec (.sleep x0) s = execSleep x0 s := rfl
@[simp] theorem exec_vadd (x0 : BitVec 8) (x1 : BitVec 8) (x2 : BitVec 8) : exec (.vadd x0 x1 x2) s = execVadd x0 x1 x2 s := rfl
@[simp] theorem exec_vsub (x0 : BitVec 8) (x1 : BitVec 8) (x2 : BitVec 8) : exec (.vsub x0 x1 x2) s = execVsub x0 x1 x2 s := rfl
@[simp] theorem exec_vmul (x0 : BitVec 8) (x1 : BitVec 8) (x2 : BitVec 8) : exec (.vmul x0 x1 x2) s = execVmul x0 x1 x2 s := rfl
@[simp] theorem exec_vmulh (x0 : BitVec 8) (x1 : BitVec 8) (x2 : BitVec 8) : exec (.vmulh x0 x1 x2) s = execVmulh x0 x1 x2 s := rfl
@[simp] theorem exec_vmad (x0 : BitVec 8) (x1 : BitVec 8) (x2 : BitVec 8) : exec (.vmad x0 x1 x2) s = execVmad x0 x1 x2 s := rfl
@[simp] theorem exec_vmadh (x0 : BitVec 8) (x1 : BitVec 8) (x2 : BitVec 8) : exec (.vmadh x0 x1 x2) s = execVmadh x0 x1 x2 s := rfl
@[simp] theorem exec_vdiv (x0 : BitVec 8) (x1 : BitVec 8) (x2 : BitVec 8) : exec (.vdiv x0 x1 x2) s = execVdiv x0 x1 x2 s := rfl
@[simp] theorem exec_vrem (x0 : BitVec 8) (x1 : BitVec 8) (x2 : BitVec 8) : exec (.vrem x0 x1 x2) s = execVrem x0 x1 x2 s := rfl
@[simp] theorem exec_vdivm (x0 : BitVec 8) (x1 : BitVec 8) (x2 : BitVec 8) : exec (.vdivm x0 x1 x2) s = execVdivm x0 x1 x2 s := rfl
@[simp] theorem exec_vand (x0 : BitVec 8) (x1 : BitVec 8) (x2 : BitVec 8) : exec (.vand x0 x1 x2) s = execVand x0 x1 x2 s := rfl
@[simp] theorem exec_vor (x0 : BitVec 8) (x1 : BitVec 8) (x2 : BitVec 8) : exec (.vor x0 x1 x2) s = execVor x0 x1 x2 s := rfl
@[simp] theorem exec_vxor (x0 : BitVec 8) (x1 : BitVec 8) (x2 : BitVec 8) : exec (.vxor x0 x1 x2) s = execVxor x0 x1 x2 s := rfl
@[simp] theorem exec_vshl (x0 : BitVec 8) (x1 : BitVec 8) (x2 : BitVec 8) : exec (.vshl x0 x1 x2) s = execVshl x0 x1 x2 s := rfl
@[simp] theorem exec_vshr (x0 : BitVec 8) (x1 : BitVec 8) (x2 : BitVec 8) : exec (.vshr x0 x1 x2) s = execVshr x0 x1 x2 s := rfl
@[simp] theorem exec_vsra (x0 : BitVec 8) (x1 : BitVec 8) (x2 : BitVec 8) : exec (.vsra x0 x1 x2) s = execVsra x0 x1 x2 s := rfl
@[simp] theorem exec_vrot (x0 : BitVec 8) (x1 : BitVec 8) (x2 : BitVec 8) : exec (.vrot x0 x1 x2) s = execVrot x0 x1 x2 s := rfl
@[simp] theorem exec_vmin (x0 : BitVec 8) (x1 : BitVec 8) (x2 : BitVec 8) : exec (.vmin x0 x1 x2) s = execVmin x0 x1 x2 s := rfl
@[simp] theorem exec_vmax (x0 : BitVec 8) (x1 : BitVec 8) (x2 : BitVec 8) : exec (.vmax x0 x1 x2) s = execVmax x0 x1 x2 s := rfl
@[simp] theorem exec_vbfe (x0 : BitVec 8) (x1 : BitVec 8) (x2 : BitVec 8) : exec (.vbfe x0 x1 x2) s = execVbfe x0 x1 x2 s := rfl
@[simp] theorem exec_vbfi (x0 : BitVec 8) (x1 : BitVec 8) (x2 : BitVec 8) : exec (.vbfi x0 x1 x2) s = execVbfi x0 x1 x2 s := rfl
@[simp] theorem exec_vsel (x0 : BitVec 8) (x1 : BitVec 8) (x2 : BitVec 8) : exec (.vsel x0 x1 x2) s = execVsel x0 x1 x2 s := rfl
@[simp] theorem exec_vaddc (x0 : BitVec 8) (x1 : BitVec 8) (x2 : BitVec 8) : exec (.vaddc x0 x1 x2) s = execVaddc x0 x1 x2 s := rfl
@[simp] theorem exec_vsad (x0 : BitVec 8) (x1 : BitVec 8) (x2 : BitVec 8) : exec (.vsad x0 x1 x2) s = execVsad x0 x1 x2 s := rfl
@[simp] theorem exec_vdp4 (x0 : BitVec 8) (x1 : BitVec 8) (x2 : BitVec 8) : exec (.vdp4 x0 x1 x2) s = execVdp4 x0 x1 x2 s := rfl
@[simp] theorem exec_vlut3 (x0 : BitVec 8) (x1 : BitVec 8) (x2 : BitVec 8) : exec (.vlut3 x0 x1 x2) s = execVlut3 x0 x1 x2 s := rfl
@[simp] theorem exec_vmovi (x0 : BitVec 8) (x1 : BitVec 16) : exec (.vmovi x0 x1) s = execVmovi x0 x1 s := rfl
@[simp] theorem exec_vmov (x0 : BitVec 8) (x1 : BitVec 8) : exec (.vmov x0 x1) s = execVmov x0 x1 s := rfl
@[simp] theorem exec_vnot (x0 : BitVec 8) (x1 : BitVec 8) : exec (.vnot x0 x1) s = execVnot x0 x1 s := rfl
@[simp] theorem exec_vabs (x0 : BitVec 8) (x1 : BitVec 8) : exec (.vabs x0 x1) s = execVabs x0 x1 s := rfl
@[simp] theorem exec_vneg (x0 : BitVec 8) (x1 : BitVec 8) : exec (.vneg x0 x1) s = execVneg x0 x1 s := rfl
@[simp] theorem exec_vclz (x0 : BitVec 8) (x1 : BitVec 8) : exec (.vclz x0 x1) s = execVclz x0 x1 s := rfl
@[simp] theorem exec_vpopc (x0 : BitVec 8) (x1 : BitVec 8) : exec (.vpopc x0 x1) s = execVpopc x0 x1 s := rfl
@[simp] theorem exec_vbrev (x0 : BitVec 8) (x1 : BitVec 8) : exec (.vbrev x0 x1) s = execVbrev x0 x1 s := rfl
@[simp] theorem exec_vlane (x0 : BitVec 8) : exec (.vlane x0) s = execVlane x0 s := rfl
@[simp] theorem exec_vbcast (x0 : BitVec 8) (x1 : BitVec 7) : exec (.vbcast x0 x1) s = execVbcast x0 x1 s := rfl
@[simp] theorem exec_vcmpEq (x0 : BitVec 7) (x1 : BitVec 8) (x2 : BitVec 8) : exec (.vcmpEq x0 x1 x2) s = execVcmpEq x0 x1 x2 s := rfl
@[simp] theorem exec_vcmpNe (x0 : BitVec 7) (x1 : BitVec 8) (x2 : BitVec 8) : exec (.vcmpNe x0 x1 x2) s = execVcmpNe x0 x1 x2 s := rfl
@[simp] theorem exec_vcmpLt (x0 : BitVec 7) (x1 : BitVec 8) (x2 : BitVec 8) : exec (.vcmpLt x0 x1 x2) s = execVcmpLt x0 x1 x2 s := rfl
@[simp] theorem exec_vcmpLe (x0 : BitVec 7) (x1 : BitVec 8) (x2 : BitVec 8) : exec (.vcmpLe x0 x1 x2) s = execVcmpLe x0 x1 x2 s := rfl
@[simp] theorem exec_vcmpGt (x0 : BitVec 7) (x1 : BitVec 8) (x2 : BitVec 8) : exec (.vcmpGt x0 x1 x2) s = execVcmpGt x0 x1 x2 s := rfl
@[simp] theorem exec_vcmpGe (x0 : BitVec 7) (x1 : BitVec 8) (x2 : BitVec 8) : exec (.vcmpGe x0 x1 x2) s = execVcmpGe x0 x1 x2 s := rfl
@[simp] theorem exec_pand (x0 : BitVec 7) (x1 : BitVec 7) (x2 : BitVec 7) (x3 : BitVec 3) : exec (.pand x0 x1 x2 x3) s = execPand x0 x1 x2 x3 s := rfl
@[simp] theorem exec_por (x0 : BitVec 7) (x1 : BitVec 7) (x2 : BitVec 7) (x3 : BitVec 3) : exec (.por x0 x1 x2 x3) s = execPor x0 x1 x2 x3 s := rfl
@[simp] theorem exec_pxor (x0 : BitVec 7) (x1 : BitVec 7) (x2 : BitVec 7) (x3 : BitVec 3) : exec (.pxor x0 x1 x2 x3) s = execPxor x0 x1 x2 x3 s := rfl
@[simp] theorem exec_pnot (x0 : BitVec 7) (x1 : BitVec 7) : exec (.pnot x0 x1) s = execPnot x0 x1 s := rfl
@[simp] theorem exec_pmov (x0 : BitVec 7) (x1 : BitVec 7) : exec (.pmov x0 x1) s = execPmov x0 x1 s := rfl
@[simp] theorem exec_pset (x0 : BitVec 7) (x1 : Bool) : exec (.pset x0 x1) s = execPset x0 x1 s := rfl
@[simp] theorem exec_pcnt (x0 : BitVec 7) (x1 : BitVec 7) : exec (.pcnt x0 x1) s = execPcnt x0 x1 s := rfl
@[simp] theorem exec_pfroms (x0 : BitVec 7) (x1 : BitVec 7) : exec (.pfroms x0 x1) s = execPfroms x0 x1 s := rfl
@[simp] theorem exec_ptos (x0 : BitVec 7) (x1 : BitVec 7) : exec (.ptos x0 x1) s = execPtos x0 x1 s := rfl
@[simp] theorem exec_vfadd (x0 : BitVec 8) (x1 : BitVec 8) (x2 : BitVec 8) : exec (.vfadd x0 x1 x2) s = execVfadd x0 x1 x2 s := rfl
@[simp] theorem exec_vfsub (x0 : BitVec 8) (x1 : BitVec 8) (x2 : BitVec 8) : exec (.vfsub x0 x1 x2) s = execVfsub x0 x1 x2 s := rfl
@[simp] theorem exec_vfmul (x0 : BitVec 8) (x1 : BitVec 8) (x2 : BitVec 8) : exec (.vfmul x0 x1 x2) s = execVfmul x0 x1 x2 s := rfl
@[simp] theorem exec_vfma (x0 : BitVec 8) (x1 : BitVec 8) (x2 : BitVec 8) : exec (.vfma x0 x1 x2) s = execVfma x0 x1 x2 s := rfl
@[simp] theorem exec_vfmin (x0 : BitVec 8) (x1 : BitVec 8) (x2 : BitVec 8) : exec (.vfmin x0 x1 x2) s = execVfmin x0 x1 x2 s := rfl
@[simp] theorem exec_vfmax (x0 : BitVec 8) (x1 : BitVec 8) (x2 : BitVec 8) : exec (.vfmax x0 x1 x2) s = execVfmax x0 x1 x2 s := rfl
@[simp] theorem exec_vfdiv (x0 : BitVec 8) (x1 : BitVec 8) (x2 : BitVec 8) : exec (.vfdiv x0 x1 x2) s = execVfdiv x0 x1 x2 s := rfl
@[simp] theorem exec_vfldexp (x0 : BitVec 8) (x1 : BitVec 8) (x2 : BitVec 8) : exec (.vfldexp x0 x1 x2) s = execVfldexp x0 x1 x2 s := rfl
@[simp] theorem exec_vdot2 (x0 : BitVec 8) (x1 : BitVec 8) (x2 : BitVec 8) : exec (.vdot2 x0 x1 x2) s = execVdot2 x0 x1 x2 s := rfl
@[simp] theorem exec_vfcmpEq (x0 : BitVec 7) (x1 : BitVec 8) (x2 : BitVec 8) : exec (.vfcmpEq x0 x1 x2) s = execVfcmpEq x0 x1 x2 s := rfl
@[simp] theorem exec_vfcmpNe (x0 : BitVec 7) (x1 : BitVec 8) (x2 : BitVec 8) : exec (.vfcmpNe x0 x1 x2) s = execVfcmpNe x0 x1 x2 s := rfl
@[simp] theorem exec_vfcmpLt (x0 : BitVec 7) (x1 : BitVec 8) (x2 : BitVec 8) : exec (.vfcmpLt x0 x1 x2) s = execVfcmpLt x0 x1 x2 s := rfl
@[simp] theorem exec_vfcmpLe (x0 : BitVec 7) (x1 : BitVec 8) (x2 : BitVec 8) : exec (.vfcmpLe x0 x1 x2) s = execVfcmpLe x0 x1 x2 s := rfl
@[simp] theorem exec_vfcmpGt (x0 : BitVec 7) (x1 : BitVec 8) (x2 : BitVec 8) : exec (.vfcmpGt x0 x1 x2) s = execVfcmpGt x0 x1 x2 s := rfl
@[simp] theorem exec_vfcmpGe (x0 : BitVec 7) (x1 : BitVec 8) (x2 : BitVec 8) : exec (.vfcmpGe x0 x1 x2) s = execVfcmpGe x0 x1 x2 s := rfl
@[simp] theorem exec_vfcmpUn (x0 : BitVec 7) (x1 : BitVec 8) (x2 : BitVec 8) : exec (.vfcmpUn x0 x1 x2) s = execVfcmpUn x0 x1 x2 s := rfl
@[simp] theorem exec_vfcmpOrd (x0 : BitVec 7) (x1 : BitVec 8) (x2 : BitVec 8) : exec (.vfcmpOrd x0 x1 x2) s = execVfcmpOrd x0 x1 x2 s := rfl
@[simp] theorem exec_vfabs (x0 : BitVec 8) (x1 : BitVec 8) : exec (.vfabs x0 x1) s = execVfabs x0 x1 s := rfl
@[simp] theorem exec_vfneg (x0 : BitVec 8) (x1 : BitVec 8) : exec (.vfneg x0 x1) s = execVfneg x0 x1 s := rfl
@[simp] theorem exec_vrcp (x0 : BitVec 8) (x1 : BitVec 8) : exec (.vrcp x0 x1) s = execVrcp x0 x1 s := rfl
@[simp] theorem exec_vrsq (x0 : BitVec 8) (x1 : BitVec 8) : exec (.vrsq x0 x1) s = execVrsq x0 x1 s := rfl
@[simp] theorem exec_vsqrt (x0 : BitVec 8) (x1 : BitVec 8) : exec (.vsqrt x0 x1) s = execVsqrt x0 x1 s := rfl
@[simp] theorem exec_vexp2 (x0 : BitVec 8) (x1 : BitVec 8) : exec (.vexp2 x0 x1) s = execVexp2 x0 x1 s := rfl
@[simp] theorem exec_vlog2 (x0 : BitVec 8) (x1 : BitVec 8) : exec (.vlog2 x0 x1) s = execVlog2 x0 x1 s := rfl
@[simp] theorem exec_vsin (x0 : BitVec 8) (x1 : BitVec 8) : exec (.vsin x0 x1) s = execVsin x0 x1 s := rfl
@[simp] theorem exec_vcos (x0 : BitVec 8) (x1 : BitVec 8) : exec (.vcos x0 x1) s = execVcos x0 x1 s := rfl
@[simp] theorem exec_vtanh (x0 : BitVec 8) (x1 : BitVec 8) : exec (.vtanh x0 x1) s = execVtanh x0 x1 s := rfl
@[simp] theorem exec_vfrc (x0 : BitVec 8) (x1 : BitVec 8) : exec (.vfrc x0 x1) s = execVfrc x0 x1 s := rfl
@[simp] theorem exec_vfrnd (x0 : BitVec 8) (x1 : BitVec 8) : exec (.vfrnd x0 x1) s = execVfrnd x0 x1 s := rfl
@[simp] theorem exec_vfgexp (x0 : BitVec 8) (x1 : BitVec 8) : exec (.vfgexp x0 x1) s = execVfgexp x0 x1 s := rfl
@[simp] theorem exec_vfclass (x0 : BitVec 8) (x1 : BitVec 8) : exec (.vfclass x0 x1) s = execVfclass x0 x1 s := rfl
@[simp] theorem exec_vact (x0 : BitVec 8) (x1 : BitVec 8) (x2 : BitVec 2) : exec (.vact x0 x1 x2) s = execVact x0 x1 x2 s := rfl
@[simp] theorem exec_actld (x0 : BitVec 7) (x1 : BitVec 3) : exec (.actld x0 x1) s = execActld x0 x1 s := rfl
@[simp] theorem exec_vcvt (x0 : BitVec 8) (x1 : BitVec 8) (x2 : ElemType) : exec (.vcvt x0 x1 x2) s = execVcvt x0 x1 x2 s := rfl
@[simp] theorem exec_vquant (x0 : BitVec 8) (x1 : BitVec 8) (x2 : MxFmt) : exec (.vquant x0 x1 x2) s = execVquant x0 x1 x2 s := rfl
@[simp] theorem exec_vdeq (x0 : BitVec 8) (x1 : BitVec 8) (x2 : MxFmt) : exec (.vdeq x0 x1 x2) s = execVdeq x0 x1 x2 s := rfl
@[simp] theorem exec_vpack (x0 : BitVec 8) (x1 : BitVec 8) (x2 : BitVec 8) : exec (.vpack x0 x1 x2) s = execVpack x0 x1 x2 s := rfl
@[simp] theorem exec_vunpack (x0 : BitVec 8) (x1 : BitVec 8) (x2 : Bool) : exec (.vunpack x0 x1 x2) s = execVunpack x0 x1 x2 s := rfl
@[simp] theorem exec_vexpand (x0 : BitVec 8) (x1 : BitVec 8) (x2 : ExpandFmt) : exec (.vexpand x0 x1 x2) s = execVexpand x0 x1 x2 s := rfl
@[simp] theorem exec_qswapx (x0 : BitVec 8) (x1 : BitVec 8) : exec (.qswapx x0 x1) s = execQswapx x0 x1 s := rfl
@[simp] theorem exec_qswapy (x0 : BitVec 8) (x1 : BitVec 8) : exec (.qswapy x0 x1) s = execQswapy x0 x1 s := rfl
@[simp] theorem exec_qbcast (x0 : BitVec 8) (x1 : BitVec 8) (x2 : BitVec 2) : exec (.qbcast x0 x1 x2) s = execQbcast x0 x1 x2 s := rfl
@[simp] theorem exec_qdiff (x0 : BitVec 8) (x1 : BitVec 8) (x2 : Bool) : exec (.qdiff x0 x1 x2) s = execQdiff x0 x1 x2 s := rfl
@[simp] theorem exec_vshfl (x0 : BitVec 8) (x1 : BitVec 8) (x2 : BitVec 8) : exec (.vshfl x0 x1 x2) s = execVshfl x0 x1 x2 s := rfl
@[simp] theorem exec_vshflup (x0 : BitVec 8) (x1 : BitVec 8) (x2 : BitVec 8) : exec (.vshflup x0 x1 x2) s = execVshflup x0 x1 x2 s := rfl
@[simp] theorem exec_vshfldn (x0 : BitVec 8) (x1 : BitVec 8) (x2 : BitVec 8) : exec (.vshfldn x0 x1 x2) s = execVshfldn x0 x1 x2 s := rfl
@[simp] theorem exec_vshflx (x0 : BitVec 8) (x1 : BitVec 8) (x2 : BitVec 8) : exec (.vshflx x0 x1 x2) s = execVshflx x0 x1 x2 s := rfl
@[simp] theorem exec_vvote (x0 : VoteMode) (x1 : BitVec 7) (x2 : BitVec 7) : exec (.vvote x0 x1 x2) s = execVvote x0 x1 x2 s := rfl
@[simp] theorem exec_vballot (x0 : BitVec 7) (x1 : BitVec 7) : exec (.vballot x0 x1) s = execVballot x0 x1 s := rfl
@[simp] theorem exec_vmatch (x0 : BitVec 8) (x1 : BitVec 8) (x2 : Bool) : exec (.vmatch x0 x1 x2) s = execVmatch x0 x1 x2 s := rfl
@[simp] theorem exec_vredi (x0 : BitVec 8) (x1 : BitVec 8) (x2 : RedOp) : exec (.vredi x0 x1 x2) s = execVredi x0 x1 x2 s := rfl
@[simp] theorem exec_vsumf (x0 : BitVec 8) (x1 : BitVec 8) : exec (.vsumf x0 x1) s = execVsumf x0 x1 s := rfl
@[simp] theorem exec_vscan (x0 : BitVec 8) (x1 : BitVec 8) (x2 : ScanOp) (x3 : Bool) : exec (.vscan x0 x1 x2 x3) s = execVscan x0 x1 x2 x3 s := rfl
@[simp] theorem exec_ldG32 (x0 : BitVec 8) (x1 : BitVec 8) (x2 : BitVec 6) (x3 : BitVec 2) : exec (.ldG32 x0 x1 x2 x3) s = execLdG32 x0 x1 x2 x3 s := rfl
@[simp] theorem exec_ldG64 (x0 : BitVec 8) (x1 : BitVec 8) (x2 : BitVec 6) (x3 : BitVec 2) : exec (.ldG64 x0 x1 x2 x3) s = execLdG64 x0 x1 x2 x3 s := rfl
@[simp] theorem exec_ldG128 (x0 : BitVec 8) (x1 : BitVec 8) (x2 : BitVec 6) (x3 : BitVec 2) : exec (.ldG128 x0 x1 x2 x3) s = execLdG128 x0 x1 x2 x3 s := rfl
@[simp] theorem exec_stG32 (x0 : BitVec 8) (x1 : BitVec 8) (x2 : BitVec 6) (x3 : BitVec 2) : exec (.stG32 x0 x1 x2 x3) s = execStG32 x0 x1 x2 x3 s := rfl
@[simp] theorem exec_stG64 (x0 : BitVec 8) (x1 : BitVec 8) (x2 : BitVec 6) (x3 : BitVec 2) : exec (.stG64 x0 x1 x2 x3) s = execStG64 x0 x1 x2 x3 s := rfl
@[simp] theorem exec_stG128 (x0 : BitVec 8) (x1 : BitVec 8) (x2 : BitVec 6) (x3 : BitVec 2) : exec (.stG128 x0 x1 x2 x3) s = execStG128 x0 x1 x2 x3 s := rfl
@[simp] theorem exec_lds (x0 : BitVec 8) (x1 : BitVec 8) (x2 : BitVec 6) (x3 : AccSize) : exec (.lds x0 x1 x2 x3) s = execLds x0 x1 x2 x3 s := rfl
@[simp] theorem exec_sts (x0 : BitVec 8) (x1 : BitVec 8) (x2 : BitVec 6) (x3 : AccSize) : exec (.sts x0 x1 x2 x3) s = execSts x0 x1 x2 x3 s := rfl
@[simp] theorem exec_ldc (x0 : BitVec 8) (x1 : BitVec 8) (x2 : BitVec 6) (x3 : AccSize) : exec (.ldc x0 x1 x2 x3) s = execLdc x0 x1 x2 x3 s := rfl
@[simp] theorem exec_ldAcq (x0 : BitVec 8) (x1 : BitVec 8) (x2 : BitVec 6) (x3 : Scope) : exec (.ldAcq x0 x1 x2 x3) s = execLdAcq x0 x1 x2 x3 s := rfl
@[simp] theorem exec_stRel (x0 : BitVec 8) (x1 : BitVec 8) (x2 : BitVec 6) (x3 : Scope) : exec (.stRel x0 x1 x2 x3) s = execStRel x0 x1 x2 x3 s := rfl
@[simp] theorem exec_atom (x0 : BitVec 8) (x1 : BitVec 8) (x2 : AtomOp) (x3 : Bool) (x4 : Bool) (x5 : Scope) : exec (.atom x0 x1 x2 x3 x4 x5) s = execAtom x0 x1 x2 x3 x4 x5 s := rfl
@[simp] theorem exec_red (x0 : BitVec 8) (x1 : BitVec 8) (x2 : AtomOp) (x3 : Bool) (x4 : Bool) (x5 : Scope) : exec (.red x0 x1 x2 x3 x4 x5) s = execRed x0 x1 x2 x3 x4 x5 s := rfl
@[simp] theorem exec_scatadd (x0 : BitVec 8) (x1 : BitVec 8) (x2 : AtomOp) (x3 : Bool) (x4 : Bool) (x5 : Scope) : exec (.scatadd x0 x1 x2 x3 x4 x5) s = execScatadd x0 x1 x2 x3 x4 x5 s := rfl
@[simp] theorem exec_pref (x0 : BitVec 8) (x1 : BitVec 6) (x2 : BitVec 2) : exec (.pref x0 x1 x2) s = execPref x0 x1 x2 s := rfl
@[simp] theorem exec_fence (x0 : BitVec 3) : exec (.fence x0) s = execFence x0 s := rfl
@[simp] theorem exec_acq (x0 : BitVec 3) (x1 : BitVec 7) (x2 : Bool) : exec (.acq x0 x1 x2) s = execAcq x0 x1 x2 s := rfl
@[simp] theorem exec_rel (x0 : BitVec 3) (x1 : BitVec 7) (x2 : Bool) : exec (.rel x0 x1 x2) s = execRel x0 x1 x2 s := rfl
@[simp] theorem exec_bind (x0 : BitVec 7) (x1 : BitVec 7) (x2 : BitVec 7) : exec (.bind x0 x1 x2) s = execBind x0 x1 x2 s := rfl
@[simp] theorem exec_unbind (x0 : BitVec 7) : exec (.unbind x0) s = execUnbind x0 s := rfl
@[simp] theorem exec_bari (x0 : BarSpace) (x1 : BitVec 7) (x2 : BitVec 7) : exec (.bari x0 x1 x2) s = execBari x0 x1 x2 s := rfl
@[simp] theorem exec_bara (x0 : BarSpace) (x1 : BitVec 7) (x2 : BitVec 7) (x3 : BitVec 7) : exec (.bara x0 x1 x2 x3) s = execBara x0 x1 x2 x3 s := rfl
@[simp] theorem exec_bart (x0 : BarSpace) (x1 : BitVec 7) (x2 : BitVec 7) (x3 : BitVec 7) : exec (.bart x0 x1 x2 x3) s = execBart x0 x1 x2 x3 s := rfl
@[simp] theorem exec_barw (x0 : BarSpace) (x1 : BitVec 7) (x2 : BitVec 7) : exec (.barw x0 x1 x2) s = execBarw x0 x1 x2 s := rfl
@[simp] theorem exec_barq (x0 : BarSpace) (x1 : BitVec 7) (x2 : BitVec 7) : exec (.barq x0 x1 x2) s = execBarq x0 x1 x2 s := rfl
@[simp] theorem exec_patld (x0 : BitVec 3) (x1 : BitVec 7) : exec (.patld x0 x1) s = execPatld x0 x1 s := rfl
@[simp] theorem exec_scp (x0 : BitVec 2) (x1 : BitVec 3) (x2 : BitVec 7) (x3 : BitVec 7) : exec (.scp x0 x1 x2 x3) s = execScp x0 x1 x2 x3 s := rfl
@[simp] theorem exec_scpo (x0 : BitVec 2) (x1 : BitVec 3) (x2 : BitVec 7) (x3 : BitVec 7) : exec (.scpo x0 x1 x2 x3) s = execScpo x0 x1 x2 x3 s := rfl
@[simp] theorem exec_sgath (x0 : BitVec 2) (x1 : BitVec 3) (x2 : BitVec 7) (x3 : BitVec 7) : exec (.sgath x0 x1 x2 x3) s = execSgath x0 x1 x2 x3 s := rfl
@[simp] theorem exec_sscat (x0 : BitVec 2) (x1 : BitVec 3) (x2 : BitVec 7) (x3 : BitVec 7) : exec (.sscat x0 x1 x2 x3) s = execSscat x0 x1 x2 x3 s := rfl
@[simp] theorem exec_sdeq (x0 : BitVec 2) (x1 : BitVec 3) (x2 : BitVec 7) (x3 : BitVec 7) : exec (.sdeq x0 x1 x2 x3) s = execSdeq x0 x1 x2 x3 s := rfl
@[simp] theorem exec_sfill (x0 : BitVec 7) (x1 : BitVec 7) (x2 : BitVec 7) : exec (.sfill x0 x1 x2) s = execSfill x0 x1 x2 s := rfl
@[simp] theorem exec_sxpos (x0 : BitVec 2) (x1 : BitVec 3) (x2 : BitVec 7) (x3 : BitVec 7) : exec (.sxpos x0 x1 x2 x3) s = execSxpos x0 x1 x2 x3 s := rfl
@[simp] theorem exec_sclose (x0 : BitVec 7) : exec (.sclose x0) s = execSclose x0 s := rfl
@[simp] theorem exec_swait (x0 : BitVec 7) : exec (.swait x0) s = execSwait x0 s := rfl
@[simp] theorem exec_sqfence (x0 : BitVec 4) : exec (.sqfence x0) s = execSqfence x0 s := rfl
@[simp] theorem exec_scancel (x0 : BitVec 4) : exec (.scancel x0) s = execScancel x0 s := rfl
@[simp] theorem exec_ldtTile (x0 : BitVec 4) (x1 : Bool) (x2 : BitVec 4) (x3 : BitVec 6) : exec (.ldtTile x0 x1 x2 x3) s = execLdtTile x0 x1 x2 x3 s := rfl
@[simp] theorem exec_ldtDescriptors (x0 : BitVec 2) (x1 : BitVec 16) : exec (.ldtDescriptors x0 x1) s = execLdtDescriptors x0 x1 s := rfl
@[simp] theorem exec_ldtCounters (x0 : BitVec 16) : exec (.ldtCounters x0) s = execLdtCounters x0 s := rfl
@[simp] theorem exec_mma (x0 : BitVec 3) (x1 : BitVec 4) (x2 : Bool) (x3 : BitVec 4) (x4 : BitVec 6) : exec (.mma x0 x1 x2 x3 x4) s = execMma x0 x1 x2 x3 x4 s := rfl
@[simp] theorem exec_mmaR (x0 : BitVec 3) (x1 : BitVec 4) : exec (.mmaR x0 x1) s = execMmaR x0 x1 s := rfl
@[simp] theorem exec_accz (x0 : BitVec 3) : exec (.accz x0) s = execAccz x0 s := rfl
@[simp] theorem exec_accpin (x0 : BitVec 3) (x1 : BitVec 16) : exec (.accpin x0 x1) s = execAccpin x0 x1 s := rfl
@[simp] theorem exec_accunpin (x0 : BitVec 3) : exec (.accunpin x0) s = execAccunpin x0 s := rfl
@[simp] theorem exec_accren (x0 : BitVec 3) : exec (.accren x0) s = execAccren x0 s := rfl
@[simp] theorem exec_accrd (x0 : BitVec 3) (x1 : Bool) (x2 : BitVec 4) (x3 : BitVec 6) : exec (.accrd x0 x1 x2 x3) s = execAccrd x0 x1 x2 x3 s := rfl
@[simp] theorem exec_accrdw (x0 : BitVec 3) (x1 : Bool) (x2 : BitVec 4) (x3 : BitVec 6) : exec (.accrdw x0 x1 x2 x3) s = execAccrdw x0 x1 x2 x3 s := rfl
@[simp] theorem exec_accaddAcc (x0 : BitVec 3) (x1 : BitVec 3) : exec (.accaddAcc x0 x1) s = execAccaddAcc x0 x1 s := rfl
@[simp] theorem exec_accaddScratch (x0 : BitVec 3) (x1 : Bool) (x2 : BitVec 4) (x3 : BitVec 6) : exec (.accaddScratch x0 x1 x2 x3) s = execAccaddScratch x0 x1 x2 x3 s := rfl
@[simp] theorem exec_accstat (x0 : Bool) (x1 : BitVec 3) (x2 : BitVec 16) : exec (.accstat x0 x1 x2) s = execAccstat x0 x1 x2 s := rfl
@[simp] theorem exec_msbar (x0 : BitVec 4) : exec (.msbar x0) s = execMsbar x0 s := rfl
@[simp] theorem exec_mswait (x0 : BitVec 4) : exec (.mswait x0) s = execMswait x0 s := rfl
@[simp] theorem exec_msloop (x0 : BitVec 3) (x1 : BitVec 21) : exec (.msloop x0 x1) s = execMsloop x0 x1 s := rfl
@[simp] theorem exec_msjmp (x0 : BitVec 24) : exec (.msjmp x0) s = execMsjmp x0 s := rfl
@[simp] theorem exec_msrestart (x0 : BitVec 16) : exec (.msrestart x0) s = execMsrestart x0 s := rfl
@[simp] theorem exec_mscfgGuard (x0 : BitVec 5) : exec (.mscfgGuard x0) s = execMscfgGuard x0 s := rfl
@[simp] theorem exec_mscfgRound (x0 : BitVec 4) (x1 : Bool) (x2 : BitVec 3) : exec (.mscfgRound x0 x1 x2) s = execMscfgRound x0 x1 x2 s := rfl
@[simp] theorem exec_mscfgScale (x0 : BitVec 16) : exec (.mscfgScale x0) s = execMscfgScale x0 s := rfl
@[simp] theorem exec_mscfgWide (x0 : BitVec 2) (x1 : Bool) : exec (.mscfgWide x0 x1) s = execMscfgWide x0 x1 s := rfl
@[simp] theorem exec_lbay (x0 : BitVec 7) (x1 : BitVec 7) : exec (.lbay x0 x1) s = execLbay x0 x1 s := rfl
@[simp] theorem exec_lfree (x0 : BitVec 7) : exec (.lfree x0) s = execLfree x0 s := rfl
@[simp] theorem exec_lxin (x0 : BitVec 7) (x1 : BitVec 7) (x2 : BitVec 2) (x3 : BitVec 3) : exec (.lxin x0 x1 x2 x3) s = execLxin x0 x1 x2 x3 s := rfl
@[simp] theorem exec_lxout (x0 : BitVec 7) (x1 : BitVec 7) (x2 : BitVec 2) (x3 : BitVec 3) : exec (.lxout x0 x1 x2 x3) s = execLxout x0 x1 x2 x3 s := rfl
@[simp] theorem exec_lop (x0 : LoftOp) (x1 : BitVec 7) (x2 : BitVec 7) (x3 : BitVec 7) : exec (.lop x0 x1 x2 x3) s = execLop x0 x1 x2 x3 s := rfl
@[simp] theorem exec_lops (x0 : LoftOp) (x1 : BitVec 7) (x2 : BitVec 7) (x3 : BitVec 7) : exec (.lops x0 x1 x2 x3) s = execLops x0 x1 x2 x3 s := rfl
@[simp] theorem exec_lcmp (x0 : LoftCc) (x1 : BitVec 7) (x2 : BitVec 7) (x3 : BitVec 7) : exec (.lcmp x0 x1 x2 x3) s = execLcmp x0 x1 x2 x3 s := rfl
@[simp] theorem exec_lcmps (x0 : LoftCc) (x1 : BitVec 7) (x2 : BitVec 7) (x3 : BitVec 7) : exec (.lcmps x0 x1 x2 x3) s = execLcmps x0 x1 x2 x3 s := rfl
@[simp] theorem exec_lpop (x0 : BitVec 7) (x1 : BitVec 7) : exec (.lpop x0 x1) s = execLpop x0 x1 s := rfl
@[simp] theorem exec_lsel (x0 : BitVec 7) (x1 : BitVec 7) (x2 : BitVec 7) : exec (.lsel x0 x1 x2) s = execLsel x0 x1 x2 s := rfl
@[simp] theorem exec_lsrch (x0 : BitVec 7) (x1 : BitVec 7) (x2 : BitVec 7) : exec (.lsrch x0 x1 x2) s = execLsrch x0 x1 x2 s := rfl
@[simp] theorem exec_lshift (x0 : BitVec 7) (x1 : BitVec 7) (x2 : BitVec 7) : exec (.lshift x0 x1 x2) s = execLshift x0 x1 x2 s := rfl
@[simp] theorem exec_kvxRd (x0 : BitVec 8) (x1 : BitVec 8) : exec (.kvxRd x0 x1) s = execKvxRd x0 x1 s := rfl
@[simp] theorem exec_kvxWr (x0 : BitVec 8) (x1 : BitVec 8) : exec (.kvxWr x0 x1) s = execKvxWr x0 x1 s := rfl
@[simp] theorem exec_kvpin (x0 : BitVec 8) (x1 : BitVec 8) : exec (.kvpin x0 x1) s = execKvpin x0 x1 s := rfl
@[simp] theorem exec_kvrel (x0 : BitVec 8) (x1 : BitVec 8) : exec (.kvrel x0 x1) s = execKvrel x0 x1 s := rfl
@[simp] theorem exec_loftOperationEnd (x0 : Nat) (x1 : Nat) : exec (.loftOperationEnd x0 x1) s = execLoftOperationEnd x0 x1 s := rfl
@[simp] theorem exec_atomicComplete (x0 : Nat) : exec (.atomicComplete x0) s = execAtomicComplete x0 s := rfl
@[simp] theorem exec_dividerComplete (x0 : Nat) : exec (.dividerComplete x0) s = execDividerComplete x0 s := rfl
@[simp] theorem exec_pantryWalkComplete (x0 : Nat) : exec (.pantryWalkComplete x0) s = execPantryWalkComplete x0 s := rfl
@[simp] theorem exec_loadComplete (x0 : Nat) : exec (.loadComplete x0) s = execLoadComplete x0 s := rfl
@[simp] theorem exec_storeAck (x0 : Nat) (x1 : Nat) : exec (.storeAck x0 x1) s = execStoreAck x0 x1 s := rfl
@[simp] theorem exec_engineSectorWrite (x0 : Nat) (x1 : Nat) (x2 : Nat) : exec (.engineSectorWrite x0 x1 x2) s = execEngineSectorWrite x0 x1 x2 s := rfl
@[simp] theorem exec_actldLoadEnd (x0 : Nat) (x1 : Nat) (x2 : Nat) : exec (.actldLoadEnd x0 x1 x2) s = execActldLoadEnd x0 x1 x2 s := rfl
@[simp] theorem exec_sleepExpire (x0 : Nat) (x1 : Nat) (x2 : Nat) : exec (.sleepExpire x0 x1 x2) s = execSleepExpire x0 x1 x2 s := rfl
@[simp] theorem exec_blockRetire (x0 : Nat) : exec (.blockRetire x0) s = execBlockRetire x0 s := rfl
@[simp] theorem exec_gridRetire (x0 : Nat) : exec (.gridRetire x0) s = execGridRetire x0 s := rfl
@[simp] theorem exec_mergeWaitTimeout (x0 : Nat) (x1 : Nat) (x2 : Nat) : exec (.mergeWaitTimeout x0 x1 x2) s = execMergeWaitTimeout x0 x1 x2 s := rfl
@[simp] theorem exec_ret : exec .ret s = execRet s := rfl
@[simp] theorem exec_exit : exec .exit s = execExit s := rfl
@[simp] theorem exec_yield : exec .yield s = execYield s := rfl
@[simp] theorem exec_nop : exec .nop s = execNop s := rfl
@[simp] theorem exec_rteRetry : exec .rteRetry s = execRteRetry s := rfl
@[simp] theorem exec_rteCont : exec .rteCont s = execRteCont s := rfl
@[simp] theorem exec_msend : exec .msend s = execMsend s := rfl
@[simp] theorem exec_lwait : exec .lwait s = execLwait s := rfl
@[simp] theorem exec_doorbell (x0 : Nat) (x1 : Nat) (x2 : Nat) : exec (.doorbell x0 x1 x2) s = execDoorbell x0 x1 x2 s := rfl
@[simp] theorem exec_queueEnable (x0 : Nat) (x1 : Nat) : exec (.queueEnable x0 x1) s = execQueueEnable x0 x1 s := rfl
@[simp] theorem exec_evqcfgWrite (x0 : Nat) (x1 : Nat) (x2 : Nat) (x3 : Nat) (x4 : Nat) (x5 : Bool) : exec (.evqcfgWrite x0 x1 x2 x3 x4 x5) s = execEvqcfgWrite x0 x1 x2 x3 x4 x5 s := rfl
@[simp] theorem exec_evreadWrite (x0 : Nat) (x1 : Nat) (x2 : Nat) : exec (.evreadWrite x0 x1 x2) s = execEvreadWrite x0 x1 x2 s := rfl
@[simp] theorem exec_evlostWrite (x0 : Nat) (x1 : Nat) (x2 : Nat) : exec (.evlostWrite x0 x1 x2) s = execEvlostWrite x0 x1 x2 s := rfl
@[simp] theorem exec_queueControlPoll (x0 : Nat) (x1 : Nat) : exec (.queueControlPoll x0 x1) s = execQueueControlPoll x0 x1 s := rfl
@[simp] theorem exec_laneBind (x0 : Nat) (x1 : Nat) : exec (.laneBind x0 x1) s = execLaneBind x0 x1 s := rfl
@[simp] theorem exec_laneRelease (x0 : Nat) (x1 : Nat) : exec (.laneRelease x0 x1) s = execLaneRelease x0 x1 s := rfl
@[simp] theorem exec_lookaheadRead (x0 : Nat) (x1 : Nat) : exec (.lookaheadRead x0 x1) s = execLookaheadRead x0 x1 s := rfl
@[simp] theorem exec_nopPacket (x0 : Nat) (x1 : Nat) : exec (.nopPacket x0 x1) s = execNopPacket x0 x1 s := rfl
@[simp] theorem exec_dispatchPacket (x0 : Nat) (x1 : Nat) : exec (.dispatchPacket x0 x1) s = execDispatchPacket x0 x1 s := rfl
@[simp] theorem exec_gangPacket (x0 : Nat) (x1 : Nat) : exec (.gangPacket x0 x1) s = execGangPacket x0 x1 s := rfl
@[simp] theorem exec_signalPacket (x0 : Nat) (x1 : Nat) : exec (.signalPacket x0 x1) s = execSignalPacket x0 x1 s := rfl
@[simp] theorem exec_waitsigPacket (x0 : Nat) (x1 : Nat) : exec (.waitsigPacket x0 x1) s = execWaitsigPacket x0 x1 s := rfl
@[simp] theorem exec_waitsigPoll (x0 : Nat) (x1 : Nat) : exec (.waitsigPoll x0 x1) s = execWaitsigPoll x0 x1 s := rfl
@[simp] theorem exec_waitsigTimeout (x0 : Nat) (x1 : Nat) : exec (.waitsigTimeout x0 x1) s = execWaitsigTimeout x0 x1 s := rfl
@[simp] theorem exec_joinPacket (x0 : Nat) (x1 : Nat) : exec (.joinPacket x0 x1) s = execJoinPacket x0 x1 s := rfl
@[simp] theorem exec_callPacket (x0 : Nat) (x1 : Nat) : exec (.callPacket x0 x1) s = execCallPacket x0 x1 s := rfl
@[simp] theorem exec_returnPacket (x0 : Nat) (x1 : Nat) : exec (.returnPacket x0 x1) s = execReturnPacket x0 x1 s := rfl
@[simp] theorem exec_copyPacket (x0 : Nat) (x1 : Nat) : exec (.copyPacket x0 x1) s = execCopyPacket x0 x1 s := rfl
@[simp] theorem exec_copyComplete (x0 : Nat) (x1 : Nat) : exec (.copyComplete x0 x1) s = execCopyComplete x0 x1 s := rfl
@[simp] theorem exec_cellarPacket (x0 : Nat) (x1 : Nat) : exec (.cellarPacket x0 x1) s = execCellarPacket x0 x1 s := rfl
@[simp] theorem exec_taskPacket (x0 : Nat) (x1 : Nat) : exec (.taskPacket x0 x1) s = execTaskPacket x0 x1 s := rfl
@[simp] theorem exec_sqfencePacket (x0 : Nat) (x1 : Nat) : exec (.sqfencePacket x0 x1) s = execSqfencePacket x0 x1 s := rfl
@[simp] theorem exec_phasePacket (x0 : Nat) (x1 : Nat) : exec (.phasePacket x0 x1) s = execPhasePacket x0 x1 s := rfl
@[simp] theorem exec_placementStep (x0 : Nat) : exec (.placementStep x0) s = execPlacementStep x0 s := rfl
@[simp] theorem exec_blockRelease (x0 : Nat) : exec (.blockRelease x0) s = execBlockRelease x0 s := rfl
@[simp] theorem exec_spanStarving (x0 : Nat) (x1 : Nat) : exec (.spanStarving x0 x1) s = execSpanStarving x0 x1 s := rfl
@[simp] theorem exec_gangresWrite (x0 : Nat) (x1 : Nat) (x2 : Nat) : exec (.gangresWrite x0 x1 x2) s = execGangresWrite x0 x1 x2 s := rfl
@[simp] theorem exec_gangHoldStart (x0 : Nat) (x1 : Nat) : exec (.gangHoldStart x0 x1) s = execGangHoldStart x0 x1 s := rfl
@[simp] theorem exec_coreHeld (x0 : Nat) (x1 : Nat) : exec (.coreHeld x0 x1) s = execCoreHeld x0 x1 s := rfl
@[simp] theorem exec_gangHeld (x0 : GangFn) (x1 : Nat) (x2 : GangMember) : exec (.gangHeld x0 x1 x2) s = execGangHeld x0 x1 x2 s := rfl
@[simp] theorem exec_gangUnheld (x0 : GangFn) (x1 : Nat) (x2 : GangMember) : exec (.gangUnheld x0 x1 x2) s = execGangUnheld x0 x1 x2 s := rfl
@[simp] theorem exec_gangCommit (x0 : GangFn) (x1 : Nat) : exec (.gangCommit x0 x1) s = execGangCommit x0 x1 s := rfl
@[simp] theorem exec_gangAbort (x0 : GangFn) (x1 : Nat) (x2 : Nat) : exec (.gangAbort x0 x1 x2) s = execGangAbort x0 x1 x2 s := rfl
@[simp] theorem exec_gangTimeout (x0 : Nat) (x1 : Nat) : exec (.gangTimeout x0 x1) s = execGangTimeout x0 x1 s := rfl
@[simp] theorem exec_groupOverdue (x0 : Nat) (x1 : Nat) : exec (.groupOverdue x0 x1) s = execGroupOverdue x0 x1 s := rfl
@[simp] theorem exec_governorWindowStart (x0 : Nat) (x1 : Nat) : exec (.governorWindowStart x0 x1) s = execGovernorWindowStart x0 x1 s := rfl
@[simp] theorem exec_governorWindowEnd (x0 : Nat) (x1 : Nat) : exec (.governorWindowEnd x0 x1) s = execGovernorWindowEnd x0 x1 s := rfl
@[simp] theorem exec_governorPeriod (x0 : Nat) : exec (.governorPeriod x0) s = execGovernorPeriod x0 s := rfl
@[simp] theorem exec_govctlWrite (x0 : Nat) (x1 : Nat) : exec (.govctlWrite x0 x1) s = execGovctlWrite x0 x1 s := rfl
@[simp] theorem exec_trapDeliveryH (x0 : Nat) (x1 : Nat) (x2 : Nat) : exec (.trapDeliveryH x0 x1 x2) s = execTrapDeliveryH x0 x1 x2 s := rfl
@[simp] theorem exec_pageWalkComplete (x0 : Nat) (x1 : Nat) (x2 : Nat) (x3 : Nat) (x4 : AccType) : exec (.pageWalkComplete x0 x1 x2 x3 x4) s = execPageWalkComplete x0 x1 x2 x3 x4 s := rfl
@[simp] theorem exec_parkReplay (x0 : Nat) (x1 : Nat) (x2 : Nat) : exec (.parkReplay x0 x1 x2) s = execParkReplay x0 x1 x2 s := rfl
@[simp] theorem exec_parkDeliver (x0 : Nat) (x1 : Nat) (x2 : Nat) : exec (.parkDeliver x0 x1 x2) s = execParkDeliver x0 x1 x2 s := rfl
@[simp] theorem exec_invalidateRange (x0 : Nat) (x1 : Nat) (x2 : Nat) (x3 : Nat) (x4 : Nat) (x5 : Nat) : exec (.invalidateRange x0 x1 x2 x3 x4 x5) s = execInvalidateRange x0 x1 x2 x3 x4 x5 s := rfl
@[simp] theorem exec_invalidateContext (x0 : Nat) (x1 : Nat) (x2 : Nat) (x3 : Nat) : exec (.invalidateContext x0 x1 x2 x3) s = execInvalidateContext x0 x1 x2 x3 s := rfl
@[simp] theorem exec_harvestDirty (x0 : Nat) (x1 : Nat) (x2 : Nat) (x3 : Nat) (x4 : Nat) (x5 : Nat) (x6 : Nat) : exec (.harvestDirty x0 x1 x2 x3 x4 x5 x6) s = execHarvestDirty x0 x1 x2 x3 x4 x5 x6 s := rfl
@[simp] theorem exec_translationCommandDone (x0 : Nat) (x1 : Nat) : exec (.translationCommandDone x0 x1) s = execTranslationCommandDone x0 x1 s := rfl
@[simp] theorem exec_memcfgWrite (x0 : Nat) (x1 : Nat) : exec (.memcfgWrite x0 x1) s = execMemcfgWrite x0 x1 s := rfl
@[simp] theorem exec_windowBaysReady (x0 : Nat) : exec (.windowBaysReady x0) s = execWindowBaysReady x0 s := rfl
@[simp] theorem exec_sectorPoison (x0 : Nat) : exec (.sectorPoison x0) s = execSectorPoison x0 s := rfl
@[simp] theorem exec_engineCommandComplete (x0 : Nat) (x1 : Nat) (x2 : Nat) : exec (.engineCommandComplete x0 x1 x2) s = execEngineCommandComplete x0 x1 x2 s := rfl
@[simp] theorem exec_lbayComplete (x0 : Nat) : exec (.lbayComplete x0) s = execLbayComplete x0 s := rfl
@[simp] theorem exec_lfreeComplete (x0 : Nat) : exec (.lfreeComplete x0) s = execLfreeComplete x0 s := rfl
@[simp] theorem exec_loftReclaim (x0 : Nat) (x1 : Nat) : exec (.loftReclaim x0 x1) s = execLoftReclaim x0 x1 s := rfl
@[simp] theorem exec_cellframeWrite (x0 : Nat) (x1 : Nat) (x2 : Nat) : exec (.cellframeWrite x0 x1 x2) s = execCellframeWrite x0 x1 x2 s := rfl
@[simp] theorem exec_computeIntervalStart (x0 : Nat) (x1 : Nat) : exec (.computeIntervalStart x0 x1) s = execComputeIntervalStart x0 x1 s := rfl
@[simp] theorem exec_cellarPartEnd (x0 : Nat) (x1 : Nat) : exec (.cellarPartEnd x0 x1) s = execCellarPartEnd x0 x1 s := rfl
@[simp] theorem exec_cellarPartPoison (x0 : Nat) (x1 : Nat) (x2 : Nat) (x3 : Nat) : exec (.cellarPartPoison x0 x1 x2 x3) s = execCellarPartPoison x0 x1 x2 x3 s := rfl
@[simp] theorem exec_cellarComplete (x0 : Nat) (x1 : Nat) : exec (.cellarComplete x0 x1) s = execCellarComplete x0 x1 s := rfl
@[simp] theorem exec_pantryreclWrite (x0 : Nat) (x1 : Nat) : exec (.pantryreclWrite x0 x1) s = execPantryreclWrite x0 x1 s := rfl
@[simp] theorem exec_linkFlitReceive (x0 : Nat) (x1 : Nat) (x2 : List Byte) : exec (.linkFlitReceive x0 x1 x2) s = execLinkFlitReceive x0 x1 x2 s := rfl
@[simp] theorem exec_linkNak (x0 : Nat) (x1 : Nat) (x2 : Nat) : exec (.linkNak x0 x1 x2) s = execLinkNak x0 x1 x2 s := rfl
@[simp] theorem exec_linkctlRetrain (x0 : Nat) (x1 : Nat) : exec (.linkctlRetrain x0 x1) s = execLinkctlRetrain x0 x1 s := rfl
@[simp] theorem exec_linkctlDisable (x0 : Nat) (x1 : Nat) (x2 : Nat) : exec (.linkctlDisable x0 x1 x2) s = execLinkctlDisable x0 x1 x2 s := rfl
@[simp] theorem exec_linkTrainingEnd (x0 : Nat) (x1 : Nat) (x2 : Nat) : exec (.linkTrainingEnd x0 x1 x2) s = execLinkTrainingEnd x0 x1 x2 s := rfl
@[simp] theorem exec_remoteMessage (x0 : RemoteMsg) : exec (.remoteMessage x0) s = execRemoteMessage x0 s := rfl
@[simp] theorem exec_remoteResponse (x0 : Nat) (x1 : RemoteResp) : exec (.remoteResponse x0 x1) s = execRemoteResponse x0 x1 s := rfl
@[simp] theorem exec_remoteRetry (x0 : Nat) : exec (.remoteRetry x0) s = execRemoteRetry x0 s := rfl
@[simp] theorem exec_remoteResend (x0 : Nat) : exec (.remoteResend x0) s = execRemoteResend x0 s := rfl
@[simp] theorem exec_remoteTimeout (x0 : Nat) : exec (.remoteTimeout x0) s = execRemoteTimeout x0 s := rfl
@[simp] theorem exec_hostInboundWrite (x0 : Nat) (x1 : List Byte) : exec (.hostInboundWrite x0 x1) s = execHostInboundWrite x0 x1 s := rfl
@[simp] theorem exec_hostInboundRead (x0 : Nat) (x1 : Nat) : exec (.hostInboundRead x0 x1) s = execHostInboundRead x0 x1 s := rfl
@[simp] theorem exec_peerApertureAccess (x0 : Nat) (x1 : Nat) (x2 : Bool) (x3 : List Byte) : exec (.peerApertureAccess x0 x1 x2 x3) s = execPeerApertureAccess x0 x1 x2 x3 s := rfl
@[simp] theorem exec_portcfgWrite (x0 : Nat) (x1 : Nat) : exec (.portcfgWrite x0 x1) s = execPortcfgWrite x0 x1 s := rfl
@[simp] theorem exec_hdmcfgWrite (x0 : Nat) : exec (.hdmcfgWrite x0) s = execHdmcfgWrite x0 s := rfl
@[simp] theorem exec_extentRevoke (x0 : Nat) : exec (.extentRevoke x0) s = execExtentRevoke x0 s := rfl
@[simp] theorem exec_expanderViral (x0 : Nat) : exec (.expanderViral x0) s = execExpanderViral x0 s := rfl
@[simp] theorem exec_expanderLost (x0 : Nat) : exec (.expanderLost x0) s = execExpanderLost x0 s := rfl
@[simp] theorem exec_upstreamViral : exec .upstreamViral s = execUpstreamViral s := rfl
@[simp] theorem exec_taskReceive (x0 : Nat) (x1 : List Byte) : exec (.taskReceive x0 x1) s = execTaskReceive x0 x1 s := rfl
@[simp] theorem exec_taskReturn (x0 : Nat) (x1 : Nat) (x2 : Nat) (x3 : List Byte) : exec (.taskReturn x0 x1 x2 x3) s = execTaskReturn x0 x1 x2 x3 s := rfl
@[simp] theorem exec_preemptRequest (x0 : Nat) (x1 : PreemptCause) : exec (.preemptRequest x0 x1) s = execPreemptRequest x0 x1 s := rfl
@[simp] theorem exec_contextSave (x0 : Nat) (x1 : Nat) (x2 : Bool) (x3 : Nat) : exec (.contextSave x0 x1 x2 x3) s = execContextSave x0 x1 x2 x3 s := rfl
@[simp] theorem exec_contextResume (x0 : Nat) (x1 : Nat) (x2 : Nat) (x3 : Nat) : exec (.contextResume x0 x1 x2 x3) s = execContextResume x0 x1 x2 x3 s := rfl
@[simp] theorem exec_contextStop (x0 : Nat) (x1 : Nat) (x2 : Nat) : exec (.contextStop x0 x1 x2) s = execContextStop x0 x1 x2 s := rfl
@[simp] theorem exec_contextStart (x0 : Nat) (x1 : Nat) (x2 : Nat) : exec (.contextStart x0 x1 x2) s = execContextStart x0 x1 x2 s := rfl
@[simp] theorem exec_contextCommandDone (x0 : Nat) (x1 : Nat) : exec (.contextCommandDone x0 x1) s = execContextCommandDone x0 x1 s := rfl
@[simp] theorem exec_ctxstatClear (x0 : Nat) (x1 : Nat) : exec (.ctxstatClear x0 x1) s = execCtxstatClear x0 x1 s := rfl
@[simp] theorem exec_laneDeath (x0 : Nat) (x1 : Nat) (x2 : LaneMask) (x3 : Nat) : exec (.laneDeath x0 x1 x2 x3) s = execLaneDeath x0 x1 x2 x3 s := rfl
@[simp] theorem exec_blockError (x0 : Nat) (x1 : Nat) : exec (.blockError x0 x1) s = execBlockError x0 x1 s := rfl
@[simp] theorem exec_restartRecordWrite (x0 : Nat) : exec (.restartRecordWrite x0) s = execRestartRecordWrite x0 s := rfl
@[simp] theorem exec_evacuate (x0 : Nat) (x1 : Nat) : exec (.evacuate x0 x1) s = execEvacuate x0 x1 s := rfl
@[simp] theorem exec_evacuationComplete (x0 : Nat) : exec (.evacuationComplete x0) s = execEvacuationComplete x0 s := rfl
@[simp] theorem exec_migctlQuiesce (x0 : Nat) (x1 : Nat) (x2 : Nat) : exec (.migctlQuiesce x0 x1 x2) s = execMigctlQuiesce x0 x1 x2 s := rfl
@[simp] theorem exec_moduleReset : exec .moduleReset s = execModuleReset s := rfl
@[simp] theorem exec_report (x0 : Nat) (x1 : Nat) (x2 : Nat) (x3 : Nat) (x4 : Nat) : exec (.report x0 x1 x2 x3 x4) s = execReport x0 x1 x2 x3 x4 s := rfl
@[simp] theorem exec_openTaskSession (x0 : Nat) (x1 : Nat) (x2 : Nat) (x3 : Nat) (x4 : Nat) : exec (.openTaskSession x0 x1 x2 x3 x4) s = execOpenTaskSession x0 x1 x2 x3 x4 s := rfl
@[simp] theorem exec_closeTaskSession (x0 : Nat) (x1 : Nat) (x2 : Nat) (x3 : Nat) (x4 : Nat) : exec (.closeTaskSession x0 x1 x2 x3 x4) s = execCloseTaskSession x0 x1 x2 x3 x4 s := rfl
@[simp] theorem exec_readCertificate (x0 : Nat) (x1 : Nat) (x2 : Nat) (x3 : Nat) (x4 : Nat) : exec (.readCertificate x0 x1 x2 x3 x4) s = execReadCertificate x0 x1 x2 x3 x4 s := rfl
@[simp] theorem exec_powerSample (x0 : Nat) (x1 : Nat) : exec (.powerSample x0 x1) s = execPowerSample x0 x1 s := rfl
@[simp] theorem exec_pwrctlWrite (x0 : Nat) : exec (.pwrctlWrite x0) s = execPwrctlWrite x0 s := rfl
@[simp] theorem exec_managementMessage (x0 : MgmtReq) : exec (.managementMessage x0) s = execManagementMessage x0 s := rfl
@[simp] theorem exec_registerWrite (x0 : RegName) (x1 : Nat) : exec (.registerWrite x0 x1) s = execRegisterWrite x0 x1 s := rfl
@[simp] theorem exec_ordinaryIntervalStart (x0 : Nat) (x1 : Nat) : exec (.ordinaryIntervalStart x0 x1) s = execOrdinaryIntervalStart x0 x1 s := rfl
@[simp] theorem exec_contextTeardown (x0 : Nat) (x1 : Nat) : exec (.contextTeardown x0 x1) s = execContextTeardown x0 x1 s := rfl
@[simp] theorem exec_backInvalidationSnoopResponse (x0 : Nat) : exec (.backInvalidationSnoopResponse x0) s = execBackInvalidationSnoopResponse x0 s := rfl
@[simp] theorem exec_backInvalidationFromExpander (x0 : Nat) : exec (.backInvalidationFromExpander x0) s = execBackInvalidationFromExpander x0 s := rfl

end Sys2Proof.Machine
end

