-- ==== Sys2Proof/Laws/Memory.lean ====
section
/-! SUPPORT. Accesses that hit: what a lane's access of local memory meets (R221, R225), what a load takes (R240), and how a
long-latency word issues and completes (R119). -/

namespace Sys2Proof.Machine

theorem grid_startWord (w : Word) (s : State) : (startWord w s).grid = s.grid := by
  have h : (startWord w s).blk.grid = s.blk.grid := by rw [startWord, State.blk_modS]
  rw [State.grid, State.grid, h]; rfl

theorem place_startWord (w : Word) (s : State) : (startWord w s).blk.die = s.blk.die ∧ (startWord w s).blk.core = s.blk.core := by
  rw [startWord, State.blk_modS]; exact ⟨rfl, rfl⟩

/-- An access that hits changes nothing and reaches its address. -/
theorem reach_hits {s : State} {acc : AccType} {n va pa : Nat} (h : Hits s acc n va pa) :
    s.reach s.blk va n acc = (s, .ok pa) := by
  obtain ⟨t, h1, h2, h4⟩ := h
  have h1' : s.tlbHit s.blk.die (some s.blk.core) (s.gridOf s.blk.grid).fn (s.gridOf s.blk.grid).ctx va acc = some t := h1
  have h4' : s.reachPa (s.gridOf s.blk.grid).fn (t.pa + va % t.size) n (decide (acc ≠ .write ∧ acc ≠ .engWrite)) = .ok pa := h4
  have hw : ¬ ((acc.writes && !t.writable) = true) := by
    cases ha : acc.writes
    · simp
    · simp [h2 ha]
  simp only [State.reach, State.translate, h1', if_neg hw, h4']

/-- What the way of an access depends on. -/
theorem reachPa_congr {u s : State} {fn pa : Nat} (h1 : u.rangeOf pa = s.rangeOf pa) (h2 : u.winBase = s.winBase)
    (h3 : ∀ a k, u.poisoned a k = s.poisoned a k) (h4 : u.routePort pa = s.routePort pa) (h5 : u.extentLost pa = s.extentLost pa)
    (h6 : u.fabricOn fn = s.fabricOn fn) (h7 : ∀ d, u.dieOf d = s.dieOf d) (h8 : ∀ a, u.chanBusy a = s.chanBusy a)
    (h9 : u.localPa pa = s.localPa pa) (h10 : u.moduleNo = s.moduleNo) (h11 : u.upViral = s.upViral) (n : Nat) (r : Bool) :
    u.reachPa fn pa n r = s.reachPa fn pa n r := by
  unfold State.reachPa
  simp only [h1, h2, h3, h4, h5, h6, h7, h8, h9, h10, h11]

/-- Where an access goes does not depend on the blocks. -/
theorem reachPa_blocks (s : State) (b : Tab Block) (fn pa n : Nat) (r : Bool) :
    ({ s with blocks := b } : State).reachPa fn pa n r = s.reachPa fn pa n r := by
  have hr : ∀ a, ({ s with blocks := b } : State).rangeOf a = s.rangeOf a := fun a => by unfold State.rangeOf; rfl
  refine reachPa_congr (hr pa) rfl (fun _ _ => rfl) rfl rfl rfl (fun _ => rfl) (fun a => ?_) ?_ rfl rfl n r
  · unfold State.chanBusy State.homeDie; rw [hr]; rfl
  · unfold State.localPa; rw [hr]; rfl

theorem hits_startWord {s : State} {acc : AccType} {n va pa : Nat} (w : Word) (h : Hits s acc n va pa) :
    Hits (startWord w s) acc n va pa := by
  obtain ⟨t, h1, h2, h4⟩ := h
  refine ⟨t, ?_, h2, ?_⟩
  · rw [(place_startWord w s).1, (place_startWord w s).2, State.fn, State.ctx, grid_startWord]; exact h1
  · rw [State.fn, grid_startWord]
    exact (reachPa_blocks s _ _ _ _ _).trans h4

/-- Every lane's access hits: nothing changes. -/
theorem reachLanes_hits {acc : AccType} {n : Nat} {s : State} {las : List (Nat × Nat)} {pa : Nat → Nat}
    (h : ∀ r ∈ las, Hits s acc n r.2 (pa r.1)) :
    reachLanes acc n las s = (s, las.map fun r => (r.1, r.2, .ok (pa r.1))) := by
  induction las with
  | nil => rfl
  | cons r t ih =>
    obtain ⟨l, va⟩ := r
    have h1 := reach_hits (h (l, va) (by simp))
    have h2 := ih fun r hr => h r (by simp [hr])
    simp only [reachLanes, h1, h2, List.map_cons]

theorem localsOf_ok (las : List (Nat × Nat)) (pa : Nat → Nat) :
    localsOf (las.map fun r => (r.1, r.2, .ok (pa r.1))) = las.map fun r => (r.1, r.2, pa r.1) := by
  induction las with
  | nil => rfl
  | cons r t ih => simp only [localsOf, List.map_cons, List.filterMap_cons] at ih ⊢; rw [ih]

theorem remotesOf_ok (las : List (Nat × Nat)) (pa : Nat → Nat) :
    remotesOf (las.map fun r => (r.1, r.2, .ok (pa r.1))) = [] := by
  induction las with
  | nil => rfl
  | cons r t ih => simp only [remotesOf, List.map_cons, List.filterMap_cons] at ih ⊢; exact ih

theorem faultsOf_ok (las : List (Nat × Nat)) (pa : Nat → Nat) :
    faultsOf (las.map fun r => (r.1, r.2, .ok (pa r.1))) = [] := by
  induction las with
  | nil => rfl
  | cons r t ih => simp only [faultsOf, List.map_cons, List.filterMap_cons] at ih ⊢; exact ih

theorem firstFail_ok (las : List (Nat × Nat)) (pa : Nat → Nat) :
    firstFail (las.map fun r => (r.1, r.2, .ok (pa r.1))) = none := by
  induction las with
  | nil => rfl
  | cons r t ih => simp only [firstFail, List.map_cons] at ih ⊢; exact ih

theorem find_ok (las : List (Nat × Nat)) (pa : Nat → Nat) (x : Reach) (h : ∀ p, x ≠ .ok p) :
    (las.map fun r => (r.1, r.2, Reach.ok (pa r.1))).find? (fun r => r.2.2 == x) = none := by
  rw [List.find?_eq_none]
  intro r hr
  simp only [List.mem_map] at hr
  obtain ⟨q, _, rfl⟩ := hr
  simp only [beq_iff_eq]
  exact fun e => h _ e.symm

/-- A global access whose lanes are aligned and hit: its performance alone counts. -/
theorem globalAccess_hits {acc : AccType} {n : Nat} {las : List (Nat × Nat)} {check ready perform} {s u : State} {pa : Nat → Nat}
    (hq : s.acqBusy = false) (ha : ∀ r ∈ las, r.2 % n = 0) (h : ∀ r ∈ las, Hits s acc n r.2 (pa r.1))
    (hc : check (las.map fun r => (r.1, r.2, Reach.ok (pa r.1))) = none)
    (hr : ready s (las.map fun r => (r.1, r.2, Reach.ok (pa r.1))) = (u, true)) :
    globalAccess acc n las check ready perform s = .ok (perform u (las.map fun r => (r.1, r.2, Reach.ok (pa r.1)))) := by
  have h0 : (las.find? fun la => decide (la.2 % n ≠ 0)) = none := by
    rw [List.find?_eq_none]; intro r hr; simp [ha r hr]
  have hp := find_ok las pa .protect (by simp)
  have hw : (las.map fun r => (r.1, r.2, Reach.ok (pa r.1))).any (fun r => r.2.2 == Reach.wait) = false := by
    have := find_ok las pa .wait (by simp)
    rw [List.find?_eq_none] at this
    rw [List.any_eq_false]
    exact this
  simp only [globalAccess, hq, Bool.false_eq_true, if_false, h0, reachLanes_hits h, hp, hc, hr, hw, faultsOf_ok, List.isEmpty_nil, if_true]

end Sys2Proof.Machine
end

