-- ==== Sys2Proof/Laws/LongWords.lean ====
section
/-! SUPPORT. Long-latency words: what the issue of one leaves, and what its completion writes (R119, R121). -/

namespace Sys2Proof.Machine

/-- The operation that the issuing split starts. -/
def started (s : State) (o : Op) : Op :=
  { o with blk := s.focus.blk, grp := s.focus.grp, ent := s.focus.ent, flag := s.spl.nextFlag }

/-- The state with the operation outstanding. -/
def withOp (s : State) (o : Op) : State := { s with nextId := s.nextId + 1, ops := s.ops.set s.nextId (started s o) }

/-- The splits of a group with an operation bound to a flag of one of them. -/
def bindIn (e f id : Nat) (g : Group) : Group := { g with splits := g.splits.set e ((g.splits.get {} e).bind f id) }

theorem startWord_nextFlag (w : Word) (s : State) : (startWord w s).spl.nextFlag = s.spl.nextFlag := by rw [startWord_spl]; rfl

theorem startOp_startWord (w : Word) (s : State) (o : Op) :
    (startWord w s).startOp o = (startWord w (withOp s o)).modG (bindIn s.focus.ent s.spl.nextFlag s.nextId) := by
  simp only [State.startOp, startWord_nextFlag]
  rfl

/-- A word that starts an operation: the group and the table of operations change, and a cycle passes. -/
theorem op_word (w : Word) (s : State) (o : Op) (live : Running s) :
    endWord true ((startWord w s).startOp o) =
      ((withOp s o).modG (wordGroup w (withOp s o) true (bindIn s.focus.ent s.spl.nextFlag s.nextId))).tickCore s.focus.blk := by
  rw [startOp_startWord]; exact group_word w (withOp s o) true _ live

theorem bind_eq (x : Split) (f id : Nat) : x.bind f id = { x with holds := x.holds ++ if f < 12 then [(f, id)] else [] } := by
  simp only [Split.bind]; split
  · rfl
  · simp

theorem op_word_group (i : Instr) (s : State) (o : Op) :
    wordGroup (encode i) (withOp s o) true (bindIn s.focus.ent s.spl.nextFlag s.nextId) s.grp =
      { s.grp with splits := s.grp.splits.set s.focus.ent (bound i s s.nextId), lastIssue := s.clock, overdue := false,
                    yielded := (bound i s s.nextId).gaveWay } := by
  have h1 : (withOp s o).focus = s.focus := rfl
  have h2 : (withOp s o).clock = s.clock := rfl
  have h3 : Tab.get {} s.grp.splits s.focus.ent = s.spl := rfl
  have h4 : (withOp s o).spl = s.spl := rfl
  simp only [wordGroup, wordGroupWith, wordFrame, h4, bindIn, h1, h2, Tab.get_set_same, Tab.set_set, bind_eq, if_true, h3, bound, advance]

/-- The issue of a long-latency word that starts the operation o. -/
theorem pending_word {i : Instr} {s : State} {o : Op} (live : Running s) {t : State}
    (ht : t = endWord true ((startWord (encode i) s).startOp o)) :
    Pending i s t s.nextId ∧ t.opOf s.nextId = started s o := by
  rw [op_word _ _ _ live] at ht
  have hg := op_word_group i s o
  generalize wordGroup (encode i) (withOp s o) true (bindIn s.focus.ent s.spl.nextFlag s.nextId) = f at hg ht
  have hf := group_frame (withOp s o) f live (by
    intro e he
    show (f s.grp).splits.get _ _ = _
    rw [hg]
    exact Tab.get_set_ne _ _ _ (Ne.symm he))
  have ht' : t = ((withOp s o).modG f).tickCore (withOp s o).focus.blk := ht
  rw [← ht'] at hf
  have hops : t.ops = s.ops.set s.nextId (started s o) := by rw [ht]; rfl
  have hop : t.opOf s.nextId = started s o := by rw [State.opOf, hops]; exact Tab.get_set_same _ _ _ _
  have hgrp : t.grp = f s.grp := by rw [ht']; exact grp_tick (withOp s o) f
  have hspl : t.spl = (f s.grp).splits.get {} s.focus.ent := by rw [ht']; exact spl_tick (withOp s o) f
  refine ⟨{ focus := hf.focus, clock := hf.clock, cores := hf.cores, budgets := hf.budgets, busy := hf.busy, blocks := hf.blocks,
            groups := hf.groups, splits := hf.splits, spl := ?_, grp := ?_, blk := hf.blk, rest := ?_, tlbs := hf.tlbs,
            ops := ?_ }, hop⟩
  · rw [hspl, hg]; exact Tab.get_set_same _ _ _ _
  · rw [hgrp, hspl, hg]; simp only [Tab.get_set_same]
  · rw [ht]; rfl
  · rw [hops, hop]

theorem has_set {α : Type} (m : Tab α) (k : Nat) (v : α) : Tab.has (m.set k v) k = true := by
  have h : ∀ l : List (Nat × α), Tab.has (insertKey k v l) k = true := by
    intro l
    induction l with
    | nil => simp [insertKey, Tab.has]
    | cons e t ih =>
      obtain ⟨a, x⟩ := e
      simp only [insertKey]; split
      · simp [Tab.has]
      · simp only [Tab.has, List.any_cons] at ih ⊢; simp [ih]
  exact h _

/-- A split of a table whose records are changed where they stand. -/
theorem get_takeResults (g : Group) (id : Nat) (o : Op) (e : Nat) (h : Tab.has g.splits e = true) :
    (g.takeResults id o).splits.get {} e =
      (if e == o.ent || (g.splits.get {} e).holdsOp id then o.sres.foldl (fun x r => x.setS r.1 r.2) (g.splits.get {} e)
        else g.splits.get {} e).release id := by
  rcases Tab_get_map {} (fun e : Nat × Split => (e.1, ((if e.1 == o.ent || e.2.holdsOp id then
      o.sres.foldl (fun (x : Split) (r : Nat × Word) => x.setS r.1 r.2) e.2 else e.2).release id))) (fun _ => rfl) g.splits e
    with ⟨_, h'⟩ | ⟨hf, _, _⟩
  · exact h'
  · rw [h] at hf; exact absurd hf (by simp)

theorem holdsOp_release (x : Split) (id : Nat) : (x.release id).holdsOp id = false := by
  simp [Split.release, Split.holdsOp]

theorem getS_release (x : Split) (id q : Nat) : (x.release id).getS q = x.getS q := rfl

/-- An operation of the issuing group completes without a failure. -/
theorem completed_op {t : State} {id : Nat} (h : t.ops.has id = true) (hf : (t.opOf id).fail = none)
    (hb : (t.opOf id).blk = t.focus.blk) (hg : (t.opOf id).grp = t.focus.grp) (he : (t.opOf id).ent = t.focus.ent)
    (hs : Tab.has t.grp.splits t.focus.ent = true) :
    Completed t (t.finishOp id) id ∧ (t.finishOp id).grp.v = (t.grp.takeResults id (t.opOf id)).v ∧
      (t.finishOp id).grp.p = t.grp.p ∧
      (t.finishOp id).spl = ((t.opOf id).sres.foldl (fun x r => x.setS r.1 r.2) t.spl).release id := by
  have e : t.finishOp id = ({ t with ops := t.ops.del id } : State).modG fun g => g.takeResults id (t.opOf id) := by
    simp only [State.finishOp, h, if_true]
    have h1 : ({ t with ops := t.ops.del id } : State).opOf id = ({ t with ops := t.ops.del id } : State).opOf id := rfl
    simp only [hf, hb, hg]
    rfl
  have hspl : (t.finishOp id).spl = ((t.opOf id).sres.foldl (fun x r => x.setS r.1 r.2) t.spl).release id := by
    rw [e, State.spl_modG]
    have h1 : ({ t with ops := t.ops.del id } : State).grp = t.grp := rfl
    have h2 : ({ t with ops := t.ops.del id } : State).focus = t.focus := rfl
    rw [h1, h2, get_takeResults _ _ _ _ hs, he]
    simp only [beq_self_eq_true, Bool.true_or, if_true]
    rfl
  have hgrp : (t.finishOp id).grp = t.grp.takeResults id (t.opOf id) := by
    rw [e, State.grp_modG]; rfl
  refine ⟨{ rest := ?_, blocks := ?_, groups := ?_, blk := ?_, grp := ?_, free := ?_ }, ?_, ?_, hspl⟩
  · rw [e]; rfl
  · intro b hb
    rw [e, blkOf_modG]
    exact if_neg (fun h => hb h.symm)
  · intro g hg
    rw [e, grpOf_modG]
    exact if_neg (fun h => hg h.2.symm)
  · rw [e, State.blk_modG]; rfl
  · rw [hgrp]; rfl
  · rw [hspl, holdsOp_release]
  · rw [hgrp]
  · rw [hgrp]; rfl

/-- A long-latency word that issues as an operation without a failure, and the event that completes it. -/
theorem long_result {i : Instr} {s : State} {o : Op} {e : Nat → Instr} (live : Running s)
    (he : exec i s = .next (endWord true ((startWord (encode i) s).startOp o))) (hf : o.fail = none)
    (hd : ∀ t : State, (t.opOf s.nextId) = started s o → t.ops.has s.nextId = true → (t.blkOf s.focus.blk).live = true →
      exec (e s.nextId) t = .next (t.finishOp s.nextId)) :
    ∃ t u, exec i s = .next t ∧ Pending i s t s.nextId ∧ exec (e s.nextId) t = .next u ∧ Completed t u s.nextId ∧
      u.spl = (o.sres.foldl (fun x r => x.setS r.1 r.2) (bound i s s.nextId)).release s.nextId ∧
      u.grp.v = o.vres.foldl (fun (m : Cells 32) (r : Nat × Nat × Word) => m.set (vKey r.1 r.2.1) r.2.2) s.grp.v ∧
      u.grp.p = s.grp.p := by
  obtain ⟨hp, ho⟩ := pending_word (i := i) (s := s) (o := o) live rfl
  generalize ht : endWord true ((startWord (encode i) s).startOp o) = t at hp ho he
  have hhas : t.ops.has s.nextId = true := by rw [hp.ops]; exact has_set _ _ _
  have hlive : (t.blkOf s.focus.blk).live = true := by
    have h1 : t.blkOf s.focus.blk = t.blk := by rw [State.blk, hp.focus]
    rw [h1, hp.blk]; exact live
  have hsp : Tab.has t.grp.splits t.focus.ent = true := by
    rw [← ht, op_word _ _ _ live]
    have h1 := grp_tick (withOp s o) (wordGroup (encode i) (withOp s o) true (bindIn s.focus.ent s.spl.nextFlag s.nextId))
    have h2 := op_word_group i s o
    rw [show (withOp s o).focus.blk = s.focus.blk from rfl, show (withOp s o).grp = s.grp from rfl, h2] at h1
    rw [h1]; exact has_set _ _ _
  obtain ⟨hc, hv, hpr, hs⟩ := completed_op (t := t) (id := s.nextId) hhas (by rw [ho]; exact hf) (by rw [ho, hp.focus]; rfl)
    (by rw [ho, hp.focus]; rfl) (by rw [ho, hp.focus]; rfl) hsp
  refine ⟨t, t.finishOp s.nextId, he, hp, hd t ho hhas hlive, hc, ?_, ?_, ?_⟩
  · rw [hs, ho, hp.spl]; rfl
  · rw [hv, ho, hp.grp]; rfl
  · rw [hpr, hp.grp]

/-- The vector registers after a list of lane results. -/
theorem get_results (c : Cells 32) (rs : List (Nat × Nat × Word)) (h : ∀ x ∈ rs, x.2.1 < 96) (r l : Nat) (hl : l < 96) :
    Cells.get (rs.foldl (fun (m : Cells 32) (x : Nat × Nat × Word) => m.set (vKey x.1 x.2.1) x.2.2) c) (vKey r l) =
      match (rs.reverse.find? fun x => x.1 == r && x.2.1 == l) with
      | some x => x.2.2
      | none => Cells.get c (vKey r l) := by
  induction rs generalizing c with
  | nil => rfl
  | cons a t ih =>
    rw [List.foldl_cons, ih _ (fun x hx => h x (by simp [hx])), List.reverse_cons, List.find?_append]
    cases hf : t.reverse.find? fun x => x.1 == r && x.2.1 == l with
    | some x => simp
    | none =>
      simp only [Option.none_or, List.find?_singleton, Cells.get_set, vKey_inj (h a (by simp)) hl]
      by_cases ha : a.1 = r ∧ a.2.1 = l
      · simp [ha.1, ha.2]
      · rw [if_neg ha]
        have : (a.1 == r && a.2.1 == l) = false := by
          rw [Bool.and_eq_false_iff]; simp only [beq_eq_false_iff_ne]
          by_cases h1 : a.1 = r
          · exact .inr fun h2 => ha ⟨h1, h2⟩
          · exact .inl h1
        simp [this]

end Sys2Proof.Machine
end

