-- ==== Sys2Proof/Tests/Slice0.lean ====
section
/-! SUPPORT. Small tests: words decoded, single steps, ill-formed terms that the check refuses, and for each statement with hypotheses a
state that meets them. -/

namespace Sys2Proof.Tests
open Sys2Proof Sys2Proof.Machine
set_option Elab.async false

/-! ### States of the tests -/

/-- The first GiB of virtual addresses is the first GiB of local memory. -/
def tTlb : Tlb := { fn := 0, ctx := 0, page := 0, size := 2 ^ 30, pa := 0, writable := true, dirty := true, capable := false, pinned := false, domain := 0 }

/-- A split in mid-clause, in lane 0: s4 = 20, s5 = 7. -/
def tSplit (mode : Word) : Split :=
  { status := .ready, pc := 4, left := 2, live := 1, exec := 1, execCopy := 1, mode := mode, sig := 0xFFFFFFFF, s := [(4, 20), (5, 7)] }

/-- A group of one lane with that split. -/
def tGroup (mode : Word) : Group := { lanes := 1, splits := [(0, tSplit mode)] }

/-- A running block with that group, in a grid with 4 KiB of scratch; mode gives MODE. -/
def tState (mode : Word) : State :=
  { blocks := [(0, { life := .running, groups := [(0, tGroup mode)] })]
    grids := [(0, { code := 0x10000, codeBytes := 64, scratchBytes := 4096, dimX := 1, dimY := 1, dimZ := 1, blocksLeft := 1 })]
    cores := [(0, { credit := 8, tlb := [tTlb] })] }

/-- The same with another group. -/
def tWith (g : Group) : State :=
  { tState 0 with blocks := [(0, { life := .running, groups := [(0, g)] })] }

/-- The same with another split. -/
def tWithS (x : Split) : State := tWith { tGroup 0 with splits := [(0, x)] }

/-- The same, running the matrix stream m. -/
def tStream (m : Stream) : State :=
  { tState 0 with blocks := [(0, { life := .running, hasMs := true, ms := m, groups := [(0, tGroup 0)] })], focus := { stream := true } }

/-- What a word leaves in a register, or 0 where it does not complete. -/
def afterS (i : Instr) (s : State) (r : Nat) : Word := match exec i s with | .next t => t.getS r | _ => 0
def afterV (i : Instr) (s : State) (r l : Nat) : Word := match exec i s with | .next t => t.getV r l | _ => 0
def afterP (i : Instr) (s : State) (r l : Nat) : Bool := match exec i s with | .next t => t.grp.getPr r l | _ => false
/-- A property of the next state. -/
def next (i : Instr) (s : State) (p : State → Bool) : Bool := match exec i s with | .next t => p t | _ => false
/-- A property of the state after a long-latency word and the event e of its operation, whose number is 1. -/
def after2 (i e : Instr) (s : State) (p : State → Bool) : Bool := next i s fun t => next e t p

theorem lane_zero {m : LaneMask} (h : m = 1) {l : Nat} (hl : m.getLsbD l = true) : l = 0 := by
  subst h
  by_cases h0 : l = 0
  · exact h0
  · have : (1#96).getLsbD l = true := hl
    rw [BitVec.getLsbD_one] at this; simp [h0] at this

/-! ### Decoding: words written out from the encodings of the spec -/

/-- R127, FS: primary 0x03, sub 0, d 4 at 20:14, a 5 at 13:7, b 6 at 6:0. -/
theorem test_decode_sadd : decodeTableWord 32 0b00000011_000_0000100_0000101_0000110 = some (.sadd 4 5 6) := by decide +kernel
/-- R127: SADD with an immediate, primary 0x1C. -/
theorem test_decode_sadd_imm : decodeTableWord 32 0b00011100_0_0000100_0000000001100100 = some (.saddImm 4 100) := by decide +kernel
/-- R127: BRX, primary 0x26, offset 5. -/
theorem test_decode_brx : decodeTableWord 32 0b00100110_000000000000000000000101 = some (.brx 5) := by decide +kernel
/-- R129: VFADD, primary 0x80, FV. -/
theorem test_decode_vfadd : decodeTableWord 32 0b10000000_00000001_00000010_00000011 = some (.vfadd 1 2 3) := by decide +kernel
/-- R130: VCVT from f32, code 8, primary 0x98. -/
theorem test_decode_vcvt : decodeTableWord 32 0b10011000_00000001_00000010_0000_1000 = some (.vcvt 1 2 .f32) := by decide +kernel
/-- R131: VREDI of maxima, code 2, primary 0xAB. -/
theorem test_decode_vredi : decodeTableWord 32 0b10101011_00000001_00000010_00000_010 = some (.vredi 1 2 .max) := by decide +kernel
/-- R132: LDS of 64 bits, FSM, primary 0xB6. -/
theorem test_decode_lds : decodeTableWord 32 0b10110110_00000010_00000100_000011_01 = some (.lds 2 4 3 .b64) := by decide +kernel
/-- R132: ATOM, FA: op 9, scr 0, wide 0, scope 2. -/
theorem test_decode_atom : decodeTableWord 32 0b10111011_00000010_00000100_1001_0_0_10 = some (.atom 2 4 .cas false false .mod) := by decide +kernel
/-- R133: BARI on a numbered barrier, space 2, primary 0xC3. -/
theorem test_decode_bari : decodeTableWord 32 0b11000011_0_10_0000000_0000011_0000100 = some (.bari .num 3 4) := by decide +kernel
/-- R134: SCPO, queue 1, pattern 2, primary 0xC9, sub 1. -/
theorem test_decode_scpo : decodeTableWord 32 0b11001001_001_00_01_010_0000011_0000100 = some (.scpo 1 2 3 4) := by decide +kernel
/-- R135: MSLOOP, counter 5, offset 6, primary 0xDB. -/
theorem test_decode_msloop : decodeTableWord 32 0b11011011_101_000000000000000000110 = some (.msloop 5 6) := by decide +kernel
/-- R135: MMA, a5, t6, an extension record d7, primary 0xD1. -/
theorem test_decode_mma : decodeTableWord 32 0b11010001_00000_101_0_0110_1_0111_001000 = some (.mma 5 6 true 7 8) := by decide +kernel
/-- R136: LOP of xor, primary 0xE2. -/
theorem test_decode_lop : decodeTableWord 32 0b11100010_101_0000001_0000010_0000011 = some (.lop .xor 1 2 3) := by decide +kernel
/-- R137: KVX for writing, sub 1, primary 0xE8. -/
theorem test_decode_kvx : decodeTableWord 32 0b11101000_00000010_00000100_00000001 = some (.kvxWr 2 4) := by decide +kernel
/-- R116: a header word that waits for f0, flags 1 and 15, four words, merge and seed. -/
theorem test_decode_header :
    decodeTableWord 32 0b1111_000000000001_0001_1111_0100_1_0_1_0 = some (.clauseHeader 1 1 15 4 true false true) := by decide +kernel
/-- R174: SYSR, FI. -/
theorem test_decode_sysr : decodeTableWord 32 0b00110110_0_0000100_0000000000000001 = some (.sysr 4 1) := by decide +kernel
/-- R129: VLUT3, FV with the table in the low byte. -/
theorem test_decode_vlut3 : decodeTableWord 32 0b01011000_00000010_00000100_10010110 = some (.vlut3 2 4 0x96) := by decide +kernel
/-- R188: PAND with its inversions. -/
theorem test_decode_pand : decodeTableWord 32 0b01101000_0000011_0000001_0000010_110 = some (.pand 3 1 2 6) := by decide +kernel
/-- R193: VEXP2 is one of the forms of primary 0x91. -/
theorem test_decode_vexp2 : decodeTableWord 32 0x91030105 = some (.vexp2 3 1) := by decide +kernel
/-- R131: VSHFL. -/
theorem test_decode_vshfl : decodeTableWord 32 0b10100100_00000011_00000001_00000100 = some (.vshfl 3 1 4) := by decide +kernel
/-- R131: VBALLOT. -/
theorem test_decode_vballot : decodeTableWord 32 0xA9028180 = some (.vballot 10 3) := by decide +kernel
/-- R133: BARQ on a word in memory. -/
theorem test_decode_barq : decodeTableWord 32 0xC7060500 = some (.barq .word 24 10) := by decide +kernel
/-- Why a word is refused. -/
def refusal (w : Word) : Option DecErr := match decode w with | .error e => some e | .ok _ => none
/-- R138: an unassigned primary, an unassigned sub and a reserved bit are refused, each by its name. -/
theorem test_decode_refuses : refusal 0x2F000000 = some .badPrimary ∧ refusal 0x03E10286 = some .badSub ∧
    refusal 0x00010281 = some .reserved := by decide +kernel

/-! ### Ill-formed terms: one for each limit of steps 3 and 8 of R138 -/

theorem test_ill_formed_control : [Instr.clauseHeader 0 0 0 0 false false true, .clauseHeader 0 12 0 1 false false true,
    .clauseHeader 0 0 14 1 false false true, .clauseHeader 0 0 0 1 true false false, .mode 0 false 14 0 false false false false false false,
    .mode 0 false 0 6 false false false false false false, .sysr 4 0x17, .sysw 4 0x05, .qsub 0 1].map Instr.wf =
    [false, false, false, false, false, false, true, true, false] := by decide +kernel
theorem test_ill_formed_scalar : ([Instr.sadd64 1 2 4, .ssub64 2 1 4, .scmp64 .eq 1 2 3, .sld .b32 1 1 0, .sld .b64 1 2 0, .sst .b8 0 1 0,
    .sst .b64 1 2 0, .slda 1 2, .ptos 126 1, .pfroms 1 126, .vballot 126 1].all fun i => !i.wf) = true := by decide +kernel
theorem test_ill_formed_vector : ([Instr.vlut3 1 255 0, .vaddc 255 1 2, .vdivm 255 1 2, .vmatch 254 1 true, .vexpand 1 2 .s4, .ldG64 1 2 0 0,
    .stG64 1 2 0 0, .ldG128 2 2 0 0, .stG128 2 2 0 0, .lds 1 2 0 .b64, .sts 2 2 0 .b128, .ldc 1 2 0 .b64].all fun i => !i.wf) = true := by
  decide +kernel
theorem test_ill_formed_atomics : ([Instr.atom 2 1 .add false false .blk, .atom 1 2 .add false true .blk, .atom 0 2 .add true false .mod,
    .atom 255 2 .cas false false .blk, .atom 2 2 .cas false true .blk, .red 2 2 .exch false false .blk, .red 2 2 .cas false false .blk,
    .scatadd 2 2 .and false false .blk].all fun i => !i.wf) = true := by decide +kernel
theorem test_ill_formed_sync : ([Instr.fence 5, .acq 0 2 false, .rel 2 2 true, .acq 1 1 false, .bind 127 2 2, .bind 0 1 2, .bind 0 2 1,
    .bari .word 1 2, .bara .num 0 16 0, .bart .num 0 2 2, .bart .scr 0 2 1, .barw .num 16 0, .barq .scr 125 0, .patld 0 1, .actld 1 0].all
    fun i => !i.wf) = true := by decide +kernel
theorem test_ill_formed_matrix_loft : ([Instr.mscfgGuard 1, .mscfgGuard 17, .mscfgRound 0 false 6, .lxin 0 127 0 0, .lop .add 0 127 0,
    .lop .not 0 0 1, .lops .add 0 0 1, .lops .not 0 0 1, .lcmp .gt 0 0 0, .lcmp .eq 0 127 0, .lcmps .eq 0 0 1, .lpop 0 127, .lsel 127 0 0,
    .lsrch 127 0 0, .lsrch 0 0 1, .lshift 0 127 0, .kvxRd 1 0, .kvxWr 0 255].all fun i => !i.wf) = true := by decide +kernel

/-! ### Single steps: results worked out by hand -/

theorem test_ssub : afterS (.ssub 6 5 4) (tState 0) 6 = 0xFFFFFFF3 := by decide +kernel
theorem test_smulh_signed : afterS (.smulh false 6 4 5) (tWithS { tSplit 0 with s := [(4, 0xFFFFFFFF), (5, 7)] }) 6 = 0xFFFFFFFF := by
  decide +kernel
theorem test_smulh_unsigned : afterS (.smulh true 6 4 5) (tWithS { tSplit 0 with s := [(4, 0xFFFFFFFF), (5, 7)] }) 6 = 6 := by
  decide +kernel
theorem test_sshl_width : afterS (.sshl 6 4 5) (tWithS { tSplit 0 with s := [(4, 3), (5, 32)] }) 6 = 0 := by decide +kernel
theorem test_ssra_width : afterS (.ssra 6 4 5) (tWithS { tSplit 0 with s := [(4, 0x80000000), (5, 40)] }) 6 = 0xFFFFFFFF := by
  decide +kernel
theorem test_sbfe_signed : afterS (.sbfe true 6 4 5) (tWithS { tSplit 0 with s := [(4, 0xF0), (5, 0x0404)] }) 6 = 0xFFFFFFFF := by
  decide +kernel
/-- A lower pair of all ones carries into the upper register. -/
theorem test_sadd64_carries : afterS (.sadd64 8 4 6) (tWithS { tSplit 0 with s := [(4, 0xFFFFFFFF), (6, 1)] }) 9 = 1 := by decide +kernel
/-- A write of s125 keeps to Live (R149). -/
theorem test_write_of_exec : next (.smovi 125 7) (tState 0) (fun t => t.spl.exec == 1 && t.spl.execCopy == 1) = true := by decide +kernel
/-- s16x2 (code 2): 0x7FFF + 1 wraps in its element, and saturates with MODE.Sat. -/
theorem test_vadd_wraps : afterV (.vadd 3 1 2) (tWith { tGroup 0x2000 with v := [(96, 0x00017FFF), (192, 0x00010001)] }) 3 0 = 0x00028000 := by
  decide +kernel
theorem test_vadd_saturates :
    afterV (.vadd 3 1 2) (tWith { tGroup 0x2100 with v := [(96, 0x00017FFF), (192, 0x00010001)] }) 3 0 = 0x00027FFF := by decide +kernel
/-- Lane 1 is outside Exec, and keeps its register. -/
theorem test_vmovi_keeps_lanes : afterV (.vmovi 3 5) (tWith { tGroup 0 with lanes := 4, v := [(289, 9)] }) 3 1 = 9 := by decide +kernel
/-- f32 (code 8): 1 + 2 = 3. -/
theorem test_vfadd : afterV (.vfadd 3 1 2) (tWith { tGroup 0x8000 with v := [(96, 0x3F800000), (192, 0x40000000)] }) 3 0 = 0x40400000 := by
  decide +kernel
/-- Inf − Inf is the NaN of R40. -/
theorem test_vfadd_nan : afterV (.vfadd 3 1 2) (tWith { tGroup 0x8000 with v := [(96, 0x7F800000), (192, 0xFF800000)] }) 3 0 = 0x7FC00000 := by
  decide +kernel
theorem test_vfcmp_nan : afterP (.vfcmpNe 3 1 2) (tWith { tGroup 0x8000 with v := [(96, 0x7FC00000)] }) 3 0 = true := by decide +kernel
theorem test_p0_stays : afterP (.pset 0 false) (tState 0) 0 0 = true := by decide +kernel
/-- s32: −7 / 2 is −3, and its remainder −1 (R185). -/
theorem test_vdiv : after2 (.vdiv 3 1 2) (.dividerComplete 1) (tWith { tGroup 0x4000 with v := [(96, 0xFFFFFFF9), (192, 2)] })
    (fun t => t.getV 3 0 == 0xFFFFFFFD) = true := by decide +kernel
theorem test_vrem : after2 (.vrem 3 1 2) (.dividerComplete 1) (tWith { tGroup 0x4000 with v := [(96, 0xFFFFFFF9), (192, 2)] })
    (fun t => t.getV 3 0 == 0xFFFFFFFF) = true := by decide +kernel
/-- LD of the word at s4's pair, 20: little-endian (R6). -/
theorem test_ld : after2 (.ldG32 3 1 2 0) (.loadComplete 1) { tWithS { tSplit 0 with s := [(4, 20)] } with mem := [(20, 1), (21, 2), (23, 0x80)] }
    (fun t => t.getV 3 0 == 0x80000201) = true := by
  decide +kernel
/-- ST waits in the store buffer, and its bytes reach memory when it is performed. -/
theorem test_st : next (.stG32 3 1 2 0) { tState 0 with blocks := [(0, { life := .running, groups := [(0, { tGroup 0 with
      splits := [(0, { tSplit 0 with s := [(4, 20)] })], v := [(288, 0x01020304)] })] })] }
    (fun t => t.byteAt 20 == 0 && next (.storeAck 0 0) t (fun u => u.byteAt 20 == 4 && u.byteAt 23 == 1)) = true := by decide +kernel
theorem test_elect : afterS (.elect 6 1) (tWith { tGroup 0 with lanes := 8, splits := [(0, { tSplit 0 with live := 12, exec := 12 })] }) 6 = 2 := by
  decide +kernel
/-- SYSR of the entry number, MODE and the group (R123). -/
theorem test_sysr_mode : afterS (.sysr 6 0) (tState 0x4000) 6 = 0x4000 := by decide +kernel
/-- A trap with a handler: TRAPCODE 0x18, the entry, and the return behind the trap (R171, R173). -/
theorem test_trap : next (.trap 5) { tState 0 with grids := [(0, { (tState 0).gridOf 0 with trapEntry := some 0x20 })] }
    (fun t => t.spl.pc == 0x20 && t.spl.trapCode == 0x18 && t.spl.trapInfo == 5 && next .rteCont t (fun u => u.spl.pc == 8)) = true := by
  decide +kernel
/-- Without a handler the block fails (R415). -/
theorem test_trap_fails : next (.trap 5) (tState 0) (fun t => t.blk.life == .failed) = true := by decide +kernel

/-! ### States that meet the premises of the statements -/

theorem witness_ElectChoosesALane : Running (tState 0) ∧ (tState 0).spl.exec &&& ~~~(tState 0).grp.dead ≠ 0 := by decide +kernel
theorem witness_ElectChoosesALane_none :
    let s := tWithS { tSplit 0 with exec := 0 }
    Running s ∧ s.spl.exec &&& ~~~s.grp.dead = 0 := by decide +kernel
theorem witness_TrapRaises :
    let s : State := { tState 0 with grids := [(0, { trapEntry := some 0x20 })] }
    Running s ∧ s.spl.frame = none ∧ s.grid.trapEntry = some 0x20 ∧ s.spl.left ≠ 0 := by decide +kernel
theorem witness_TrapRaises_return :
    let f : Frame := { pc := 4, hdr := 0, ll := 0, left := 2, flagA := 15, flagB := 15, yieldBit := false, ofStream := false, atH := false,
                       word := 0, mode := 0, sig := 0 }
    let s := tWithS { tSplit 0 with frame := some f }
    Running s ∧ s.spl.frame = some f := by decide +kernel
theorem witness_AcczClears :
    Running (tStream {}) ∧ Unarmed (tStream {}) ∧ (tStream {}).ms.oddWide 0 = false ∧ (tStream { wide := [0] }).ms.oddWide 0 = false := by
  decide +kernel
theorem witness_ScalarAlu : Running (tState 0) := by decide +kernel
theorem witness_ScalarRegisters : Running (tState 0) ∧ Instr.wf (.slda 4 65532) = true := by decide +kernel
theorem witness_VectorIntegers : ∀ t ∈ [0, 1, 2, 3, 4, 5, 10, 11],
    let s := tState (BitVec.ofNat 32 (t * 2 ^ 12))
    Running s ∧ vecOk intTypes [2, 4, 254] s = true ∧ (t ≤ 5 ∨ t = 10 ∨ t = 11) := by decide +kernel
theorem witness_VectorBits : ∀ t ∈ [0, 4, 5, 9, 10, 11, 13],
    let s := tState (BitVec.ofNat 32 (t * 2 ^ 12))
    Running s ∧ vecOk anyTypes [2, 4, 254] s = true ∧ isPair t = decide (t = 9 ∨ t = 10 ∨ t = 11) := by decide +kernel
theorem witness_VectorBits_fields :
    vecOk [4, 5, 10, 11] [2, 4, 6] (tState 0xB000) = true ∧ vecOk [4, 5] [2, 4, 6] (tState 0x5000) = true ∧
    vecOk [0, 1, 2, 3, 4, 5] [2, 4, 6] (tState 0x3000) = true ∧ vecOk [0, 1] [2, 4, 6] (tState 0x1000) = true := by decide +kernel
theorem witness_ComparesAndPredicates : ∀ t ∈ [4, 5, 10, 11],
    let s := tState (BitVec.ofNat 32 (t * 2 ^ 12))
    Running s ∧ vecOk [4, 5, 10, 11] [2, 4] s = true := by decide +kernel
theorem witness_VectorFloats : ∀ t ∈ [6, 7, 8, 9],
    let s := tState (BitVec.ofNat 32 (t * 2 ^ 12))
    Running s ∧ vecOk floatTypes [2, 4, 6] s = true ∧ s.spl.round ≠ 5 ∧ s.spl.trapInv = false ∧ s.spl.trapDiv = false ∧ (s.actTab 0).st ≠ 1 ∧
      (t = 8 ∨ t = 9 → vecOk [8, 9] [2, 4] s = true) := by decide +kernel
theorem witness_VectorConversions :
    Running (tState 0x8000) ∧ (tState 0x8000).spl.trapInv = false ∧ (tState 0x8000).within 3 1 = true ∧
    (tyOf 8).n = 1 ∧ (tyOf ElemType.s32.code).n = 1 ∧ vecOk [6, 7, 8] [3, 4] (tState 0x8000) = true ∧
    vecOk [2, 3, 6, 7] [3, 4, 5] (tState 0x6000) = true ∧ vecOk [0, 1, 12, 13] [3, 4, 5] (tState 0xD000) = true ∧
    vecOk [2, 3, 6, 7] [3, 4] (tState 0x7000) = true ∧ vecOk [0, 1, 12, 13] [3, 4] (tState 0xC000) = true := by decide +kernel
theorem witness_CrossLane : ∀ t ∈ [0, 5, 8, 11],
    let s := tState (BitVec.ofNat 32 (t * 2 ^ 12))
    Running s ∧ vecOk anyTypes [2, 4, 6] s = true ∧ (t ∈ floatTypes → s.spl.round ≠ 5 ∧ s.spl.trapInv = false) := by decide +kernel
/-- Two lanes, with equal values in v4 and with different ones. -/
def tTwo (a b : Word) : State :=
  tWith { tGroup 0x4000 with lanes := 2, v := [(384, a), (385, b)], p := [(1, 1)],
                             splits := [(0, { tSplit 0x4000 with live := 3, exec := 3, execCopy := 3 })] }
theorem witness_CrossLane_match : (tTwo 5 5).grp.getVal 4 4 0 = (tTwo 5 5).grp.getVal 4 4 1 ∧ (tTwo 5 6).execLanes.getLsbD 0 = true ∧
    (tTwo 5 6).execLanes.getLsbD 1 = true ∧ (tTwo 5 6).grp.getVal 4 4 0 ≠ (tTwo 5 6).grp.getVal 4 4 1 := by decide +kernel
theorem witness_CrossLane_votes : (tTwo 0 0).execLanes.getLsbD 0 = true ∧ (tTwo 0 0).grp.getPr 1 0 = true ∧
    (tTwo 0 0).execLanes.getLsbD 1 = true ∧ (tTwo 0 0).grp.getPr 1 1 = false := by decide +kernel
theorem witness_CrossLane_votes_all (l : Nat) (h : (tState 0).execLanes.getLsbD l = true) :
    (tState 0).grp.getPr 0 l = true ∧ (tState 0).grp.getPr 1 l = false := by
  have := lane_zero (m := (tState 0).execLanes) (by decide +kernel) h
  subst this; decide +kernel
theorem witness_CrossLane_reductions :
    vecOk [4, 5, 10, 11] [2, 4] (tState 0xB000) = true ∧ vecOk floatTypes [2, 4] (tState 0x8000) = true ∧ (tState 0x8000).spl.round ≠ 5 ∧
    (tState 0x8000).spl.trapInv = false ∧ vecOk [4, 5, 6, 7, 8, 9, 10, 11] [2, 4] (tState 0x9000) = true ∧
    vecOk [4, 5, 6, 7, 8, 9, 10, 11] [2, 4] (tState 0x4A00) = true ∧ (tState 0x4A00).spl.type ∉ floatTypes ∧ (tState 0x4A00).spl.round = 5 := by
  decide +kernel
theorem witness_DividerForms : ∀ t ∈ [4, 8, 9, 10],
    let s := tState (BitVec.ofNat 32 (t * 2 ^ 12))
    Running s ∧ FlagFree s ∧ s.spl.trapDiv = false ∧ s.spl.trapInv = false ∧ s.spl.round ≠ 5 ∧ s.within 2 4 = true ∧
      (vecOk intTypes [2, 4, 6] s || vecOk floatTypes [2, 4, 6] s) = true := by decide +kernel

/-! ### Accesses that reach memory -/

/-- Hits, HitsIn, DevHits and WalkHits as tests that can be evaluated. -/
def hitsB (s : State) (acc : AccType) (n va pa : Nat) : Bool :=
  match s.tlbHit s.blk.die (some s.blk.core) s.fn s.ctx va acc with
  | some t => (!acc.writes || t.writable) &&
      decide (s.reachPa s.fn (t.pa + va % t.size) n (decide (acc ≠ .write ∧ acc ≠ .engWrite)) = .ok pa)
  | none => false
def hitsInB (s : State) (b : Nat) (acc : AccType) (n va pa : Nat) : Bool :=
  let x := s.blkOf b
  let g := s.gridOf x.grid
  match s.tlbHit x.die (some x.core) g.fn g.ctx va acc with
  | some t => (!acc.writes || t.writable) &&
      decide (s.reachPa g.fn (t.pa + va % t.size) n (decide (acc ≠ .write ∧ acc ≠ .engWrite)) = .ok pa)
  | none => false
def devHitsB (s : State) (die fn ctx : Nat) (acc : AccType) (n va pa : Nat) : Bool :=
  decide (n ≤ 4096 - va % 4096) && (!acc.writes || decide (pa % 128 + n ≤ 128)) &&
  match s.tlbHit die none fn ctx va acc with
  | some t => (!acc.writes || t.writable) &&
      (decide (s.reachPa fn (t.pa + va % t.size) n (!acc.writes) = .ok pa) && decide (s.rangeOf pa ≠ .host))
  | none => false
def walkHitsB (s : State) (acc : AccType) (n va pa : Nat) : Bool :=
  match s.tlbHit s.blk.die (some s.blk.core) s.fn (s.pan 0x19 1) va acc with
  | some t => (!acc.writes || t.writable) && decide (s.reachPa s.fn (t.pa + va % t.size) n (decide (acc ≠ .write)) = .ok pa)
  | none => false

theorem hits_of {s : State} {acc : AccType} {n va pa : Nat} (h : hitsB s acc n va pa = true) : Hits s acc n va pa := by
  unfold hitsB at h
  split at h
  · rename_i t ht
    simp only [Bool.and_eq_true, Bool.or_eq_true, Bool.not_eq_true', decide_eq_true_eq] at h
    exact ⟨t, ht, fun hw => h.1.resolve_left (by simp [hw]), h.2⟩
  · cases h

theorem hitsIn_of {s : State} {b : Nat} {acc : AccType} {n va pa : Nat} (h : hitsInB s b acc n va pa = true) : HitsIn s b acc n va pa := by
  unfold hitsInB at h
  simp only at h
  split at h
  · rename_i t ht
    simp only [Bool.and_eq_true, Bool.or_eq_true, Bool.not_eq_true', decide_eq_true_eq] at h
    exact ⟨t, ht, fun hw => h.1.resolve_left (by simp [hw]), h.2⟩
  · cases h

theorem devHits_of {s : State} {die fn ctx : Nat} {acc : AccType} {n va pa : Nat} (h : devHitsB s die fn ctx acc n va pa = true) :
    DevHits s die fn ctx acc n va pa := by
  unfold devHitsB at h
  simp only [Bool.and_eq_true, Bool.or_eq_true, decide_eq_true_eq, Bool.not_eq_true'] at h
  refine ⟨h.1.1, fun hw => h.1.2.resolve_left (by simp [hw]), ?_⟩
  have h2 := h.2
  split at h2
  · rename_i t ht
    simp only [Bool.and_eq_true, Bool.or_eq_true, Bool.not_eq_true', decide_eq_true_eq] at h2
    exact ⟨t, ht, fun hw => h2.1.resolve_left (by simp [hw]), h2.2.1, h2.2.2⟩
  · cases h2

theorem walkHits_of {s : State} {acc : AccType} {n va pa : Nat} (h : walkHitsB s acc n va pa = true) : WalkHits s acc n va pa := by
  unfold walkHitsB at h
  split at h
  · rename_i t ht
    simp only [Bool.and_eq_true, Bool.or_eq_true, Bool.not_eq_true', decide_eq_true_eq] at h
    exact ⟨t, ht, fun hw => h.1.resolve_left (by simp [hw]), h.2⟩
  · cases h

/-- One lane, with v1 = 32, and s4 = s5 = 0. -/
def tMem : State := tWith { tGroup 0 with splits := [(0, { tSplit 0 with s := [] })], v := [(96, 32)] }

theorem witness_Loads : Running tMem ∧ FlagFree tMem ∧ tMem.acqBusy = false ∧ ∀ n ∈ [4, 8, 16], ∀ l, tMem.execLanes.getLsbD l = true →
    tMem.addrFM 1 2 l % n = 0 ∧ Hits tMem .read n (tMem.addrFM 1 2 l) 32 ∧ tMem.sbHit 0 0 l false 32 n = false ∧
    tMem.atomAhead l 32 n = false ∧ tMem.rangeOf 32 ≠ .host := by
  refine ⟨by decide +kernel, by decide +kernel, by decide +kernel, fun n hn l h => ?_⟩
  obtain rfl := lane_zero (by decide +kernel) h
  simp only [List.mem_cons, List.not_mem_nil, or_false] at hn
  obtain rfl | rfl | rfl := hn <;>
    exact ⟨by decide +kernel, hits_of (by decide +kernel), by decide +kernel, by decide +kernel, by decide +kernel⟩

/-- The last words of scratch. -/
theorem witness_Loads_scratch : let s := tWith { tGroup 0 with splits := [(0, { tSplit 0 with s := [] })], v := [(96, 4080)] }
    Running s ∧ FlagFree s ∧ s.acqBusy = false ∧ s.blk.ms.old = [] ∧ ∀ l, s.execLanes.getLsbD l = true →
      s.offFSM 1 4 l % 16 = 0 ∧ s.offFSM 1 4 l + 16 ≤ s.scrBytes s.focus.blk ∧ s.sbHit 0 0 l true (s.offFSM 1 4 l) 16 = false := by
  refine ⟨by decide +kernel, by decide +kernel, by decide +kernel, by decide +kernel, fun l h => ?_⟩
  obtain rfl := lane_zero (by decide +kernel) h
  decide +kernel

theorem witness_Loads_scalar : tMem.addrScalar 4 6 8 % 8 = 0 ∧ Hits tMem .read 8 (tMem.addrScalar 4 6 8) 48 ∧
    tMem.sbHit 0 0 96 false 48 8 = false ∧ tMem.atomAhead 96 48 8 = false ∧ tMem.rangeOf 48 ≠ .host :=
  ⟨by decide +kernel, hits_of (by decide +kernel), by decide +kernel⟩

theorem witness_BufferedStores : Running tMem ∧ FlagFree tMem ∧ tMem.acqBusy = false ∧ tMem.grp.sb.length < 32 ∧ fenceReady tMem = true ∧
    (∀ l, tMem.execLanes.getLsbD l = true → tMem.addrFM 1 2 l % 16 = 0 ∧ Hits tMem .write 16 (tMem.addrFM 1 2 l) 32) ∧
    (∀ l, tMem.execLanes.getLsbD l = true → tMem.offFSM 1 2 l % 16 = 0 ∧ tMem.offFSM 1 2 l + 16 ≤ tMem.scrBytes tMem.focus.blk) ∧
    tMem.addrScalar 4 6 8 % 8 = 0 ∧ Hits tMem .write 8 (tMem.addrScalar 4 6 8) 48 := by
  refine ⟨by decide +kernel, by decide +kernel, by decide +kernel, by decide +kernel, by decide +kernel, fun l h => ?_, fun l h => ?_,
    by decide +kernel, hits_of (by decide +kernel)⟩ <;> obtain rfl := lane_zero (by decide +kernel) h
  · exact ⟨by decide +kernel, hits_of (by decide +kernel)⟩
  · decide +kernel

theorem witness_BufferedStores_updates : (∀ l, tMem.execLanes.getLsbD l = true → tMem.addrFA 1 l false % 8 = 0 ∧
      Hits tMem .atomic 8 (tMem.addrFA 1 l false) 32 ∧ tMem.rangeOf 32 ≠ .host) ∧
    (∀ l, tMem.execLanes.getLsbD l = true → tMem.addrFA 1 l true % 8 = 0 ∧ tMem.addrFA 1 l true + 8 ≤ tMem.scrBytes tMem.focus.blk) := by
  refine ⟨fun l h => ?_, fun l h => ?_⟩ <;> obtain rfl := lane_zero (by decide +kernel) h
  · exact ⟨by decide +kernel, hits_of (by decide +kernel), by decide +kernel⟩
  · decide +kernel

/-- The group has written an MMIO window, so that a release at sys scope reads it. -/
theorem witness_BufferedStores_release :
    let s := tWith { tGroup 0 with mmioDirty := [3] }
    Running s ∧ FlagFree s ∧ s.acqBusy = false ∧ fenceReady s = true ∧ s.flushed.outbox ≠ [] ∧ tMem.grp.mmioDirty = [] := by decide +kernel

/-- An entry of two writes, in memory and in scratch, behind one that has been sent to another module. -/
theorem witness_BufferedStores_performed :
    let e : SbEntry := { id := 1, writes := [{ lane := 0, scr := false, at_ := 32, bytes := [1, 2, 3, 4], rmw := none },
                                             { lane := 0, scr := true, at_ := 4092, bytes := [5, 6, 7, 8], rmw := none }] }
    let f : SbEntry := { id := 2, writes := [{ lane := 0, scr := false, at_ := 2 ^ 52, bytes := [1], rmw := none, tok := some 9 }] }
    let s := tWith { tGroup 0 with sb := [f, e] }
    (s.blkOf 0).live = true ∧ (s.grpOf 0 0).sb = [f] ++ e :: [] ∧ e.writes ≠ [] ∧ e.fail = none ∧
      (∀ w ∈ e.writes, w.tok = none ∧ w.rmw = none ∧ (w.scr = true ∨ s.canWrite w.at_ = true)) ∧
      (∀ x ∈ [f], State.SbEntry.waits x = false) ∧ (∀ x ∈ [f] ++ [], x.id ≠ e.id ∧ x.writes ≠ []) ∧ s.mayFollow 0 0 e = true := by decide +kernel
theorem noDirtyLog (s : State) (h : s.fns = []) (fn : Nat) : NoDirtyLog s fn := fun die => by
  simp [State.fnBlock, State.fnOf, h, Tab.get]

/-- Bound words in scratch, the upper half of a 64-bit one among them (R393), and unbound ones. -/
theorem witness_Atomics : Running tMem ∧ FlagFree tMem ∧ tMem.acqBusy = false ∧ NoDirtyLog tMem tMem.fn ∧ tMem.grp.fenced = 0 ∧
    tMem.blk.ms.old = [] ∧ ∀ scr, ∀ l,
    tMem.execLanes.getLsbD l = true → tMem.addrFA 1 l scr % 8 = 0 ∧ tMem.isBound scr (tMem.addrFA 1 l scr) 8 = false ∧
      tMem.sbHit 0 0 l scr 32 8 = false ∧ 32 = tMem.addrFA 1 l scr ∧ 32 + 8 ≤ tMem.scrBytes 0 ∧ Hits tMem .atomic 8 (tMem.addrFA 1 l false) 32 ∧
      tMem.rangeOf 32 ≠ .host ∧ tMem.canWrite 32 = true := by
  refine ⟨by decide +kernel, by decide +kernel, by decide +kernel, noDirtyLog _ rfl _, by decide +kernel, by decide +kernel, fun scr l h => ?_⟩
  obtain rfl := lane_zero (by decide +kernel) h
  cases scr <;> exact ⟨by decide +kernel, by decide +kernel, by decide +kernel, by decide +kernel, by decide +kernel, hits_of (by decide +kernel),
    by decide +kernel, by decide +kernel⟩
theorem witness_Atomics_bound :
    let s : State := { tMem with fns := [(0, { ctxs := [(0, { binds := [(0, { valid := true, objScr := true, obj := 36, size := 128 })] })] })] }
    Running s ∧ FlagFree s ∧ s.acqBusy = false ∧ fenceReady s = true ∧ s.execLanes.getLsbD 0 = true ∧ s.addrFA 1 0 true = 32 ∧
      s.isBound true 32 8 = true ∧ s.isBound true 32 4 = false := by decide +kernel

/-- After a FENCE at sys scope, with nothing of the group unperformed. -/
theorem witness_Atomics_fenced :
    let s := tWith { tGroup 0 with fenced := 5, mmioDirty := [3] }
    Running s ∧ FlagFree s ∧ s.acqBusy = false ∧ s.grp.fenced = 5 ∧ s.grp.sb = [] ∧ s.atomsOut s.focus.blk s.focus.grp = false ∧
      s.flushed.outbox ≠ [] := by decide +kernel

/-- A sector written whole, of a function that logs dirty pages. -/
theorem witness_MemoryWrite :
    let s : State := { mem := [], fns := [(0, { cfg := [(0, { flags := 1, dirtyBase := 0x8000 })] })], poison := [1] }
    MemInv s ∧ (s.fnBlock 0 (s.homeDie 32)).flags.getLsbD 0 = true ∧ s.dirtyBit 32 ≠ none ∧ 1 ∈ s.poison ∧
      s.heldPage ((s.fnBlock 0 (s.homeDie 32)).dirtyBase + (s.dirtyBit 32).getD 0 / 8) = false ∧ 32 + 32 ≤ 0x8000 := by decide +kernel

/-- A group with an outstanding load. -/
def tBusy : State := { tState 0 with ops := [(1, { kind := .load })] }
/-- An object bound at scratch offset 20, which s4 holds. -/
def tBound : State := { tState 0 with fns := [(0, { ctxs := [(0, { binds := [(0, { valid := true, objScr := true, obj := 20, size := 128 })] })] })] }
theorem witness_FencesAndBindings : Running (tState 0) ∧ FlagFree (tState 0) ∧ fenceReady (tState 0) = true ∧ Running tBusy ∧
    fenceReady tBusy = false := by decide +kernel
theorem witness_FencesAndBindings_objects : (tBound.getS 4).toNat % 4 = 0 ∧ tBound.isBound true (tBound.getS 4).toNat 4 = true ∧
    tBound.groupBusy 0 0 [.load, .atomic] = false ∧ fenceReady tBound = true ∧
    ({ tBound with ops := [(1, { kind := .load })] } : State).groupBusy 0 0 [.load, .atomic] = true := by decide +kernel
/-- BIND of entry 63, a scratch region of 128 bytes, and UNBIND of it. -/
theorem witness_FencesAndBindings_bind :
    let s := tWithS { tSplit 0 with s := [(4, 255), (5, 128), (6, 0), (8, 4), (10, 63)] }
    let w := (s.getS 4).toNat
    Running s ∧ w < 256 ∧ w.testBit 6 = true ∧ w.testBit 7 = true ∧ (s.getS 6).toNat % 128 = 0 ∧ (s.getS 5).toNat ≠ 0 ∧
      (s.getS 5).toNat % 128 = 0 ∧ (s.getS 6).toNat + (s.getS 5).toNat ≤ 2 ^ 32 ∧ (s.getS 8).toNat % 4 = 0 ∧ (s.getS 10).toNat < 64 := by
  decide +kernel

/-- A numbered barrier of 7 arrivals, with n to come: s5 is 7. -/
def tBar (n : BitVec 16) (replay : Option LaneMask) : State :=
  { tState 0 with blocks := [(0, { life := .running, bars := [(4, { expected := 7, pending := n })],
                                   groups := [(0, { tGroup 0 with splits := [(0, { tSplit 0 with replay := replay })] })] })] }
theorem witness_Barriers_numbered :
    let x := (tBar 7 none).blk.bars.get {} 4
    let v := ((tBar 7 none).getS 5).toNat % 65536
    Running (tBar 7 none) ∧ x.expected ≠ 0 ∧ fenceReady (tBar 7 none) = true ∧ v ≠ 0 ∧ v = x.pending.toNat ∧ x.phase.toNat ≠ v ∧
      v < ((tBar 8 none).blk.bars.get {} 4).pending.toNat ∧ ((tBar 7 none).getS 6).toNat % 65536 = x.phase.toNat ∧
      (tBar 7 none).spl.replay ≠ some State.woken ∧ (tBar 7 (some State.woken)).spl.replay = some State.woken := by decide +kernel
/-- A barrier word at scratch offset 16, which s4 holds: it expects 7, 7 to come, at block scope; s8 initialises such a word. -/
def tWordBar (replay : Option LaneMask) : State :=
  { tState 0 with blocks := [(0, { life := .running, scratch := [(16, 7), (18, 7), (28, 1)],
                                   groups := [(0, { tGroup 0 with splits := [(0, { tSplit 0 with
                                     s := [(4, 16), (5, 7), (8, 0x10007)], replay := replay })] })] })] }
theorem witness_Barriers_words :
    let s := tWordBar none
    let w := s.bwRead s.focus.blk true 16
    let v := (s.getS 8).toNat
    Running s ∧ AtWord s .scr (barOperand s .scr 4) true 16 ∧ fenceReady s = true ∧ v < 2 ^ 26 ∧ bits v 18 16 = 1 ∧ v.testBit 19 = false ∧
      bwBound w = false ∧ bwExpected w ≠ 0 ∧ bwScope w = 1 ∧ (s.getS 5).toNat % 65536 = bwPending w ∧ (s.getS 5).toNat ≠ 0 ∧
      bwBytes w + (s.getS 6).toNat < 2 ^ 48 ∧ bwPhase w ≠ (s.getS 5).toNat % 2 ∧ bwPhase w = (s.getS 6).toNat % 2 ∧
      s.spl.replay ≠ some State.woken ∧ (tWordBar (some State.woken)).spl.replay = some State.woken :=
  ⟨by decide +kernel, ⟨by decide +kernel, by decide +kernel, .inl (by decide +kernel)⟩, by decide +kernel⟩
/-- The same operand as an address in memory. -/
theorem witness_Barriers_memory :
    let s := tWithS { tSplit 0 with s := [(4, 16)] }
    AtWord s .word (barOperand s .word 4) false 16 :=
  ⟨by decide +kernel, by decide +kernel, .inr ⟨by decide +kernel, by decide +kernel, hits_of (by decide +kernel), by decide +kernel, by decide +kernel⟩⟩

/-! ### The stream engine -/

/-- A record of two direct elements of 4 bytes from address 0. -/
def tPat : BitVec 512 := BitVec.ofNat 512 (4 * 2 ^ 64 + 2 * 2 ^ 128 + 4 * 2 ^ 160)
/-- s4 = 0, s5 = 0xFFFFFFFF, s6 = 4096 (the end of scratch), and the pattern p in q0. -/
def tPatState (p : BitVec 512) : State :=
  tWith { tGroup 0 with q := [(0, p)], splits := [(0, { tSplit 0 with s := [(5, 0xFFFFFFFF), (6, 4096), (8, 4080), (10, 16)] })] }
theorem witness_EngineWords_patld :
    let s := { tPatState 0 with mem := [(8, 4), (16, 2), (20, 4)] }
    Running s ∧ FlagFree s ∧ s.acqBusy = false ∧ (s.getP 0).toNat % 64 = 0 ∧ Hits s .read 64 (s.getP 0).toNat 0 ∧
      s.sbHit 0 0 96 false 0 64 = false ∧ s.rangeOf 0 ≠ .host ∧ BitVec.ofNat 512 (s.rdNum 0 64) = tPat ∧ patCheck tPat = none :=
  ⟨by decide +kernel, by decide +kernel, by decide +kernel, by decide +kernel, hits_of (by decide +kernel), by decide +kernel⟩
theorem witness_EngineWords_commands :
    let s := tPatState tPat
    Running s ∧ FlagFree s ∧ patBytes tPat = 4 ∧ patElems tPat = 2 ∧ (!patIndirect tPat && !patTranspose tPat && !patDequant tPat) = true ∧
      (s.getS 4).toNat % 32 = 0 ∧ (s.getS 4).toNat + 8 ≤ s.scrBytes s.focus.blk ∧ (s.getS 5).toNat = 0xFFFFFFFF ∧
      (s.getS 8).toNat % 16 = 0 ∧ (s.getS 8).toNat + 16 ≤ s.scrBytes s.focus.blk ∧ engHeld s.grp < 32 ∧
      (s.getS 10).toNat % 4 = 0 ∧ (s.getS 8).toNat + (s.getS 10).toNat ≤ s.scrBytes s.focus.blk := by decide +kernel
/-- The kinds of record: no element, indirect, dequantising, transposing. -/
theorem witness_EngineWords_records :
    let none_ : BitVec 512 := BitVec.ofNat 512 (4 * 2 ^ 64)
    let ind : BitVec 512 := BitVec.ofNat 512 (0x104 * 2 ^ 64 + 2 ^ 128 + 4 * 2 ^ 448)
    let deq : BitVec 512 := BitVec.ofNat 512 (0xA0210 * 2 ^ 64 + 2 ^ 128)
    let tr : BitVec 512 := BitVec.ofNat 512 (0x404 * 2 ^ 64 + 2 ^ 128)
    (patElems none_ = 0 ∧ patBytes none_ ≠ 0) ∧ (patCheck ind = none ∧ patIndirect ind = true ∧ patElems ind = 1) ∧
      (patCheck deq = none ∧ patDequant deq = true ∧ 64 * patElems deq ≤ 4096) ∧
      (patCheck tr = none ∧ patTranspose tr = true ∧ 8 * patBytes tr * (32 * ((patElems tr + 255) / 256)) ≤ 4096) := by decide +kernel

/-- A command of a queue. -/
def tCmd (kind : EngKind) (bytes : Nat) (word : Option Nat) : EngCmd :=
  { id := 7, kind := kind, pat := tPat, scr := 0, word := word, fill := 0x01020304, bytes := bytes, bay := 0, field := 0, batch := 1,
    done := 0, fence := [], op := 0, asked := [], got := [] }
def tEng (cs : List EngCmd) (closed : BitVec 16) : State := tWith { tGroup 0 with eng := [(0, cs)], closed := closed }
theorem witness_EngineWords_full : engHeld (tEng (List.replicate 32 (tCmd .scp 8 none)) 0).grp ≥ 32 := by decide +kernel
theorem witness_EngineWords_control :
    let s := tEng [tCmd .scp 8 none] 20
    let t := tEng [] 255
    Running s ∧ FlagFree s ∧ (s.grp.closed - s.grp.done).toNat < 255 ∧ 255 ≤ (t.grp.closed - t.grp.done).toNat ∧
      (let n : BitVec 16 := (s.getS 4).truncate 16
       (s.grp.closed - n).toNat < 2 ^ 15 ∧ 2 ^ 15 ≤ (s.grp.done - n).toNat) ∧
      (let n : BitVec 16 := (s.getS 6).truncate 16
       (s.grp.closed - n).toNat < 2 ^ 15 ∧ (s.grp.done - n).toNat < 2 ^ 15) ∧
      (∀ r ∈ s.grp.eng, ∀ c ∈ r.2, c.kind ≠ .lxin ∧ c.kind ≠ .lxout ∧ State.engWriting c = false ∧ c.stop = []) ∧ s.remotes = [] := by decide +kernel

/-- The address of an element of a direct record. -/
def elementB (p : BitVec 512) (n va : Nat) : Bool :=
  !patIndirect p && decide ((va : Int) =
    ((patNum p 0 8 : Int) + ((List.range (patDims p)).map fun d => (patIdx p n d : Int) * patStride p d).sum) % (2 ^ 64 : Nat))
theorem element_of {s : State} {b n va : Nat} {p : BitVec 512} (h : elementB p n va = true) : ElementAt s b p n va := by
  unfold elementB at h
  simp only [Bool.and_eq_true, Bool.not_eq_true', decide_eq_true_eq] at h
  unfold ElementAt
  simp only [h.1, Bool.false_eq_true, if_false, Bool.false_and]
  exact h.2
theorem elementIs_of (s : State) (b n va pa : Nat) (p : BitVec 512) (h : elementB p n va = true)
    (k : hitsInB s b .engRead (patBytes p) va pa = true) (r : s.rangeOf pa ≠ .host) : ElementIs s b p n (s.rd pa (patBytes p)) :=
  ⟨va, pa, element_of h, hitsIn_of k, r, rfl⟩
theorem elementTo_of (s : State) (b n va pa : Nat) (p : BitVec 512) (h : elementB p n va = true)
    (k : hitsInB s b .engWrite (patBytes p) va pa = true) :
    ∃ va, ElementAt s b p n va ∧ HitsIn s b .engWrite (patBytes p) va pa := ⟨va, element_of h, hitsIn_of k⟩

theorem witness_EngineSectors_fill :
    let c := tCmd .fill 40 none
    let s := tEng [c] 0
    (s.grpOf 0 0).eng.get [] 0 = c :: [] ∧ s.engMay 0 0 0 c = true ∧ c.done < c.steps ∧ (s.grpOf 0 0).sb = [] ∧ s.atomsOut 0 0 = false ∧
      c.got = [] ∧ c.stop = [] ∧ (c.scr % 32 = 0 ∨ c.kind = .fill) := by decide +kernel
/-- A copy of two elements, with a barrier word behind them that expects 8 bytes. -/
def tCopy : State :=
  { tState 0 with blocks := [(0, { life := .running, scratch := [(16, 1), (20, 8), (28, 1)],
                                   groups := [(0, { tGroup 0 with eng := [(0, [tCmd .scp 8 (some 16)])] })] })] }
theorem witness_EngineSectors_readable : ElementIs tCopy 0 tPat 0 (tCopy.rd 0 (patBytes tPat)) ∧
    ElementIs tCopy 0 tPat 1 (tCopy.rd 4 (patBytes tPat)) :=
  ⟨elementIs_of tCopy 0 0 0 0 tPat (by decide +kernel) (by decide +kernel) (by decide +kernel),
    elementIs_of tCopy 0 1 4 4 tPat (by decide +kernel) (by decide +kernel) (by decide +kernel)⟩
theorem witness_EngineSectors_copy :
    let c := tCmd .scp 8 (some 16)
    let s := tCopy
    (s.grpOf 0 0).eng.get [] 0 = c :: [] ∧ s.engMay 0 0 0 c = true ∧ c.done < c.steps ∧ (s.grpOf 0 0).sb = [] ∧ s.atomsOut 0 0 = false ∧ c.scr % 32 = 0 ∧
      c.got = [] ∧ c.stop = [] ∧ patBytes c.pat = 4 ∧ patElems c.pat = 2 ∧ c.bytes = 2 * 4 ∧
      (let lo := max c.scr (32 * (c.scr / 32 + c.done))
       let hi := min (c.scr + c.bytes) (32 * (c.scr / 32 + c.done) + 32)
       (16 + 16 ≤ lo ∨ hi ≤ 16) ∧ hi - lo ≤ bwBytes (s.scrNum 0 16 16)) := by decide +kernel
theorem witness_EngineSectors_store :
    let c := { tCmd .scpo 8 none with done := 1 }
    let s := tEng [c] 0
    (s.grpOf 0 0).eng.get [] 0 = c :: [] ∧ s.engMay 0 0 0 c = true ∧ c.done < c.steps ∧ patBytes c.pat = 4 ∧ patElems c.pat = 2 ∧
      s.canWrite 4 = true ∧ c.got = [] ∧ c.stop = [] ∧ 3 ∉ c.asked ∧ ¬(c.done + 1 < patElems c.pat) := by decide +kernel
theorem witness_EngineSectors_store_at :
    let s := tEng [{ tCmd .scpo 8 none with done := 1 }] 0
    ∃ va, ElementAt s 0 tPat 1 va ∧ HitsIn s 0 .engWrite (patBytes tPat) va 4 :=
  elementTo_of _ 0 1 4 4 tPat (by decide +kernel) (by decide +kernel)
theorem witness_EngineSectors_done :
    let c := { tCmd .scp 8 none with done := 1 }
    let s := tEng [c] 0
    s.engMay 0 0 0 c = true ∧ c.kind ≠ .lxin ∧ c.kind ≠ .lxout ∧ c.steps ≤ c.done ∧ ((s.grpOf 0 0).eng.map (·.1)).Nodup := by decide +kernel

/-! ### The Loft -/

/-- Bay 3 in compute mode, owned. s8 and s9 are fields of one plane at 500 and 510, s4 and s6 of 8 planes at 0 and 504; s5 is 3. -/
def tLoft (jobs : List LoftJob) (ops : Tab Op) : State :=
  { tWith { tGroup 0 with q := [(0, BitVec.ofNat 512 (0x404 * 2 ^ 64 + 2 ^ 128))], splits := [(0, { tSplit 0 with
      s := [(4, 0x0E00), (5, 3), (6, 0x0FF8), (8, 500), (9, 502), (10, 0xFFFFFFFF)] })] } with
    dies := [(0, { bays := [(3, { mode := 2 })], loft := jobs })], ops := ops }
theorem witness_LoftWords :
    let s := tLoft [] []
    Running s ∧ FlagFree s ∧ MayUse s (s.getS 5) ∧ FieldOk (s.getS 8) ∧ FieldOk (s.getS 4) ∧ FieldOk (s.getS 6) ∧ FieldOk (s.getS 9) ∧
      fBase (s.getS 6) + fWidth (s.getS 6) = 512 ∧ fOverlap (s.getS 8) (s.getS 4) = false ∧ fOverlap (s.getS 8) (s.getS 6) = false ∧
      fOverlap (s.getS 8) (s.getS 9) = false ∧ fWidth (s.getS 8) = 1 ∧ fWidth (s.getS 9) = 1 ∧ (s.getS 10) = 0xFFFFFFFF ∧
      s.groupBusy 0 0 [.loft] = false ∧ s.grp.fails = [] := by decide +kernel
theorem witness_LoftWords_transfer :
    let s := tLoft [] []
    let p := s.grp.q.get 0
    patBytes p ≠ 0 ∧ patTranspose p = true ∧ (s.getS 4).toNat + patElems p ≤ 262144 ∧ engHeld s.grp < 32 := by decide +kernel
/-- LFREE takes its bay from its operand: 5 here. -/
theorem witness_LoftWords_free :
    let s : State := { tLoft [] [(1, { kind := .loft })] with dies := [(0, { bays := [(3, { mode := 2 })] })] }
    MayUse s (s.getS 5) ∧ s.lostOf = 0 ∧ s.groupBusy 0 0 [.loft] = true := by decide +kernel

/-- An operation at the head of a bay. -/
def tJob (form : Instr) (bay : Nat) : LoftJob :=
  { op := 1, blk := 0, grp := 0, die := 0, fn := 0, ctx := 0, bay := bay, form := form, dst := 500, srcA := 0x0E00, srcB := 0x0FF8, mask := 502,
    scalar := 0, sreg := 4 }
theorem witness_LoftResults : ∀ form ∈ [Instr.lop .add 8 4 6, .lops .not 8 4 0, .lcmp .le 8 4 6, .lcmps .ge 8 4 6, .lpop 8 4, .lsel 8 4 6,
      .lshift 8 4 6, .lsrch 8 4 6],
    let j := tJob form 3
    let s := tLoft [j] [(1, { kind := .loft })]
    s.bayHead 0 3 = some j ∧ OwnOp s j ∧ s.jobOwns j = true ∧ (s.bayOf 0 3).reclaiming = false ∧ s.lostInfo 0 3 (State.jobSources j) = none ∧ s.jobErrors j = none ∧ fWidth j.dst = 1 ∧
      fWidth j.mask = 1 := by
  intro form h
  simp only [List.mem_cons, List.not_mem_nil, or_false] at h
  obtain rfl | rfl | rfl | rfl | rfl | rfl | rfl | rfl := h <;>
    exact ⟨by decide +kernel, ⟨by decide +kernel, by decide +kernel, by decide +kernel, by decide +kernel, by decide +kernel, by decide +kernel⟩,
      by decide +kernel⟩
/-- LBAY of an owned bay, of one of the cache, of any; LFREE; a reclaim of a bay without operations. -/
theorem witness_LoftResults_bays : ∀ x ∈ [(Instr.lbay 4 5, 3), (.lbay 4 5, 63), (.lbay 4 5, 64), (.lfree 5, 3)],
    let j := tJob x.1 x.2
    let s := tLoft [j] [(1, { kind := .loft })]
    (s.dies.findSome? fun e => e.2.loft.find? fun k => k.op == 1) = some j ∧ OwnOp s j ∧ s.bayHead 0 x.2 = some j ∧
      s.jobMoves j = true ∧ s.jobOwns j = decide (x.2 = 3) ∧ (s.bayOf 0 x.2).reclaiming = false ∧ (s.bayOf 0 3).mode = 2 ∧ (s.bayOf 0 63).mode = 0 ∧ (s.bayOf 0 63).badPlanes (BitVec.allOnes 128) = 0 := by
  intro x h
  simp only [List.mem_cons, List.not_mem_nil, or_false] at h
  obtain rfl | rfl | rfl | rfl := h <;>
    exact ⟨by decide +kernel, ⟨by decide +kernel, by decide +kernel, by decide +kernel, by decide +kernel, by decide +kernel, by decide +kernel⟩,
      by decide +kernel⟩
theorem witness_LoftResults_reclaim :
    let v := 2 ^ 31 + 3
    Nat.testBit v 31 = true ∧ v < 2 ^ 32 ∧ ((tLoft [] []).bayOf 0 (v % 64)).mode = 2 ∧ ∀ k ∈ ((tLoft [] []).dieOf 0).loft, k.bay ≠ v % 64 := by
  decide +kernel

/-! ### The Pantry -/

/-- A Pantry of one sequence and one shelf of 16 positions, whose page is 5; r is the count of the shelf. v1 is the sequence 0, v2 the
position 15. -/
def tPantry (r : Byte) : State :=
  { tWith { tGroup 0 with v := [(192, 15)] } with
    mem := [(0x10000, 1), (0x20004, 16), (0x20008, 255), (0x20009, 255), (0x2000A, 255), (0x2000B, 255), (0x20018, r), (0x2001B, 0x20), (0x20020, 5)]
    fns := [(0, { pantry := [(2, 1), (10, 2), (0x10, 1), (0x14, 1), (0x1A, 1), (0x1C, 1), (0x22, 4)] })] }
theorem witness_PantryWords :
    let s := tPantry 1
    Running s ∧ FlagFree s ∧ s.acqBusy = false ∧ s.grp.sb = [] ∧ WalkFresh s ∧ ∀ l, s.execLanes.getLsbD l = true →
      ∃ x sh j at_ e, OnShelf s (s.grp.getV 1 l).toNat (s.grp.getV 2 l).toNat x sh ∧ shRef sh = 1 ∧
        j = ((s.grp.getV 2 l).toNat - shStart sh) / s.panTpp ∧ EntryAt s x j sh at_ ∧ WalkReads s at_ 4 e ∧ e % 2 ^ 30 ≠ 0x3FFFFFFF := by
  refine ⟨by decide +kernel, by decide +kernel, by decide +kernel, by decide +kernel, by decide +kernel, fun l h => ?_⟩
  obtain rfl := lane_zero (by decide +kernel) h
  refine ⟨0, (tPantry 1).rdNum 0x20000 64, 0, 0x20020, 5, ⟨by decide +kernel, by decide +kernel, (tPantry 1).rdNum 0x10000 128, 0,
    fun _ => (tPantry 1).rdNum 0x20000 64, ⟨0x10000, walkHits_of (by decide +kernel), by decide +kernel, rfl⟩, by decide +kernel, by decide +kernel,
    by decide +kernel, by decide +kernel, fun i hi => ?_, by decide +kernel, rfl⟩, by decide +kernel, by decide +kernel, by
      show 0x20020 = _; decide +kernel, ⟨0x20020, walkHits_of (by decide +kernel), by decide +kernel⟩, by decide +kernel⟩
  obtain rfl : i = 0 := by omega
  exact ⟨by decide +kernel, ⟨0x20000, walkHits_of (by decide +kernel), by decide +kernel, rfl⟩, by decide +kernel, by decide +kernel, by decide +kernel,
    by decide +kernel⟩
theorem witness_PantryWords_counts :
    let s := tPantry 2
    accessing s = [0] ∧ (∀ die, (s.fnBlock s.fn die).flags.getLsbD 0 = false) ∧ s.panOn = true ∧ (s.pan 0x88 1).testBit 7 = false ∧ (s.grp.getV 1 0).toNat < s.pan 0x14 4 ∧
      WalkReads s (shelfAt s 0) 64 (s.rdNum 0x20000 64) ∧ shBad s (s.rdNum 0x20000 64) = false ∧
      WalkHits s .atomic 2 (shelfAt s 0 + 0x18) 0x20018 ∧ s.canWrite 0x20018 = true ∧ s.rangeOf 0x20018 ≠ .host ∧
      shRef (s.rdNum 0x20000 64) = 2 :=
  ⟨by decide +kernel, fun die => by simp [State.fnBlock, State.fnOf, State.fn, tPantry, tWith, tState, State.grid, State.gridOf, State.blk, State.blkOf, Tab.get], by decide +kernel, by decide +kernel, by decide +kernel, ⟨0x20000, walkHits_of (by decide +kernel), by decide +kernel, rfl⟩,
    by decide +kernel, walkHits_of (by decide +kernel), by decide +kernel⟩
theorem witness_PantryWords_reclaim :
    ((tPantry 1).fnOf 0).pantryRecl.getLsbD 30 = false ∧ Nat.testBit (2 ^ 31) 31 = true ∧ 2 ^ 31 < 2 ^ 32 ∧
      (({ (tPantry 1) with fns := [(0, { pantryRecl := 1 <<< 30 })] } : State).fnOf 0).pantryRecl.getLsbD 30 = true := by decide +kernel

/-! ### The matrix stream -/

/-- Descriptor d0: four rows of 640 bytes from scratch offset 0, of format f. -/
def tDesc (f : Nat) : BitVec 128 := BitVec.ofNat 128 (2560 * 2 ^ 32 + 640 * 2 ^ 64 + 4 * 2 ^ 80 + f * 2 ^ 88)
/-- A stream with that descriptor and a valid tile t0 of the format; barrier 4 expects 7, n to come. -/
def tMat (f : Nat) (n : BitVec 16) : State :=
  let m : Stream := { d := [(0, tDesc f)], t := [(0, { tag := BitVec.ofNat 4 f, valid := true })], fmt := BitVec.ofNat 4 f,
                      latch := { fmt := BitVec.ofNat 4 f, valid := true } }
  { tStream m with blocks := [(0, { life := .running, hasMs := true, ms := m, groups := [(0, tGroup 0)],
                                    bars := [(4, { expected := 7, pending := n })] })] }
theorem witness_StreamWords :
    let s := tMat 4 7
    Running s ∧ (∀ x ∈ s.blk.groups, x.2.sb = []) ∧ 64 * 63 + 64 ≤ s.scrBytes s.focus.blk ∧ (s.blk.bars.get {} 4).expected ≠ 0 ∧ 1 < (s.blk.bars.get {} 4).pending.toNat ∧
      ((tMat 4 1).blk.bars.get {} 4).pending = 1 ∧ (s.blk.bars.get {} 4).phase = s.ms.seen.get 4 ∧
      s.blk.groups.any (fun x => !x.2.ended) = true ∧ s.grid.restartable = false ∧
      (tStream { seen := [(4, 1)] }).ms.seen.get 4 ≠ ((tStream { seen := [(4, 1)] }).blk.bars.get {} 4).phase ∧
      ({ s with grids := [(0, { restartable := true })] } : State).grid.restartable = true := by decide +kernel
theorem witness_StreamWords_tile :
    let r := effRec (tMat 4 7) false 0 0
    recCheck (tMat 4 7) r = none ∧ 64 ≤ r.stride ∧ r.scaled = isMx r.fmt := by decide +kernel
theorem witness_Multiplications :
    let s := tMat 4 7
    let r := effRec s false 0 0
    Running s ∧ Unarmed s ∧ mmaOk s 0 0 r.fmt = true ∧ r.scaled = isMx r.fmt ∧ bRowBytes r.fmt ≤ r.stride ∧ recCheck s r = none ∧
      0 < (s.coreOf s.blk.die s.blk.core).credit ∧ s.ms.latch.valid = true ∧ mmaOk s 0 0 s.ms.latch.fmt.toNat = true ∧
      (({ s with cores := [] } : State).coreOf 0 0).credit ≤ 0 := by decide +kernel
theorem witness_Accumulators :
    let s := tMat 4 7
    let r := effRec s false 0 0
    Running s ∧ Unarmed s ∧ s.ms.oddWide 7 = false ∧ r.scaled = false ∧ rawBytes (s.ms.width 7) ≤ r.stride ∧ recCheck s r = none ∧
      r.fmt = s.ms.fmt.toNat ∧ r.scaled = isMx r.fmt ∧ 64 * codeBits r.fmt / 8 ≤ r.stride ∧ 64 * 63 + 64 ≤ s.scrBytes s.focus.blk := by
  decide +kernel

/-! ### Control flow -/

/-- A split of lanes 0 and 1 that executes lane 0 only. -/
def tHalf : Split := { tSplit 0 with live := 3 }
/-- A group whose four entries are all in use. -/
def tFull (x : Split) : State := tWith { tGroup 0 with splits := [(0, x), (1, tSplit 0), (2, tSplit 0), (3, tSplit 0)] }
theorem witness_ControlFlow_brx :
    let T := fun (s : State) => maskOf fun l => s.spl.exec.getLsbD l && !s.grp.dead.getLsbD l && s.guardAt l
    let none_ := tWithS { tSplit 0 with exec := 0 }
    let all := tState 0
    let some_ := tWithS tHalf
    let full := tFull tHalf
    Running none_ ∧ T none_ = 0 ∧ T all ≠ 0 ∧ all.spl.live &&& ~~~T all = 0 ∧ T some_ ≠ 0 ∧ some_.spl.live &&& ~~~T some_ ≠ 0 ∧
      (wordTaken (.brx 5) some_).grp.emptyEntry = some 1 ∧ some_.copyBad 1 some_.spl.depth = none ∧ Running full ∧
      (wordTaken (.brx 5) full).grp.emptyEntry = none ∧ full.spl.defs.length < 8 ∧ T full ≠ 0 ∧ full.spl.live &&& ~~~T full ≠ 0 := by
  decide +kernel

/-- At a merge point in front of a header: another split is ready, or waits at the same place, or nobody is there. -/
def tMerge (other : Split) (defs : List Deferral) : State :=
  tWith { tGroup 0 with splits := [(0, { tSplit 0 with left := 0, defs := defs }), (1, other)] }
def tDef : Deferral := { live := 2, exec := 2, pc := 4, depth := 0, mode := 0, sig := 0, holds := [] }
theorem witness_ControlFlow_headers :
    let s := tMerge {} []
    let waits := tMerge (tSplit 0) []
    let meets := tMerge { tSplit 0 with status := .waiting (.merge 0), live := 2, exec := 2 } []
    let absorbs := tMerge {} [tDef]
    (tStream {}).focus.stream = true ∧ s.focus.stream = false ∧ s.spl.clear 0 = true ∧
      (tWithS { tSplit 0 with holds := [(0, 1)] }).spl.clear 1 = false ∧ Running s ∧ s.spl.defs = [] ∧ s.spl.merged = false ∧
      s.otherReady s.focus.ent = false ∧ waits.otherReady waits.focus.ent = true ∧ waits.clock < 0 + 1024 ∧ matchesAt meets 1 = true ∧
      (meets.splOf 0 0 1).defs = [] ∧
      (tFull (tSplit 0)).grp.emptyEntry = none ∧
      absorbs.spl.defs.head? = some tDef ∧ tDef.pc = absorbs.spl.pc ∧ tDef.depth = absorbs.spl.depth ∧ tDef.mode = absorbs.spl.mode := by
  decide +kernel
theorem witness_ControlFlow_alone : ∀ k, k < 4 → matchesAt (tMerge {} []) k = false ∧ matchesAt (tMerge (tSplit 0) []) k = false ∧
    (k ≠ 1 → matchesAt (tMerge { tSplit 0 with status := .waiting (.merge 0) } []) k = false) := by decide +kernel

/-- Call depths 0, 15 and 16, 47; a return with a record of its depth; the last split of its group. -/
def tDepth (n : Nat) (defs : List Deferral) : State := tWithS { tSplit 0 with depth := n, defs := defs }
theorem witness_CallsAndReturns :
    Running (tDepth 15 []) ∧ ((tDepth 15 []).getS 4).toNat % 4 = 0 ∧ (tDepth 16 []).spillBad 0 0 = false ∧ (tDepth 47 []).spillBad 0 31 = false ∧
      (tDepth 17 []).spillBad 0 0 = false ∧ (tDepth 1 [{ tDef with depth := 1 }]).spl.defs = [{ tDef with depth := 1 }] ∧ tDef.depth ≤ 16 := by
  decide +kernel
theorem witness_CallsAndReturns_exit :
    let left := fun (s : State) => (wordTaken .exit s).modS fun _ => {}
    (left (tState 0)).grp.ended = true ∧ (tState 0).grp.fails = [] ∧ (left (tMerge (tSplit 0) [])).grp.ended = false := by decide +kernel

theorem witness_ModeAndSpecialRegisters :
    let good := fun (s : State) (a : Nat) => bits (s.getS a).toNat 15 12 < 14 ∧ bits (s.getS a).toNat 11 9 < 6
    let s := tWithS { tSplit 0 with s := [(4, 0xFFDBFF)] }
    Running s ∧ good s 4 ∧ s.spl.clear 0xFFF = true ∧ (tWithS { tSplit 0 with holds := [(11, 1)] }).spl.clear 0x800 = false ∧
      s.spl.sigEn = false ∧ (s.spl.sig.truncate 24 : BitVec 24) = 0xFFFFFF ∧ s.spl.execCopy = s.spl.exec := by decide +kernel

/-- The frame of a trap in a clause, and of a failure taken at a header. -/
def tFrame (atH : Bool) : Frame :=
  { pc := 4, hdr := 0, ll := 0, left := if atH then 0 else 2, flagA := 15, flagB := 15, yieldBit := false, ofStream := false, atH := atH, word := 0,
    mode := 0, sig := 0 }
def tTrap (x : Split) (fails : List Failure) (entry : Option Nat) : State :=
  { tWith { tGroup 0 with splits := [(0, x)], fails := fails } with grids := [(0, { trapEntry := entry })] }
theorem witness_TrapsAndReturns :
    let f : Failure := { code := 0x14, info := 5, stream := false }
    let s := tTrap { tSplit 0 with left := 0 } [f] (some 0x20)
    let t := tTrap { tSplit 0 with left := 0 } [f] none
    let h := tTrap { tSplit 0 with frame := some (tFrame false) } [] none
    Running s ∧ s.splitMay 0 0 0 = true ∧ s.midClause 0 0 0 = false ∧ (s.grpOf 0 0).fails = [f] ∧ (s.splOf 0 0 0).frame = none ∧
      s.grid.trapEntry = some 0x20 ∧ t.grid.trapEntry = none ∧ (t.splOf 0 0 0).frame = none ∧ Running h ∧ h.spl.frame = some (tFrame false) ∧
      (tFrame false).ofStream = false ∧ (tFrame false).left ≠ 0 ∧ (tFrame true).atH = true := by decide +kernel

/-- A queue of class 2 bit 2 set (device side), whose control block lies at 0x1000 in memory: WriteIndex 3. -/
def tQueue (x : Queue) (m : List Host.Cell) : State :=
  { tState 0 with mem := m, l2tlb := [(0, [tTlb])], queues := [(5, x)], dies := [(0, { bootstat := 0x800000B0 })] }
theorem witness_QueueAndRestartWords :
    let s := { tQueue { enabled := true, cls := 4, cb := 0x1000 } [(0x1000, 3)] with
      blocks := [(0, { life := .running, groups := [(0, { tGroup 0 with splits := [(0, { tSplit 0 with s := [(4, 5), (6, 16)] })] })] })] }
    let q := (s.getS 4).toNat % 65536
    let v := (s.getP 6).toNat
    let x := s.queueOf q
    Running s ∧ FlagFree s ∧ fenceReady s = true ∧ q < 4096 ∧ x.enabled = true ∧ x.cls.testBit 2 = true ∧ x.fn = s.fn ∧ x.ctx = s.ctx ∧
      v ≤ x.readIdx + 2 ^ x.z ∧
      (let r := ((startWord (encode (.qsub 4 6)) s).asAgent (.split 0 0 0)).cbRead q 0 8
       r.2 = some 3 ∧ (((((r.1.cbWrite q 0 (toBytes 8 (max 3 v))).1.modQueue q fun y =>
          { y with submits := y.submits ++ [(max 3 v, s.blk.grid)] }).modGrid s.blk.grid fun y =>
            { y with qsubs := y.qsubs ++ [(q, max 3 v)] }).serveDoorbell q).farAsk = none)) := by decide +kernel
theorem witness_QueueAndRestartWords_commit :
    let s : State := { tState 0 with grids := [(0, { restartable := true })] }
    let u := s.modG fun g => { g with commit := some (5, []) }
    let two : State := { s with blocks := [(0, { life := .running, groups := [(0, tGroup 0), (1, tGroup 0)] })] }
    Running s ∧ (tState 0).grid.restartable = false ∧ s.grid.restartable = true ∧ s.focus.ent < 4 ∧
      (∀ e, e < 4 → e ≠ s.focus.ent → (s.splOf s.focus.blk s.focus.grp e).status = .empty) ∧ s.spl.defs = [] ∧
      (startWord (encode (.rcommit 5)) u).allHold s.focus.blk 5 = true ∧
      (startWord (encode (.rcommit 5)) (two.modG fun g => { g with commit := some (5, []) })).allHold s.focus.blk 5 = false := by decide +kernel

/-- A table from −1.0 to 1.0 at address 0xF00, on two pages; the split waits for its load. -/
def tTable : State :=
  { tState 0 with
    mem := [(0xF02, 0x80), (0xF03, 0xBF), (0xF06, 0x80), (0xF07, 0x3F)]
    blocks := [(0, { life := .running, act := [(1, { st := 1, addr := 0xF00 })],
                     groups := [(0, { tGroup 0 with splits := [(0, { tSplit 0 with loads := some (4, 1) })] })] })] }
theorem witness_ActivationTables :
    (Running (tState 0) ∧ ((tState 0).actTab 0).st ≠ 1 ∧ ((tState 0).getP 8).toNat % 64 = 0 ∧ (tState 0).acqBusy = false) ∧
    ((tTable.splOf 0 0 0).loads = some (4, 1) ∧ (tTable.splOf 0 0 0).status = .ready ∧ (tTable.grpOf 0 0).sb = [] ∧ tTable.far = []) ∧
    (tTable.blkOf 0).live = true ∧ (tTable.actTab 1).addr = 0xF00 ∧
    HitsIn tTable 0 .read 256 0xF00 0xF00 ∧ tTable.rangeOf 0xF00 ≠ .host ∧ HitsIn tTable 0 .read 2880 0x1000 0x1000 ∧ tTable.rangeOf 0x1000 ≠ .host :=
  ⟨by decide +kernel, by decide +kernel, by decide +kernel, by decide +kernel, hitsIn_of (by decide +kernel), by decide +kernel,
    hitsIn_of (by decide +kernel), by decide +kernel⟩
theorem witness_ActivationTables_range :
    let lo := decodeF fp32 0xBF800000
    let hi := decodeF fp32 0x3F800000
    lo.isNaN = false ∧ lo.isInf = false ∧ hi.isNaN = false ∧ hi.isInf = false ∧ ltN lo hi = true ∧ tTable.rdNum 0xF00 4 = 0xBF800000 ∧
      tTable.rdNum 0xF04 4 = 0x3F800000 := by decide +kernel

/-! ### Queues and packets -/

def tRing (q : EventQ) : State := { tState 0 with l2tlb := [(0, [tTlb])], evq := [(0, q)] }
theorem witness_EventQueues :
    let s := tRing { enabled := true, z := 6, base := 0x1000, write := 3, read := 1 }
    let q := s.evqOf 0 0
    q.read ≤ 3 ∧ 3 ≤ State.shown q ∧ State.shown q < 4 ∧ s.canWrite 0x1060 = true ∧ q.enabled = true ∧ q.write - q.read ≠ 2 ^ q.z ∧
      devHitsB s 0 0 0 .write 32 (q.base + 32 * (q.write % 2 ^ q.z)) 0x1060 = true ∧ (tState 0).evqOf 0 0 = {} := by decide +kernel
theorem witness_EventQueues_hits :
    let s := tRing { enabled := true, z := 6, base := 0x1000, write := 3, read := 1 }
    DevHits s 0 0 0 .write 32 ((s.evqOf 0 0).base + 32 * ((s.evqOf 0 0).write % 2 ^ (s.evqOf 0 0).z)) 0x1060 :=
  devHits_of (by decide +kernel)

/-- The control block of a queue with WriteIndex w: its mirrors are those of its shadow entry. -/
theorem witness_Queues_service : ∀ w ∈ [0, 16, 17],
    let s := tQueue { enabled := true, cls := 4, cb := 0x1000, ring := 0x2000 }
      ((if w = 0 then [] else [(0x1000, BitVec.ofNat 8 w)]) ++ [(0x1041, 0x20), (0x1048, 4), (0x1049, 4)])
    let x := s.queueOf 5
    x.enabled = true ∧ s.rdNum (0x1000 + 0x40) 12 = x.ring % 2 ^ 64 + x.z * 2 ^ 64 + x.cls * 2 ^ 72 + x.fn * 2 ^ 80 + x.gangClass * 2 ^ 88 ∧
      s.rdNum (0x1000 + 0x20) 4 = 0 ∧ s.rdNum 0x1000 8 = w ∧ (w = 17 ↔ x.readIdx + 2 ^ x.z < w) ∧ x.stopped = false ∧ s.bound 5 = false := by
  decide +kernel
theorem tTlb_covers {va : Nat} (h : va < 2 ^ 30) : tTlb.covers 0 0 va = true := by
  have h0 : va / 2 ^ 30 = 0 := Nat.div_eq_of_lt h
  show decide ((2 : Nat) ^ 30 ≠ 0 ∧ va / 2 ^ 30 = 0) = true
  rw [h0]; decide
theorem tTlb_hit {s : State} (hs : s.l2tlb = [(0, [tTlb])]) {va : Nat} (h : va < 2 ^ 30) (acc : AccType) :
    s.tlbHit 0 none 0 0 va acc = some tTlb := by
  unfold State.tlbHit
  rw [hs]
  show (match [tTlb].find? (fun t => t.covers 0 0 va) with
    | some t => if acc.writes && t.writable && !t.dirty then none else some t
    | none => none) = some tTlb
  rw [List.find?_cons, tTlb_covers h]
  cases acc <;> rfl
/-- Local memory without poison or cellar commands answers every access. -/
theorem range_low {s : State} (hl : s.lpddr = none) {pa : Nat} (hp : pa < 2 ^ 39) : s.rangeOf pa = .hbm := by
  unfold State.rangeOf State.localBytes
  rw [hl]
  exact if_pos hp
theorem reachPa_low {s : State} (hl : s.lpddr = none) (hc : s.cells = []) (hz : s.poison = []) {fn pa n : Nat} {r : Bool} (hp : pa < 2 ^ 39) :
    s.reachPa fn pa n r = .ok pa := by
  unfold State.reachPa
  rw [range_low hl hp]
  simp [State.chanBusy, State.poisoned, hc, hz]
theorem devHits_low {s : State} (ht : s.l2tlb = [(0, [tTlb])]) (hl : s.lpddr = none) (hc : s.cells = []) (hz : s.poison = []) {va n : Nat} {acc : AccType}
    (hv : va < 2 ^ 30) (hn : n ≤ 4096 - va % 4096) (hw : acc.writes = true → va % 128 + n ≤ 128) : DevHits s 0 0 0 acc n va va := by
  have e : tTlb.pa + va % tTlb.size = va := by
    show 0 + va % 2 ^ 30 = va
    omega
  refine ⟨hn, hw, tTlb, tTlb_hit ht hv _, fun _ => rfl, ?_, ?_⟩
  · rw [e]; exact reachPa_low hl hc hz (by omega)
  · rw [range_low hl (by omega)]; decide
theorem witness_Queues_service_hits (off n : Nat) (h : off + n ≤ 0x60) :
    let s := tQueue { enabled := true, cls := 4, cb := 0x1000, ring := 0x2000 } []
    DevHits s 0 (s.queueOf 5).fn (s.queueOf 5).ctx .read n ((s.queueOf 5).cb + off) (0x1000 + off) := by
  have hc : (tQueue { enabled := true, cls := 4, cb := 0x1000, ring := 0x2000 } []).queueOf 5 =
      { enabled := true, cls := 4, cb := 0x1000, ring := 0x2000 } := by decide +kernel
  simp only [hc]
  exact devHits_low rfl rfl rfl rfl (by omega) (by omega) (by simp [AccType.writes])
/-- The error of a WriteIndex out of range is reported without an access to another module. -/
theorem witness_Queues_service_error :
    let s := tQueue { enabled := true, cls := 4, cb := 0x1000, ring := 0x2000 } [(0x1000, 17), (0x1041, 0x20), (0x1048, 4), (0x1049, 4)]
    (((((s.asAgent (.queue 5)).modQueue 5 fun y => { y with writeIdx := 17 }).queueErr 5 0x08 0).putWaiting 5).farAsk = none) := by decide +kernel
/-- A bound queue whose Control stops it. -/
def tBoundQ (x : Queue) (ln : FwLane) (m : List Host.Cell) : State :=
  { tQueue x m with dies := [(0, { bootstat := 0x800000B0, lanes := [(1, { ln with queue := some 5 })] })] }
theorem witness_Queues_control :
    let s := tBoundQ { enabled := true, cls := 4, cb := 0x1000 } {} [(0x1020, 1)]
    let s₀ := s.asAgent (.queue 5)
    s.bound 5 = true ∧ (s₀.cbRead 5 0x20 4).2 = some 1 ∧ ((s₀.cbRead 5 0x20 4).1.cbTry 5 0x20 4 0).2 = true ∧
      (((s₀.cbRead 5 0x20 4).1.cbTry 5 0x20 4 0).1.stopQueue 5).farAsk = none ∧ (tQueue {} []).bound 5 = false := by decide +kernel
/-- Shadow entries of queue 5 at 0: a good one, and one whose class is out of range. -/
theorem witness_Queues_enabling : ∀ cls ∈ [0, 3],
    let s : State := { mem := [(64 * 5 + 0x10, 20)] ++ (if cls = 0 then [] else [(64 * 5 + 0x11, BitVec.ofNat 8 cls)])
                       dies := [(0, { bootstat := 0x80000000 })] }
    let a := s.shadowAt 5
    let u := ((s.asAgent (.queue 5)).shadowBit 5 0 true).shadowBit 5 2 false
    let f := u.rdNum
    a = 320 ∧ s.booted 0 = true ∧ s.canWrite (a + 0x18) = true ∧ s.rangeOf (a + 0x18) ≠ .host ∧ s.fns = [] ∧ (cls = 0 ↔ f (a + 0x11) 1 % 4 ≠ 3) ∧ f (a + 0x10) 1 = 20 ∧ f (a + 0x12) 1 = 0 ∧ f (a + 0x13) 1 = 0 ∧ f (a + 0x14) 2 = 0 ∧
      f (a + 0x18) 4 = 1 ∧ f (a + 0x1C) 36 = 0 ∧ ((s.asAgent (.queue 5)).enableQueue 5).farAsk = none ∧
      (u.event 0 0 0x01 5 0x03 0 (f (a + 0x12) 1) 0 0).farAsk = none := by decide +kernel
theorem witness_Queues_lanes :
    let s := tQueue { enabled := true, cls := State.preferred 1, waiting := some 0 } [(320 + 0x10, 4), (320 + 0x11, BitVec.ofNat 8 (State.preferred 1))]
    (s.laneOf 0 1).queue = none ∧ (s.dieOf 0).bootstat.getLsbD 31 = true ∧ (5, s.queueOf 5) ∈ s.queues ∧ (s.queueOf 5).waiting.isSome = true ∧
      s.bound 5 = false ∧ (s.queueOf 5).cls % 4 = State.preferred 1 ∧ s.shadowOk 5 = true ∧
      ((s.asAgent (.queue 1023)).bindLane 0 1).farAsk = none := by decide +kernel
theorem witness_Queues_release :
    let s := tBoundQ {} { ahead := 15 } []
    (s.laneOf 0 1).queue = some 5 ∧ (s.queueOf 5).enabled = false ∧ (s.laneOf 0 1).ahead < 16 ∧ (s.laneOf 0 2).queue = none ∧
      ((s.asAgent (.queue 5)).releaseLane 0 1).farAsk = none := by decide +kernel

/-! ### Packets -/

/-- A packet of a type: its length in the unit of R67, and the bytes that are not 0. -/
def tPkt (t len : Nat) (fs : Cells 8) : List Byte :=
  (List.range (16 * len)).map fun i => Cells.get (w := 8) ((0, BitVec.ofNat 8 t) :: (2, BitVec.ofNat 8 len) :: fs) i
/-- The packet of tPkt in memory from an address on. -/
def tPktMem (a t len : Nat) (fs : Cells 8) : List Host.Cell :=
  (if t = 0 then [] else [(a, BitVec.ofNat 8 t)]) ++ [(a + 2, BitVec.ofNat 8 len)] ++ fs.map fun e => (a + e.1, e.2)
/-- Lane 1 of die 0 serves queue 5, whose ring lies at 0x2000 and holds the packet. -/
def tServe (x : Queue) (t len : Nat) (fs : Cells 8) : State :=
  { tBoundQ { x with enabled := true, cb := 0x1000, ring := 0x2000, z := 4, writeIdx := 2 } { ahead := 1 } (tPktMem 0x2000 t len fs) with
    pkts := [] }
def servesB (s : State) (d l q : Nat) (b : List Byte) : Bool :=
  match (s.asAgent (.queue q)).fwTurn d l (pkType b) with
  | (u, true) => decide (u.queueHead q = .pkt b) && decide (u.packetError q b = none) &&
      (match (s.laneOf d l).queue with | some i => decide (q = 1024 * d + i) | none => false)
  | (_, false) => false
theorem serves_of {s : State} {d l q : Nat} {b : List Byte} (h : servesB s d l q b = true) : ∃ u, Serves s d l q b u := by
  unfold servesB at h
  split at h
  · rename_i u hu
    simp only [Bool.and_eq_true, decide_eq_true_eq] at h
    refine ⟨u, hu, h.1.1, h.1.2, ?_⟩
    have h2 := h.2
    split at h2
    · rename_i i hi
      exact ⟨i, hi, of_decide_eq_true h2⟩
    · cases h2
  · cases h

theorem witness_Packets_nop : ∃ u, Serves (tServe {} 0 4 []) 0 1 5 (tPkt 0 4 []) u := serves_of (by decide +kernel)
/-- WAITSIG for the word at 0x3000 to equal 0. -/
theorem witness_Packets_waitsig : ∃ u, Serves (tServe {} 4 4 [(9, 0x30), (0x18, 1)]) 0 1 5 (tPkt 4 4 [(9, 0x30), (0x18, 1)]) u :=
  serves_of (by decide +kernel)
theorem witness_Packets_join : ∃ u, Serves (tServe {} 5 4 [(4, 5)]) 0 1 5 (tPkt 5 4 [(4, 5)]) u := serves_of (by decide +kernel)
/-- SQFENCE on its own queue. -/
theorem witness_Packets_sqfence : ∃ u, Serves ((tServe {} 0xB 4 [(4, 1), (8, 5)]).beginStep 0) 0 1 5 (tPkt 0xB 4 [(4, 1), (8, 5)]) u :=
  serves_of (by decide +kernel)
theorem witness_Packets_phase : ∃ u, Serves (tServe {} 0xC 4 [(4, 9)]) 0 1 5 (tPkt 0xC 4 [(4, 9)]) u := serves_of (by decide +kernel)
/-- RETURN from a buffer at 0x2000 of one slot, and CALL of one at 0x3000. -/
theorem witness_Packets_return : ∃ u, Serves (tServe { calls := [(0x2000, 1, 0)] } 7 4 []) 0 1 5 (tPkt 7 4 []) u := serves_of (by decide +kernel)
theorem witness_Packets_call : ∃ u, Serves (tServe {} 6 4 [(4, 1), (9, 0x30)]) 0 1 5 (tPkt 6 4 [(4, 1), (9, 0x30)]) u := serves_of (by decide +kernel)
/-- SIGNAL adds 2 to the word at 0x3000, at sys scope. -/
theorem witness_Packets_signal :
    let s := tServe {} 3 4 [(4, 0x41), (9, 0x30), (0x10, 2)]
    (∃ u, Serves s 0 1 5 (tPkt 3 4 [(4, 0x41), (9, 0x30), (0x10, 2)]) u) ∧ DevHits s 0 0 0 .write 8 0x3000 0x3000 ∧ s.canWrite 0x3000 = true :=
  ⟨serves_of (by decide +kernel), devHits_of (by decide +kernel), by decide +kernel⟩
/-- A WAITSIG that polls, for a word that is 0: equal to 0, or not, or for a time that is up. -/
theorem witness_Packets_polls : ∀ c ∈ [0, 1],
    let s := { tServe {} 4 4 [(4, BitVec.ofNat 8 c), (5, 1), (9, 0x30), (0x18, 1)] with clock := 1024 }
    let b := tPkt 4 4 [(4, BitVec.ofNat 8 c), (5, 1), (9, 0x30), (0x18, 1)]
    (s.laneOf 0 1).queue = some 5 ∧ s.laneHead 0 1 = .pkt b ∧ pkType b = 4 ∧ s.packetError 5 b = none ∧ pk b 4 1 = c ∧ pk b 5 3 = 1 ∧
      (s.laneReady 0 1 = decide (c = 0)) ∧ (s.laneOf 0 1).blockedSince + 1024 * pk b 5 3 ≤ s.clock := by decide +kernel
theorem witness_Packets_polls_hits : DevHits (tServe {} 4 4 [(4, 0), (5, 1), (9, 0x30), (0x18, 1)]) 0 0 0 .read 8 0x3000 0x3000 :=
  devHits_of (by decide +kernel)
theorem witness_Launches : ∃ u, Serves (tServe {} 1 8 []) 0 1 5 (tPkt 1 8 []) u := serves_of (by decide +kernel)

/-! ### Placement and gangs -/

/-- A grid of one block for die 0, not placed; its group has one role of one lane group. -/
def tPlace (evac : Word) (passed : Tab Nat) : State :=
  { grids := [(1, { dimX := 1, dimY := 1, dimZ := 1, blocksLeft := 1, roles := [(0, 1, 8, 1)], pin := some 0, passedAt := passed })]
    dies := [(0, { evac := evac })] }
theorem witness_BlockPlacement :
    let s := tPlace 0 []
    ((tPlace (1 <<< 30) []).dieOf 0).evac.getLsbD 30 = true ∧ (s.dieOf 0).evac.getLsbD 30 = false ∧ s.unitsOn 0 = [] ∧ s.gridOrder 0 = [1] ∧
      (s.gridOf 1).starving.contains 0 = false ∧ ({} : State).gridOrder 0 = [] ∧ ({} : State).unitsOn 0 = [] := by decide +kernel
theorem witness_BlockPlacement_span :
    let s := tPlace 0 []
    let x := s.gridOf 1
    x.extra.get [] 0 = [] ∧ x.spanSize = 1 ∧ x.next.get 0 0 < s.spansOn x 0 ∧ s.spanNumber x 0 (x.next.get 0 0) < State.gridSize x := by
  decide +kernel
theorem witness_BlockPlacement_release :
    (({ blocks := [(0, { life := .carved })] } : State).blkOf 0).life = .carved ∧ ((tState 0).blkOf 0).life ≠ .carved := by decide +kernel
theorem witness_BlockPlacement_starving :
    let s := { tPlace 0 [(0, 5)] with clock := 65541 }
    (s.gridOf 1).passedAt.has 0 = true ∧ (s.gridOf 1).passedAt.get 0 0 + 65536 ≤ s.clock ∧ 1 ∈ s.unplacedOn 0 ∧ 0 ∉ (s.gridOf 1).starving ∧
      ({ s with clock := 65540 } : State).clock < (s.gridOf 1).passedAt.get 0 0 + 65536 := by decide +kernel

/-- A GANG packet: id 7, two members, this one is member 1 with one core on die 0; a time of 1. -/
def tGangFields : Cells 8 := [(4, 7), (8, 2), (10, 1), (12, 1), (14, 1), (16, 1)]
def tGang (x : Queue) (gs : Tab Gang) : State := { tServe x 2 4 tGangFields with gangs := gs, clock := 1024 }
/-- Member i of that gang. -/
def tMember (i : Nat) : Gang := { queue := 5, id := 7, count := 2, index := i, cores := 1, mask := 1, timeout := 1, chosen := [(0, 3)] }
/-- A reservation of this gang that stands in the way of a second member 1: its GANG has not issued, or has and its queue serves it still. -/
def tStands (s : State) (e : Nat × Gang) : Bool :=
  !s.pkts.has e.1 || (e.2.queue != 5 && (s.queueOf e.2.queue).gang == some e.1 && (s.queueOf e.2.queue).pendGang == none)
theorem witness_Gangs_open :
    let s := tGang {} []
    let b := tPkt 2 4 tGangFields
    (s.laneOf 0 1).queue = some 5 ∧ s.laneHead 0 1 = .pkt b ∧ pkType b = 2 ∧ s.packetError 5 b = none ∧ (s.queueOf 5).pendGang = none ∧
      s.gangs = [] ∧ (tMember 1).mask = 1#4 <<< 0 := by decide +kernel
theorem witness_Gangs_clash : ∀ issued ∈ [false, true],
    let t := { tGang {} [(9, { tMember 1 with queue := 6 })] with pkts := if issued then [(9, { die := 0, queue := 6, slot := 0, kind := 2 })] else [] }
    let s := t.modQueue 6 fun x => { x with gang := some 9 }
    ∃ e ∈ s.gangs, e.2.fn = 0 ∧ e.2.id = 7 ∧ tStands s e = true ∧ (e.2.index = 1 ∨ e.2.count ≠ 2) := by decide +kernel
theorem witness_Gangs_issues :
    let s := tGang { pendGang := some 9 } [(9, { tMember 1 with committed := true })]
    (∃ u, Serves s 0 1 5 (tPkt 2 4 tGangFields) u) ∧ (s.queueOf 5).pendGang = some 9 := ⟨serves_of (by decide +kernel), by decide +kernel⟩
theorem witness_Gangs_timeout :
    let s := tGang { pendGang := some 9 } [(9, tMember 1)]
    let y := s.gangOf 9
    (s.queueOf 5).pendGang = some 9 ∧ y.timeout ≠ 0 ∧ y.committed = false ∧ y.since + 1024 * y.timeout ≤ s.clock ∧
      ({ s with clock := 1023 } : State).clock < y.since + 1024 * y.timeout ∧
      ((tGang { pendGang := some 9 } [(9, { tMember 1 with mask := 0 })]).gangOf 9).mask = 0 := by decide +kernel
theorem witness_Gangs_held :
    let s := tGang {} [(9, tMember 1)]
    s.gangCore 0 3 = some 9 ∧ (s.occOf 0 3).blocks = 0 ∧ (0, 3) ∉ (s.gangOf 9).held ∧ (s.gangOf 9).reported = false ∧ s.gangCore 0 4 = none := by
  decide +kernel
theorem witness_Gangs_agree :
    let zero : Gang := { tMember 0 with reported := true, members := [0] }
    let s := tGang {} [(8, zero), (9, { tMember 1 with reported := true })]
    s.gangsOf 0 7 (some 0) = [(8, zero)] ∧ (∀ e ∈ s.gangsOf 0 7 (some 1), e.2.reported = true) ∧ 1 < zero.count ∧ 1 ∉ zero.members ∧
      (∀ j, j < zero.count → j = 1 ∨ j ∈ zero.members) ∧ zero.count ≤ 2 ∧ s.gangsOf 0 7 (some 2) = [] ∧ s.gangsOf 0 6 (some 0) = [] ∧
      (∃ j, j < zero.count ∧ j ∉ zero.members) ∧ (∀ e ∈ s.gangs, ∀ y ∈ e.2.yielded, y.2 ≠ 0 * 2 ^ 32 + 7) := by decide +kernel
/-- All have reported; member 1 no longer does; the member of another module has been counted before. -/
theorem witness_Gangs_agree_all :
    let s := tGang {} [(8, { tMember 0 with reported := true, members := [0, 1] }), (9, tMember 1)]
    (∀ e ∈ s.gangsOf 0 7 (some 0), ∀ j, j < e.2.count → j ∈ e.2.members) ∧ (∀ e ∈ s.gangsOf 0 7 (some 1), e.2.reported = false) ∧
      (tGang {} [(8, { tMember 0 with members := [0, 1] })]).gangsOf 0 7 (some 1) = [] := by decide +kernel
theorem witness_Gangs_abort :
    let s := tGang {} [(9, tMember 1)]
    s.gangsOf 0 7 none = [(9, tMember 1)] ∧ (∀ e ∈ s.gangs, ∀ y ∈ e.2.yielded, y.2 ≠ 0 * 2 ^ 32 + 7) := by decide +kernel

/-! ### COPY, and the near-memory units of the cellar -/

/-- The state after the turn of the firmware that serves a packet. -/
def tTurn (s : State) (d l q : Nat) (b : List Byte) : State := ((s.asAgent (.queue q)).fwTurn d l (pkType b)).1
theorem serves_turn {s : State} {d l q : Nat} {b : List Byte} (h : servesB s d l q b = true) : Serves s d l q b (tTurn s d l q b) := by
  obtain ⟨u, hu⟩ := serves_of h
  have := hu.1
  simpa [tTurn, this] using hu

/-- One row of 4 bytes from 0x3000 to 0x4000. -/
def tCopyFields : Cells 8 := [(9, 0x30), (0x11, 0x40), (0x18, 4), (0x1C, 1)]
theorem witness_Copies_packet : ∃ u, Serves (tServe {} 8 4 tCopyFields) 0 1 5 (tPkt 8 4 tCopyFields) u := serves_of (by decide +kernel)
def tCopyJob : CopyJob :=
  { at_ := 0x2000, pkt := 3, queue := 5, slot := 0, depth := 0, inner := 0, fn := 0, ctx := 0, src := 0x3000, dst := 0x4000, bytes := 4, rows := 1, spitch := 0, dpitch := 0 }
/-- The die has that job; the first sector of its source is poisoned, or is not. -/
def tCopying (bad : Bool) : State :=
  { tQueue { enabled := true } [(0x3001, 7)] with dies := [(0, { copies := [(3, tCopyJob)] })], poison := if bad then [0x180] else [] }
theorem witness_Copies_complete : ∀ bad ∈ [false, true],
    let v := ((tCopying bad).asAgent (.copy 0 3)).copyRows 0 tCopyJob tCopyJob.rows 0
    (((tCopying bad).dieOf 0).copies.find? fun e => e.1 == 3) = some (3, tCopyJob) ∧ tCopyJob.ended = none ∧ v.2 = !bad ∧
      (∀ e ∈ v.1.dies, e.1 ≠ 0 → ∀ c ∈ e.2.copies, c.1 ≠ 3) ∧ v.1.snoopHeld = [] ∧ v.1.cells = [] ∧
      ((v.1.modQueue 5 fun x => x).queueErrAt 5 0x09 0 0 0 0).farAsk = none ∧ ∀ e ∈ ((tCopying bad).dieOf 0).copies, e.1 ≠ 4 := by decide +kernel
/-- A command that holds the page 0. -/
def tHolds : CellCmd :=
  { pkt := 1, die := 0, queue := 0, slot := 0, fn := 0, ctx := 0, prio := 0, pb := [], mask := 0, record := 0, parts := [], bases := [],
    outPages := [0], usePages := [], bad := none, held := [] }
/-- The destination's page is held by a cellar command: the write waits. -/
theorem witness_Copies_waits :
    let s := { tCopying false with cells := [(1, tHolds)] }
    let v := ((s.asAgent (.copy 0 3)).copyRows 0 tCopyJob tCopyJob.rows 0).1
    (∃ e ∈ v.cells, ∃ r ∈ e.2.held, r.who = .copy 3) ∧ v.farAsk = none := by decide +kernel
theorem witness_Copies_row : DevHits (tCopying false) 0 0 0 .read 4 (wrap 64 (tCopyJob.src + (0 : Nat) * tCopyJob.spitch)) 0x3000 ∧
    DevHits (tCopying false) 0 0 0 .write 4 (wrap 64 (tCopyJob.dst + (0 : Nat) * tCopyJob.dpitch)) 0x4000 ∧
    (tCopying false).canWrite 0x4000 = true ∧ ((tCopying false).copyRows 0 tCopyJob 1 0).1.byteAt 0x4001 = 7 :=
  ⟨devHits_of (by decide +kernel), devHits_of (by decide +kernel), by decide +kernel, by decide +kernel⟩

/-- A parameter block that passes one value of FP32 on: In0 at 2^30, Out at 2^30 + 2^21, one element each. -/
def tPb : Cells 8 := [(1, 1), (3, 1), (0x43, 0x40), (0x48, 1), (0x50, 1), (0x58, 1), (0x5A, 1), (0xA2, 0x20), (0xA3, 0x40), (0xA8, 1),
  (0xB0, 1), (0xB8, 1), (0xBA, 1)]
/-- Context 0 maps the two pages from 2^30 on to the pages 33 and 66 of local memory, in the channel of unit 0. -/
def tCellTables : List Host.Cell :=
  putBytes (putBytes (putBytes (putBytes (putBytes [] 0x8000 (toBytes 8 0x9080)) 0x9000 (toBytes 8 0xA001)) 0xA008 (toBytes 8 0xB001))
    0xB000 (toBytes 8 0x0180000004200073)) 0xB008 (toBytes 8 0x0180000008400073)
/-- CELLAR of the block at 0x5000 by unit 0, with its record at 0x6000. -/
def tCellFields : Cells 8 := [(9, 0x50), (0x10, 1), (0x19, 0x60)]
/-- A queue with that packet; one byte of the parameter block is set. -/
def tCellar (off v : Nat) : State :=
  let m := tPb.foldl (fun m e => putBytes m (0x5000 + e.1) [e.2]) tCellTables
  { (tServe { cls := 2 } 9 4 tCellFields).modDie 0 fun x => { x with cellframe := [(0, 0x0FFF0064)] } with
    mem := putBytes (putBytes m (0x5000 + off) (toBytes 1 v)) 0x2000 (tPkt 9 4 tCellFields)
    fns := [(0, { cfg := [(0, { ctxTable := 0x8000 })] })] }
theorem test_cellar_pb : pbReserved tPb = false ∧ pbAllowed tPb = true ∧ pbCounts tPb = true ∧ pbOutputs tPb = 1 := by decide +kernel
def okB {α β : Type} (x : Except α β) : Bool := match x with | .ok _ => true | .error _ => false
/-- The block passes its checks; with a reserved byte set it does not. -/
theorem witness_CellarAcceptance : ∀ v ∈ [0, 1],
    let s := tCellar 7 v
    let b := tPkt 9 4 tCellFields
    let u := tTurn s 0 1 5 b
    let r := u.cellCheck 0 (u.queueOf 5).fn (u.queueOf 5).ctx (pk b 8 8) (pk b 0x10 8)
    let w : State := { r.1 with nextId := r.1.nextId + 1 }
    Serves s 0 1 5 b u ∧ pkType b = 9 ∧ DevHits u 0 (u.queueOf 5).fn (u.queueOf 5).ctx .write 32 (pk b 0x18 8) 0x6000 ∧
      DevHits w 0 (u.queueOf 5).fn (u.queueOf 5).ctx .write 32 (pk b 0x18 8) 0x6000 ∧
      w.canWrite 0x6000 = true ∧ w.poisoned 0x6000 32 = false ∧ okB r.2 = (v == 0) ∧ (w.passPacket 0 1 5 1).farAsk = none := by
  intro v hv
  simp only [List.mem_cons, List.not_mem_nil, or_false] at hv
  obtain rfl | rfl := hv <;>
    exact ⟨serves_turn (by decide +kernel), by decide +kernel, devHits_of (by decide +kernel), devHits_of (by decide +kernel), by decide +kernel,
      by decide +kernel, by decide +kernel, by decide +kernel⟩
/-- No packet of these tests makes an access to another module. -/
theorem witness_Packets_done : ∀ x ∈ [(0, []), (4, [(9, 0x30), (0x18, 1)]), (5, [(4, 5)]), (0xC, [(4, 9)]), (6, [(4, 1), (9, 0x30)]),
      (3, [(4, 0x41), (9, 0x30), (0x10, 2)]), (2, tGangFields), (8, tCopyFields)],
    let u := tTurn (tServe {} x.1 4 x.2) 0 1 5 (tPkt x.1 4 x.2)
    (u.passPacket 0 1 5 1).farAsk = none ∧ (u.passPacket 0 1 5 0).farAsk = none ∧ u.poisoned 0x3000 8 = false := by decide +kernel
theorem witness_Packets_done_phase :
    let u := tTurn (tServe {} 0xC 4 [(4, 9)]) 0 1 5 (tPkt 0xC 4 [(4, 9)])
    (((u.modQueue 5 fun y => { y with marker := 9 }).cbPut 5 0x24 4 9).passPacket 0 1 5 1).farAsk = none := by decide +kernel
theorem witness_Packets_wait_met :
    let s := tServe {} 4 4 [(9, 0x30), (0x18, 1)]
    let b := tPkt 4 4 [(9, 0x30), (0x18, 1)]
    ((tTurn s 0 1 5 b).laneOf 0 1).waitMet = false ∧ ((tTurn s 0 1 5 b).readWait 5 b).2 = some true := by decide +kernel

/-- The command of unit 0 that waits, runs or has ended (0, 1, 2). -/
def tCellCmd (st : Nat) : CellCmd :=
  { pkt := 3, die := 0, queue := 5, slot := 0, fn := 0, ctx := 0, prio := 1, pb := tPb, mask := 1, record := 0x6000, parts := [(0, st, 0)],
    bases := [(0, 0, 0x4200000), (0, 3, 0x8400000)], outPages := [66], usePages := [33, 66], bad := none, held := [] }
def tUnits (st : Nat) (computing : List Nat) (bad : List Nat) : State :=
  { tQueue { enabled := true } [(0x4200003, 0x3F)] with cells := [(3, tCellCmd st)], dies := [(0, { computing := computing })], poison := bad }
/-- At the bounds of the frame lengths; and a unit with a waiting part, a running part and none. -/
theorem witness_CellarIntervals :
    let v := 255 * 65536 + 192
    let w := tUnits 0 [] []
    255 ≤ bits v 31 16 ∧ v % 65536 + 64 ≤ bits v 31 16 + 1 ∧ bits (v + 1) 31 16 + 1 < (v + 1) % 65536 + 64 ∧ bits (254 * 65536) 31 16 < 255 ∧
      (w.cellframeOf 0 0 % 65536 = 0) ∧ (({ w with dies := [(0, { cellframe := [(0, 0x0FFF0064)] })] } : State).cellframeOf 0 0 % 65536 ≠ 0) ∧
      w.runningOn 0 0 = none ∧ w.nextPart 0 0 = some 3 ∧ (w.cells.find? fun e => e.1 == 3) = some (3, tCellCmd 0) ∧
      ((tUnits 1 [] []).runningOn 0 0).isSome = true ∧ w.nextPart 0 1 = none := by decide +kernel
/-- A part that runs to its end, and one that meets a poisoned sector of In0. -/
theorem witness_CellarParts : ∀ bad ∈ [false, true],
    let s := tUnits 1 [0] (if bad then [0x4200000 / 32] else [])
    s.runningOn 0 0 = some (3, tCellCmd 1) ∧ s.stackOfUnit 0 ∈ (s.dieOf 0).computing ∧ s.stackOfUnit 0 ∉ ((tUnits 1 [] []).dieOf 0).computing ∧
      (s.runPart (tCellCmd 1) 0 (pbOutputs tPb) 0).2 = (if bad then (0, some (0, 0)) else (1, none)) ∧
      (∀ x ∈ State.readsOf tPb 0, s.poisoned (cellAt (tCellCmd 1) 0 x.1 x.2) (elemSize tPb x.1) = bad) ∧ State.readsOf tPb 0 = [(0, 0)] ∧
      ((tCellCmd 1).bases.find? fun x => x.1 == 0 && x.2.1 == 0) = some (0, 0, 0x4200000) ∧ cellAt (tCellCmd 1) 0 0 0 = 0x4200000 := by decide +kernel
theorem witness_CellarParts_complete :
    let s := tUnits 2 [] []
    let u : State := { s with cells := s.cells.del 3, tick := s.tick + 1 }
    (s.cells.find? fun e => e.1 == 3 && e.2.die == 0) = some (3, tCellCmd 2) ∧ (∀ p ∈ (tCellCmd 2).parts, p.2.1 = 2) ∧
      (∃ p ∈ (tCellCmd 1).parts, p.2.1 < 2) ∧ (u.canWrite 0x6000 = true ∧ u.poisoned 0x6000 32 = false ∧ (tCellCmd 2).bad = none) ∧ DevHits u 0 0 0 .write 32 (tCellCmd 2).record 0x6000 :=
  ⟨by decide +kernel, by decide +kernel, by decide +kernel, by decide +kernel, devHits_of (by decide +kernel)⟩

/-! ### Power, timers, page walks and parkings -/

theorem witness_GovernorAndTimers :
    let s := { tWithS { tSplit 0 with status := .waiting (.sleep 7) } with clock := 7 }
    let m := { tWithS { tSplit 0 with status := .waiting (.merge 7) } with clock := 1031 }
    (s.splOf 0 0 0).status = .waiting (.sleep 7) ∧ 7 ≤ s.clock ∧ (m.splOf 0 0 0).status = .waiting (.merge 7) ∧ 7 + 1024 ≤ m.clock := by decide +kernel
/-- At the bounds of the power cap, and a die that a sample finds. -/
theorem witness_PowerCapping : (∀ v ∈ [1000, 6000, 0x10000 + 6000], 1000 ≤ v % 65536 ∧ v % 65536 ≤ 6000) ∧
    (∀ v ∈ [999, 6001], v % 65536 < 1000 ∨ 6000 < v % 65536) ∧ State.reset.dies.has 0 = true := by decide

/-- Context 0 as the placement of a word maps it: one leaf of 1 GiB. -/
def tWalk (m : List Host.Cell) : State := { State.reset with mem := placeTables m, fns := [(0, { cfg := [(0, { ctxTable := 0x1000 })] })] }
/-- The tables that a walk of tWalk reads. -/
def tTab (k : Nat) : Nat := 0x2000 + 0x1000 * k
theorem witness_PageWalks :
    let s := tWalk []
    let ct := (s.fnBlock 0 0).ctxTable + 16 * 0
    let c := s.rdNum ct 8
    let e := fun (k : Nat) => s.rdNum (tTab k) 8
    s.poisoned ct 8 = false ∧ s.rdNum (ct + 8) 8 = 0 ∧ (∀ k, k < 2 → s.poisoned (tTab k) 8 = false ∧ s.localPa (tTab k) = tTab k) ∧
      s.heldPage (tTab 1) = false ∧ s.hostShared = [] ∧ bitOf c 7 = true ∧ (s.ctxOf 0 0).torn = false ∧ bits c 63 52 = 0 ∧ bits c 11 8 = 0 ∧ bits c 4 0 ≤ 17 ∧ bits c 6 5 < 2 ∧
      bits 5 55 39 < 2 ^ bits c 4 0 ∧ tTab 0 = pteAddr c ∧ bitOf (e 0) 0 = true ∧ bitOf (e 0) 6 = false ∧
      malformed s 0 (bits c 6 5) 0 0 (e 0) = false ∧ tTab 1 = pteAddr (e 0) ∧ bitOf (e 1) 0 = true ∧
      malformed s 0 (bits c 6 5) 1 0 (e 1) = false ∧ bitOf (e 1) 6 = true ∧ bitOf (e 1) 1 = true ∧ s.rangeOf (tTab 1) ≠ .host ∧
      s.tlbHit 0 none 0 0 5 .write = none ∧ ((tQueue {} []).tlbHit 0 none 0 0 5 .write).isSome = true := by decide +kernel
/-- The other ends of a walk: an entry that is not valid, not writable, or malformed; and a context that has been torn down. -/
theorem witness_PageWalks_ends :
    let s := fun (v : Nat) => tWalk (putBytes [] 0x4000 (toBytes 8 v))
    let e := fun (v : Nat) => (s v).rdNum 0x4000 8
    bitOf (e 0x72) 0 = false ∧ (bitOf (e 0x71) 1 = false ∧ malformed (s 0x71) 0 0 1 0 (e 0x71) = false) ∧
      (bitOf (e 0x77) 0 = true ∧ malformed (s 0x77) 0 0 1 0 (e 0x77) = true) ∧
      (({ fns := [(0, { ctxs := [(0, { torn := true })] })] } : State).ctxOf 0 0).torn = true ∧
      ({ tWalk [] with poison := [0x80] } : State).poisoned 0x1000 8 = true ∧ ({ tWalk [] with poison := [0x180] } : State).poisoned 0x3000 8 = true ∧
      ({ tWalk [] with poison := [0x180] } : State).poisoned 0x2000 8 = false := by decide +kernel
/-- A leaf in the expander range, and an extent of state 3 that holds its address. -/
theorem witness_PageWalks_lost :
    let e := 2 * 2 ^ 58 + 2 ^ 48 + 0x73
    let m := putBytes (putBytes (putBytes (putBytes [] 0x9000 (toBytes 8 (2 ^ 48))) 0x9008 (toBytes 8 (2 ^ 30))) 0x9012 (toBytes 1 3)) 0x4000 (toBytes 8 e)
    let s := { tWalk m with fabric := putBytes [] 0x10 (toBytes 8 0x9000) }
    s.rdNum 0x4000 8 = e ∧ s.extentLost (pteAddr e) = true ∧ bits e 59 58 = 2 ∧ bitOf e 0 = true ∧ bitOf e 6 = true ∧
      malformed s 0 0 1 0 e = false := by decide +kernel

/-- An unresolved parking: of a split, of an engine queue, or of the matrix stream of block 0. -/
def tParked (who : Parker) (x : Split) : State :=
  { tWithS x with
    parks := [(7, { fn := 0, die := 0, who := who, poison := false, va := 0x100, lanes := 1 })]
    grids := [(0, { trapEntry := some 0x40, code := 0x10000 })] }
theorem witness_Parkings :
    let s := tParked (.split 0 0 0) { tSplit 0 with status := .parked 7 }
    let q := tParked (.queue 0 0 1) (tSplit 0)
    let m := tParked (.stream 0) (tSplit 0)
    s.parks.has 7 = true ∧ (s.parkOf 7).fn = 0 ∧ (s.parkOf 7).die = 0 ∧ (s.parkOf 7).who = .split 0 0 0 ∧
      (s.splOf 0 0 0).status = .parked 7 ∧ (s.splOf 0 0 0).frame = none ∧
      (s.gridOf (s.blkOf 0).grid).trapEntry = some 0x40 ∧ (q.parkOf 7).who = .queue 0 0 1 ∧ (m.parkOf 7).who = .stream 0 ∧
      s.parks.has 6 = false := by decide +kernel
theorem witness_Parkings_fetch :
    let s := tParked (.split 0 0 0) { tSplit 0 with status := .parked 7 }
    let u := { s with parks := s.parks.del 7 }
    (u.gridOf (u.blkOf 0).grid).codeCopy = none ∧ (u.splOf 0 0 0).loads = none ∧ HitsIn u 0 .fetch 4 ((u.gridOf (u.blkOf 0).grid).code + (s.splOf 0 0 0).pc) 0x10004 :=
  ⟨by decide +kernel, by decide +kernel, hitsIn_of (by decide +kernel)⟩
/-- A message that met poison: the split that waits for it has parked. -/
theorem witness_Parkings_access :
    let s := { tParked (.access 9) { tSplit 0 with status := .parked 7 } with
      remotes := [(9, { op := some 4, blk := 0, grp := 0, lane := 0, va := 0x100, ctx := 0, fn := 0, pa := 0, req := .read 4, regs := [1], sb := none, retried := false, engine := none, die := 0, far := false, behind := false })] }
    (s.parkOf 7).who = .access 9 ∧ s.remotes.has 9 = true ∧
      ((s.grpOf 0 0).splits.find? fun y => y.2.status == .parked 7) = some (0, { tSplit 0 with status := .parked 7 }) := by decide +kernel

/-- A function with n outstanding translation commands of die 0. -/
def tCmds (n : Nat) : State := { tQueue {} [] with fns := [(0, { trCmds := (List.range n).map fun i => (0, 0, 8 * i) })] }
theorem witness_TranslationCommands :
    let few := fun (n : Nat) => decide ((((tCmds n).fnOf 0).trCmds.filter fun c => c.1 == 0).length < 8)
    few 7 = true ∧ few 8 = false ∧ 63 ≤ 63 ∧ 0x3000 % 8 = 0 ∧ 0x1000 % 4096 = 0 ∧ 64 % 64 = 0 ∧ 128 + 64 ≤ 8 * (tCmds 0).bitmapBytes ∧
      8 * (tCmds 0).bitmapBytes < 8 * (tCmds 0).bitmapBytes + 64 ∧
      ((tCmds 3).fnOf 0).trCmds.find? (fun c => c.1 == 0) = some (0, 0, 0) ∧
      (∀ x ∈ (tCmds 3).ctxGroups 0 0, ((tCmds 3).grpOf x.1 x.2).sb = []) ∧ (tCmds 3).accessUnderWay 0 0 = false ∧
      ({ tCmds 3 with remotes := [(9, { op := none, blk := 0, grp := 0, lane := 0, va := 0, ctx := 0, fn := 0, pa := 0, req := .read 4, regs := [], sb := none, retried := false, engine := none, die := 0, far := false, behind := false })] } : State).accessUnderWay 0 0 = true ∧ ((tCmds 0).fnOf 0).trCmds = [] := by decide +kernel
theorem witness_TranslationCommands_hits :
    DevHits (tCmds 0) 0 0 0 .write (64 / 8) 0x3000 0x3000 ∧ DevHits (tCmds 8) 0 0 0 .write 8 0x3000 0x3000 ∧
      DevHits ((tCmds 3).modFn 0 fun f => { f with trCmds := f.trCmds.erase (0, 0, 0) }) 0 0 0 .write 8 0 0 :=
  ⟨devHits_of (by decide +kernel), devHits_of (by decide +kernel), devHits_of (by decide +kernel)⟩

/-- No window bays, and then 32 with 24 of compute: at the bounds of what MEMCFG takes, and beyond them. -/
theorem witness_MemoryConfiguration :
    let good := fun (v : Nat) => bits v 21 16 ≤ 32 ∧ bits v 13 8 ≤ 56 ∧ bits v 21 16 + bits v 13 8 ≤ 56 ∧ (State.reset.dieOf 0).memBusy = false ∧
      ∀ b, 64 - bits v 21 16 ≤ b → b < 64 - (State.reset.dieOf 0).windowBays → ((State.reset.dieOf 0).bays.get {} b).mode ≠ 2
    good 0x201800 ∧ (State.reset.dieOf 0).windowBays = 0 ∧ 32 < bits 0x211700 21 16 ∧ 56 < bits 0x201900 21 16 + bits 0x201900 13 8 ∧
      (State.reset.rangeOf 0x1000 ≠ .none) ∧ State.reset.rangeOf (2 ^ 50 + 2 ^ 39) = .none := by
  refine ⟨⟨by decide, by decide, by decide, by decide, fun b _ _ => by simp [State.reset, State.dieOf, Tab.get]⟩, by decide +kernel, by decide,
    by decide, by decide +kernel, by decide +kernel⟩

/-! ### Links, other modules, the host and expanders -/

def tFlit (kind seq ack : Nat) : Flit := { kind := kind, seq := seq, ack := ack, credits := 0, payload := [] }
/-- Link 1 of die 0 with a LINKSTAT, the flits that it holds, and a next number to receive. -/
def tLink (w : Word) (tx : List Flit) (rx : Word) : State := { dies := [(0, { linkstat := [(1, w)], linkTx := [(1, tx)], linkRx := [(1, rx)] })] }
theorem witness_Links :
    let s := tLink 0x80000007 [tFlit 0 3 0, tFlit 0 4 0, tFlit 0 5 0] 1023
    let t := tLink 0x400000FF [] 0
    s.isExpander = false ∧ ({ lpddr := some (2 ^ 38) } : State).isExpander = true ∧ s.linkSends 0 1 = true ∧ t.linkSends 0 1 = false ∧ ((s.dieOf 0).linkRx.get 1).toNat % 1024 = 1023 ∧
      s.linkBuf 0 1 = [tFlit 0 3 0] ++ tFlit 0 4 0 :: [tFlit 0 5 0] ∧ (∀ y ∈ [tFlit 0 3 0], y.seq ≠ 4) ∧ (s.dieOf 0).replays.get [] 1 = [] ∧
      ((s.dieOf 0).linkctl.get 1).getLsbD 30 = false ∧ s.linkTrains 0 1 = false ∧ t.linkTrains 0 1 = true ∧ t.linkIsUp 0 1 = false ∧
      t.linkBuf 0 1 = [] ∧ bitOf 0x40000000 30 = true ∧ bitOf 0 30 = false := by decide +kernel
/-- The check bytes of a flit agree with its other bytes. -/
theorem fecGood_sealed (a : List Byte) (h : a.length = 250) (i : Nat) (hi : i < 3) : fecGood i (a ++ fecBytes a) = true := by
  have code : fecCode i (a ++ fecBytes a) = fecCode i a := by
    unfold fecCode
    refine List.map_congr_left fun k hk => ?_
    rw [List.mem_range] at hk
    rw [List.getD_eq_getElem?_getD, List.getElem?_append_left (by omega), ← List.getD_eq_getElem?_getD]
  have two : fecCheck i a = [(fecCheck i a).getD 0 0, (fecCheck i a).getD 1 0] := by
    unfold fecCheck
    rcases Config.rsCheck (fecCode i a) with _ | ⟨x, _ | ⟨y, t⟩⟩ <;> rfl
  have same : fecCheck i (a ++ fecBytes a) = fecCheck i a := by unfold fecCheck; rw [code]
  unfold fecGood
  rw [same, List.getD_eq_getElem?_getD, List.getElem?_append_right (by omega), List.getD_eq_getElem?_getD,
    List.getElem?_append_right (by omega), h, beq_iff_eq]
  conv => lhs; rw [two]
  obtain rfl | rfl | rfl : i = 0 ∨ i = 1 ∨ i = 2 := by omega
  all_goals rfl
/-- A body of zeros, whose CRC is 0: its bytes with the check bytes, and those of a CRC of 1. -/
theorem witness_Links_flit : ∀ c ∈ [0, 1],
    let a : List Byte := List.replicate 242 0 ++ toBytes 8 c
    let bs := a ++ fecBytes a
    bs.length = 256 ∧ (∀ i, i < 3 → fecGood i bs = true) ∧ bs.take 242 = List.replicate 242 0 ∧
      ((bs.drop 242).take 8 = toBytes 8 c) ∧ (ofBytes (toBytes 8 c) = (crc64 (List.replicate 242 0)).toNat ↔ c = 0) := by
  intro c hc
  have hl : (List.replicate 242 (0 : Byte) ++ toBytes 8 c).length = 250 := by
    rw [List.length_append, List.length_replicate]; rfl
  refine ⟨by rw [List.length_append, hl]; rfl, fecGood_sealed _ hl, ?_, ?_, ?_⟩
  · rw [List.append_assoc]; exact List.take_left' List.length_replicate
  · rw [List.append_assoc, List.drop_left' List.length_replicate]; exact List.take_left' (show (toBytes 8 c).length = 8 from rfl)
  · have z : crc64 (List.replicate 242 0) = 0 := by decide +kernel
    rw [z]
    simp only [List.mem_cons, List.not_mem_nil, or_false] at hc
    obtain rfl | rfl := hc <;> decide +kernel
/-- Lanes that fail at the end of training: none, one of the low half, one of the high half, and one of each. -/
theorem witness_Links_training : ∀ v ∈ [0, 0x01, 0x80, 0x81],
    let bad := (BitVec.ofNat 8 v &&& BitVec.ofNat 8 (State.lanesInUse 0)).toNat
    bad = v ∧ (bad ≠ 0 ∧ bad / 16 = 0 ↔ v = 1) ∧ (bad ≠ 0 ∧ bad % 16 = 0 ↔ v = 0x80) ∧ (tLink 0x40000000 [] 0).linkTrains 0 1 = true := by
  decide +kernel

/-- Module 2, whose import table at 0x1000 admits module 1, partition 0, to the first 4 KiB for all kinds of access; module 1 lies behind
port 0. -/
def tFab : State :=
  { mem := putBytes (putBytes (putBytes (putBytes [] 0x1008 (toBytes 2 0x1000)) 0x1010 (toBytes 2 1)) 0x1014 (toBytes 1 0xF)) 0x20002 [1]
    fabric := [(2, 2), (9, 0x10), (0x18, 2), (0x41, 1)]
    dies := [(0, { portcfg := 1, linkstat := [(0, 0x80000000)] })] }
def tMsg (op : RemoteOp) (off : Nat) : RemoteMsg := { id := 9, srcModule := 1, partition := 0, dest := 2, offset := off, op := op }
/-- Reads and writes at the last bytes of the range, an atomic, and a read beyond the range. -/
theorem witness_RemoteHome :
    tFab.fab 0x18 2 = 2 ∧ tFab.admits (tMsg (.read 8) 0xFF8) = some 0 ∧ tFab.admits (tMsg (.write [1, 2]) 0xFFE) = some 0 ∧
      tFab.admits (tMsg (.atomic .cas 8 1 2) 8) = some 0 ∧ tFab.admits (tMsg (.addList false 4 [1, 2]) 8) = some 0 ∧
      tFab.admits (tMsg (.read 8) 0xFF9) = none ∧ ((tFab.dieOf 0).migctl.get 0).getLsbD 0 = false ∧ tFab.poisoned 8 8 = false ∧
      tFab.canWrite 8 = true ∧ tFab.heldPage 8 = false ∧ tFab.chanBusy 8 = false ∧
      (∀ op ∈ [RemoteOp.read 8, .write [1], .runs [(0, [1]), (4, [2])], .atomic .cas 8 1 2, .addList true 4 [1]],
        tFab.hasAhead { pa := 8, op := op, who := .msg 9 1, fn := 0 } = false) := by decide +kernel
theorem witness_RemoteHome_waits :
    let q := { tFab with dies := [(0, { migctl := [(0, 1)] })] }
    let h := { tFab with cells := [(3, { tCellCmd 1 with outPages := [0] })] }
    let r : HeldReq := { pa := 8, op := .read 8, who := .msg 9 1, fn := 0 }
    ((q.dieOf (8 / 2 ^ 37)).migctl.get 0).getLsbD 0 = true ∧ h.heldPage 8 = true ∧ h.holdCount 8 < 64 ∧
      ({ tFab with snoopHeld := [{ pa := 8, op := .write [1], who := .msg 7 1, fn := 0 }] } : State).hasAhead r = true ∧
      ({ tFab with poison := [0] } : State).poisoned 8 8 = true := by decide +kernel

/-- Message 9 of lane 0 of a group, for operation 4, for store buffer entry 4, or for an engine queue. -/
def tRemote (op sb engine : Option Nat) (retried : Bool) (pa : Nat) : State :=
  { tWith { tGroup 0 with sb := [{ id := 4, writes := [{ lane := 0, scr := false, at_ := pa, bytes := [1], rmw := none, tok := some 9 }] }], unacked := 1 } with
    remotes := [(9, { op := op, blk := 0, grp := 0, lane := 0, va := 0x100, ctx := 0, fn := 0, pa := pa, req := .read 4, regs := [1], sb := sb,
                      retried := retried, engine := engine, die := 0, far := false, behind := false, stale := retried })]
    ops := [(4, { remote := 1 })] }
theorem witness_RemoteSource :
    let o := tRemote (some 4) none none false 0x4010000000100
    (∀ e ∈ o.remotes, e.2.behind = false) ∧ (o.remoteOf 9).behind = false ∧ (o.remoteOf 9).far = false ∧
      (o.splOf 0 0 (o.splitOf (o.remoteOf 9))).status = .ready ∧ o.remotes.has 9 = true ∧ (o.remoteOf 9).retried = false ∧ o.accessParked 9 = false ∧ o.hasGroup 0 0 = true ∧
      (o.remoteOf 9).op = some 4 ∧ o.ops.has 4 = true ∧ o.linkTrains (((o.routePort 0x4010000000100).getD 0) / 4) 0 = false ∧
      ((tRemote none (some 4) none false 0).remoteOf 9).sb = some 4 ∧ ((tRemote none none (some 1) false 0).remoteOf 9).engine = some 1 ∧
      o.remotes.has 8 = false := by decide +kernel
/-- A message that a Retry turned away, sent again: to local memory, or to the other module. -/
theorem witness_RemoteSource_resend :
    let s := tRemote (some 4) none none true 0x100
    (s.remoteOf 9).retried = true ∧ (s.remoteOf 9).engine = none ∧ (s.remoteOf 9).stale = true ∧ (s.remoteOf 9).far = false ∧
      (s.blkOf 0).life ≠ .saved ∧ ((tRemote (some 4) none none false 0x100).remoteOf 9).stale = false ∧ s.tlbHit 0 (some 0) 0 0 0x100 (State.reqAcc (s.remoteOf 9)) = some tTlb ∧
      s.reachPa 0 0x100 (reqBytes (.read 4)) (State.reqReads (.read 4)) = .ok 0x100 ∧ 
      tFab.reachPa 0 0x4010000000100 (reqBytes (.read 4)) (State.reqReads (.read 4)) = .remote 0x4010000000100 ∧
      tFab.routePort (2 ^ 50 + 1 * 2 ^ 40 + 0x100) = some 0 := by decide +kernel

/-- One GiB of local memory is exposed, from 2^30 on. -/
def tHdm : State := { State.reset with hdmcfg := 0x10001 }
/-- Unit 0 of die 0 runs a part, and stack 0 is in a compute interval. -/
def tBusyChan : State := { State.reset with hdmcfg := 0x10000, dies := [(0, { computing := [0] })], cells := [(3, tCellCmd 1)] }
theorem witness_HostPort :
    let size := bits tHdm.hdmcfg.toNat 25 16 * 2 ^ 30
    (∀ addr ∈ [2 ^ 39, 2 ^ 39 + 2 ^ 30 - 8], 2 ^ 39 ≤ addr ∧ addr - 2 ^ 39 + 8 ≤ size) ∧ ¬(2 ^ 39 + 2 ^ 30 - 7 - 2 ^ 39 + 8 ≤ size) ∧
      ¬(2 ^ 39 ≤ 2 ^ 26 - 1) ∧ tHdm.heldPage (2 ^ 30) = false ∧ tHdm.chanBusy (2 ^ 30) = false ∧ (∀ l ∈ State.linesOf (2 ^ 30) 300, tHdm.chanBusy (128 * l) = false) ∧
      (∃ l ∈ State.linesOf 0 300, tBusyChan.chanBusy (128 * l) = true) ∧ State.pageOf (2 ^ 38) = none ∧
      State.pageOf (2 ^ 41 + 64 * 2 ^ 14 + 8) = some (0, 1, 8) ∧ tHdm.hasAhead { pa := 2 ^ 30, op := .write [1], who := .inbound, fn := 64 } = false ∧
      (∀ f ∈ tHdm.fns, ∀ c ∈ f.2.ctxs, c.2.torn = false) ∧ bits 0x0FF0101 25 16 + bits 0x0FF0101 9 0 ≤ 512 ∧
      512 < bits 0x1000101 25 16 + bits 0x1000101 9 0 ∧ 3 % 4 = 3 := by decide +kernel
theorem witness_HostPort_snoops :
    let s : State := { snoops := [5], hostShared := [5, 6] }
    5 ∈ s.snoops ∧ 6 ∉ s.snoops ∧ s.snoopHeld = [] := by decide +kernel
/-- An aperture that allows writes, one that does not, and one that is closed. -/
def tAperture (fl : BitVec 8) : State :=
  let x : FnBlock := { apFlags := fl, apBase := 0x200000, apCtx := 0 }
  { tQueue {} [] with fns := [(0, { cfg := [(0, x), (1, x), (2, x), (3, x)] })] }
theorem witness_HostPort_aperture :
    (∀ fl ∈ [1#8, 3], ((tAperture fl).fnBlock 0 0).apFlags.getLsbD 0 = true ∧ ((tAperture fl).fnBlock 0 0).apFlags.getLsbD 1 = decide (fl = 3)) ∧
      ((tAperture 0).fnBlock 0 0).apFlags.getLsbD 0 = false ∧ 2 ^ 36 - 8 + 8 ≤ 2 ^ 36 ∧ ¬(2 ^ 36 - 7 + 8 ≤ 2 ^ 36) ∧
      (tAperture 3).canWrite 0x200100 = true ∧ (tAperture 3).hasAhead { pa := 0x200100, op := .write [1], who := .inbound, fn := 0 } = false ∧
      (∀ e, e < (if (tAperture 3).isExpander then 1 else 4) → (tAperture 3).fnBlock 0 e = (tAperture 3).fnBlock 0 0) := by decide +kernel
theorem witness_HostPort_aperture_hits :
    let s := tAperture 3
    DevHits s 0 0 (s.fnBlock 0 0).apCtx .read 8 ((s.fnBlock 0 0).apBase + 0x100) 0x200100 ∧
      DevHits s 0 0 (s.fnBlock 0 0).apCtx .write 8 ((s.fnBlock 0 0).apBase + 0x100) 0x200100 :=
  ⟨devHits_of (by decide +kernel), devHits_of (by decide +kernel)⟩

/-- Extent 0 is in state 1, for function 0, at port 3. -/
def tExtent : State :=
  { tState 0 with mem := putBytes (putBytes (putBytes [] 0x1008 (toBytes 2 0x1000)) 0x1010 (toBytes 1 3)) 0x1012 (toBytes 1 1)
                  fabric := [(0x11, 0x10)] }
theorem witness_Expanders :
    tExtent.heldReqs = [] ∧ 8 ≤ 8 + 0 ∧ tExtent.extentsOf 3 = [0] ∧ tExtent.extentsOf 2 = [] ∧ tExtent.extentFn 0 = 0 ∧ (∀ y ∈ tExtent.allGroups, (tExtent.grpOf y.1 y.2).sb = []) ∧
      (∀ t ∈ tExtent.tasks, t.expander ≠ 3) := by decide +kernel
theorem witness_Expanders_viral :
    let x := tExtent.blkOf 0
    tExtent.blocks = [(0, x)] ∧ x.live = true ∧ (tExtent.gridOf x.grid).fn = tExtent.extentFn 0 ∧ (tExtent.gridOf x.grid).ctx < 64 ∧
      (x.groups.find? fun z => !z.2.ended) = some (0, tGroup 0) := by decide +kernel

/-! ### Tasks, the mailbox, retirement, interruption and contexts -/

def tSession : Session :=
  { id := 4, expander := 3, key := [], tasks := 0, fn := 0, ctx := 0, lastSeq := 6, open_ := true, remoteSide := false }
/-- TASK number 7 of session 4 of expander 3. -/
def tTaskFields : Cells 8 := [(4, 3), (8, 7), (0x10, 4)]
def tTask (ks : List Session) : State := { (tServe {} 0xA 16 tTaskFields).modQueue 5 fun x => { x with writeIdx := 4 } with sessions := ks }
theorem witness_Tasks : ∀ ks ∈ [[], [tSession], [{ tSession with ctx := 1 }]],
    let b := tPkt 0xA 16 tTaskFields
    let u := tTurn (tTask ks) 0 1 5 b
    Serves (tTask ks) 0 1 5 b u ∧ pkType b = 0xA ∧ u.sessionOf (pk b 4 2) (pk b 0x10 4) false = ks.head? ∧ (u.queueOf 5).fn = 0 ∧
      (u.queueOf 5).ctx = 0 ∧ (u.queueErr 5 0x0F 1).farAsk = none ∧ (u.passPacket 0 1 5 4).farAsk = none := by
  intro ks hk
  simp only [List.mem_cons, List.not_mem_nil, or_false] at hk
  obtain rfl | rfl | rfl := hk <;>
    exact ⟨serves_turn (by decide +kernel), by decide +kernel, by decide +kernel, by decide +kernel, by decide +kernel⟩
theorem witness_Tasks_return :
    let t : TaskOut := { pkt := 9, expander := 3, session := 4, seq := 7 }
    let s : State := { sessions := [tSession], tasks := [t] }
    (s.tasks.find? fun t => t.session == 4 && t.seq == 7) = some t ∧ s.sessionOf 3 4 false = some tSession ∧ ∀ t ∈ s.tasks, t.session ≠ 5 := by
  decide +kernel
/-- An expander that has no session with the sender, and one whose session has taken the number before. -/
theorem witness_Tasks_receive : ∀ ks ∈ [[], [{ tSession with remoteSide := true, lastSeq := 7 }]],
    let s : State := { lpddr := some (2 ^ 38), sessions := ks }
    s.isExpander = true ∧ s.fullOn 0 = false ∧ State.reset.isExpander = false ∧ s.sessionOf 3 (pk (tPkt 0xA 16 tTaskFields) 0x10 4) true = ks.head? ∧
      pk (tPkt 0xA 16 tTaskFields) 8 8 = 7 := by decide +kernel

/-- The request of OPEN_TASK_SESSION at 0x3000: expander 3, contexts 0, functions 0, with a list of one key at 0x4000. -/
def tMail : State :=
  { tQueue {} (putBytes (putBytes (putBytes [] 0x3000 [3]) 0x3009 [0x40]) 0x4000 [1]) with sessions := [{ tSession with id := 3 }] }
theorem witness_Mailbox :
    (tMail.canWrite 0x6000 = true ∧ tMail.canWrite 0x7000 = true) ∧ DevHits tMail 0 0 0 .write 4 0x6000 0x6000 ∧ DevHits tMail 0 0 0 .write 8 0x7000 0x7000 ∧ DevHits tMail 0 0 0 .read 64 0x3000 0x3000 ∧
      0x7000 % 8 = 0 ∧ 0x7004 % 8 ≠ 0 ∧ DevHits tMail 0 0 0 .read 4 0x3000 0x3000 ∧ tMail.rdNum 0x3000 4 = 3 ∧
      (∃ k ∈ tMail.sessions, k.id = 3 ∧ k.open_ = true) ∧ (∀ t ∈ tMail.tasks, t.session ≠ 3) :=
  ⟨by decide +kernel, devHits_of (by decide +kernel), devHits_of (by decide +kernel), devHits_of (by decide +kernel), by decide, by decide,
    devHits_of (by decide +kernel), by decide +kernel, by decide +kernel, by decide +kernel⟩
theorem witness_Mailbox_open :
    let f := fun off n => tMail.rdNum (0x3000 + off) n
    DevHits tMail 0 0 0 .read 16 0x3000 0x3000 ∧ DevHits tMail 0 0 0 .read 4 (f 8 8) 0x4000 ∧ tMail.rdNum 0x4000 4 = 1 ∧
      DevHits tMail 0 0 0 .read (64 * 1) (f 8 8 + 4) 0x4004 ∧ f 5 1 ≤ 63 ∧ f 4 1 ≤ 63 ∧ f 2 2 ≤ 63 ∧ f 6 2 ≤ 63 ∧
      (tMail.sessions.filter fun k => k.expander == f 0 2 && k.open_).length < 256 :=
  ⟨devHits_of (by decide +kernel), devHits_of (by decide +kernel), by decide +kernel, devHits_of (by decide +kernel), by decide +kernel,
    by decide +kernel, by decide +kernel, by decide +kernel, by decide +kernel⟩

/-- A block whose one group has ended, in a grid all of whose blocks have retired but this one. -/
def tDone (y : Grid) : State := { tQueue {} [] with blocks := [(0, { life := .running, groups := [(0, { lanes := 1 })] })], grids := [(0, y), (1, {})] }
theorem witness_Retirement :
    (tDone {}).drained 0 = true ∧ ((tDone {}).blkOf 0).writing = [] ∧ ((tDone {}).fnOf 0).profile.get 0 0 = 0 ∧
      ((tDone {}).blkOf 0).groups ≠ [] ∧ (tState 0).drained 0 = false := by decide +kernel
theorem witness_Retirement_grid : ∀ y ∈ [({} : Grid), { parent := some 1 }, { signal := 0x3000, signalValue := 5 }],
    let s := tDone y
    s.grids.has 0 = true ∧ s.gridOf 0 = y ∧ y.retired = false ∧ y.blocksLeft = 0 ∧ y.children = 0 ∧ s.slotsRead 0 = true ∧ s.gridWrites 0 = false ∧
      y.expander = none ∧ s.gangs = [] ∧ s.far = [] ∧ s.canWrite 0x3000 = true ∧ s.poisoned 0x3000 8 = false := by decide +kernel
theorem witness_Retirement_signal : DevHits (tDone { signal := 0x3000, signalValue := 5 }) 0 0 0 .write 8 0x3000 0x3000 :=
  devHits_of (by decide +kernel)

theorem witness_Interruption :
    let s := tState 0
    let x := s.blkOf 0
    let y := s.grpOf 0 0
    x.life = .running ∧ (1 &&& y.capable &&& ~~~y.dead) ≠ 0 ∧ (2 &&& y.capable &&& ~~~y.dead) = 0 ∧ y.fails = [] ∧ y.ended = false ∧
      (s.gridOf x.grid).restartable = false ∧ (({ grids := [(0, { restartable := true })] } : State).gridOf 0).restartable = true ∧
      x.writing = [] ∧ ((tDone {}).blkOf 1).life ≠ .running := by decide +kernel
/-- A block that is asked to give up its core; save gives the save area of its context. -/
def tPreempt (k : PreemptCause) (save : DWord) : State :=
  { tState 0 with blocks := [(0, { life := .running, preempt := some k, groups := [(0, { tGroup 0 with splits := [(0, { tSplit 0 with left := 0 })] })] })], l2tlb := [(0, [tTlb])],
                  fns := [(0, { ctxs := [(0, { save := save })] })] }
theorem witness_Interruption_preempt :
    let s := tPreempt .gangHold 0
    State.resident (s.blkOf 0) = true ∧ (s.blkOf 0).preempt = some .gangHold ∧
      s.spanMates 0 = [0] ∧ s.canHalt 0 (PreemptCause.gangHold == .contextSave && s.draining 0 0) = true ∧ (s.stopLoft 0).loftRuns 0 = false ∧
      (∀ z ∈ (((s.stopLoft 0).drainAll 0).blkOf 0).groups, z.2.sb = []) ∧ (s.gridOf (s.blkOf 0).grid).restartable = false ∧
      ((s.stopLoft 0).saveBlock 0 (State.causeOf .gangHold) (1 <<< ((s.stopLoft 0).blkOf 0).die)).isNone = true ∧ ((tState 0).blkOf 0).preempt = none := by
  decide +kernel
/-! A save area in local memory takes a record. -/
/-- Local memory without a cellar command, translated by the TLB of the tests. -/
def Low (s : State) : Prop := s.l2tlb = [(0, [tTlb])] ∧ s.lpddr = none ∧ s.cells = [] ∧ s.poison = []
theorem run_hits {s : State} (h : Low s) : ∀ k va n, va + n ≤ 2 ^ 30 →
    ∃ l, s.translateRun 0 0 0 .write k va n = (s, .ok l) ∧ ∀ p ∈ l, p.1 < 2 ^ 30
  | 0, _, _, _ => ⟨[], rfl, by simp⟩
  | k + 1, va, n, hn => by
    unfold State.translateRun
    by_cases h0 : n = 0
    · exact ⟨[], by simp [h0], by simp⟩
    · obtain ⟨l, hl, hp⟩ := run_hits h k (va + min n (4096 - va % 4096)) (n - min n (4096 - va % 4096)) (by omega)
      have hv : va < 2 ^ 30 := by omega
      have ht : s.translate 0 none 0 0 va .write = (s, .ok va) := by
        simp only [State.translate, tTlb_hit h.1 hv .write]
        simp only [tTlb, AccType.writes, Bool.not_true, Bool.and_false, Bool.false_eq_true, if_false]
        rw [Nat.zero_add, Nat.mod_eq_of_lt hv]
      rw [if_neg h0, ht]
      simp only [hl]
      exact ⟨_, rfl, List.forall_mem_cons.2 ⟨hv, hp⟩⟩
theorem ask_low {s : State} (h : Low s) (a : FarAsk) : Low (s.ask a) := by unfold State.ask; split <;> exact h
theorem claim_low {s : State} (h : Low s) (pa n : Nat) : Low (s.claim pa n) := by
  unfold State.claim
  generalize State.linesOf pa n = l
  induction l generalizing s with
  | nil => exact h
  | cons x l ih =>
    refine ih (s := s.claimLine x (max pa (128 * x))) ?_
    unfold State.claimLine
    split
    · exact ask_low h _
    · split
      · exact ask_low h _
      · exact h
theorem holdReq_low {s : State} (h : Low s) (r : HeldReq) : Low (s.holdReq r) := by
  unfold State.holdReq
  rw [h.2.2.1]
  exact h
theorem wr_low {s : State} (h : Low s) (fn pa : Nat) (bs : List Byte) : Low (s.wr fn pa bs) := by
  have hm : Low (s.markDirty fn pa) := by
    unfold State.markDirty
    split
    · unfold State.orByte
      split
      · exact holdReq_low h _
      · exact claim_low h _ 1
    · exact h
  have ht : Low ((s.markDirty fn pa).tlpWrite pa bs) := by unfold State.tlpWrite; split <;> exact hm
  refine ⟨ht.1, ht.2.1, ht.2.2.1, ?_⟩
  show List.filter _ ((s.markDirty fn pa).tlpWrite pa bs).poison = []
  rw [ht.2.2.2]; rfl
theorem homeWrites_low (fn : Nat) (who : Asker) : ∀ (k : Nat) {s : State} (_ : Low s) (pa : Nat) (bs : List Byte),
    Low (s.homeWrites fn who k pa bs).1
  | 0, _, h, _, _ => h
  | k + 1, s, h, pa, bs => by
    unfold State.homeWrites
    split
    · exact h
    · have h1 : ∀ b, Low (s.homeWrite fn pa b who).1 := fun b => by
        unfold State.homeWrite; split
        · exact holdReq_low h _
        · exact wr_low (claim_low h _ _) fn pa b
      exact homeWrites_low fn who k (h1 _) _ _
theorem devTarget_low {s : State} (h : Low s) (fn : Nat) {p : Nat × Nat} (hp : p.1 < 2 ^ 30) : s.devTarget fn p = some (p.1, false) := by
  unfold State.devTarget
  rw [reachPa_low h.2.1 h.2.2.1 h.2.2.2 (by omega)]
theorem writePieces_low (fn : Nat) (who : Asker) : ∀ (l : List (Nat × Nat)) {s : State} (bs : List Byte), Low s → (∀ p ∈ l, p.1 < 2 ^ 30) →
    (s.writePieces 0 fn who l bs).2.1 = true ∧ Low (s.writePieces 0 fn who l bs).1
  | [], _, _, h, _ => ⟨rfl, h⟩
  | p :: l, s, bs, h, hp => by
    unfold State.writePieces
    rw [devTarget_low h fn (hp p (List.mem_cons_self ..))]
    exact writePieces_low fn who l (bs.drop p.2) (homeWrites_low fn who (p.2 / 128 + 2) h p.1 (bs.take p.2)) fun q hq => hp q (List.mem_cons_of_mem _ hq)
theorem devWrite_low {s : State} (h : Low s) (va : Nat) (bs : List Byte) (hb : va + bs.length ≤ 2 ^ 30) :
    ∃ u, s.devWrite 0 0 0 va bs = (u, true) ∧ Low u := by
  obtain ⟨l, hl, hp⟩ := run_hits h (bs.length / 4096 + 2) va bs.length hb
  have hwait : (l.any fun p => s.reachPa 0 p.1 p.2 false == .wait) = false := List.any_eq_false.2 fun p hm => by
    rw [reachPa_low h.2.1 h.2.2.1 h.2.2.2 (by have := hp p hm; omega)]; exact Bool.false_ne_true
  have hall : (l.all fun p => (s.devTarget 0 p).isSome) = true := List.all_eq_true.2 fun p hm => by
    rw [devTarget_low h 0 (hp p hm)]; rfl
  have w := writePieces_low 0 .nobody l bs h hp
  have hd : s.devStore 0 0 0 va bs .nobody = s.writePieces 0 0 .nobody l bs := by
    unfold State.devStore
    simp only [hl, hwait, hall, if_true, Bool.false_eq_true, if_false]
  exact ⟨_, by unfold State.devWrite; rw [hd, ← w.1], w.2⟩
theorem writePages_low : ∀ (ps : List Nat) {s : State} (_ : Low s) (base : Nat) (bs : List Byte), base ≤ 2 ^ 29 → (∀ p ∈ ps, p ≤ 4096) →
    ∃ u, s.writePages 0 0 0 base ps bs = (u, true)
  | [], s, _, _, _, _, _ => ⟨s, rfl⟩
  | p :: t, s, h, base, bs, hb, hp => by
    have hq := hp p (List.mem_cons_self ..)
    have hl := List.length_take_le 4096 bs
    obtain ⟨u, hu, hw⟩ := devWrite_low h (base + 4096 * p) (bs.take 4096) (by omega)
    obtain ⟨v, hv⟩ := writePages_low t hw base (bs.drop 4096) hb fun q m => hp q (List.mem_cons_of_mem _ m)
    exact ⟨v, by unfold State.writePages; rw [hu]; exact hv⟩
/-- A save area of 16 MiB at 4096 takes the block. -/
theorem witness_Interruption_saved : ∃ t, (tPreempt .gangHold 0x1001).saveBlock 0 4 1 = some t := by
  let s := tPreempt .gangHold 0x1001
  have hl : Low s := by unfold Low; decide +kernel
  have hn : ((s.freePages 0 0 (s.saveBytes 0 / 4096)).any fun p => decide (p ≥ s.areaPages 0 0)) = false := by decide +kernel
  have hp : ∀ p ∈ s.freePages 0 0 (s.saveBytes 0 / 4096), p ≤ 4096 := by decide +kernel
  have hb : s.areaBase 0 0 ≤ 2 ^ 29 := by decide +kernel
  have hf : (s.gridOf (s.blkOf 0).grid).fn = 0 ∧ (s.gridOf (s.blkOf 0).grid).ctx = 0 ∧ (s.blkOf 0).die = 0 := by decide +kernel
  obtain ⟨u, hu⟩ := writePages_low _ hl (s.areaBase 0 0) ((Config.saveImage s.tick).take (4096 * (s.saveBytes 0 / 4096))) hb hp
  have hr : s.saveRecord 0 0 0 (s.saveBytes 0 / 4096) = some ({ u with tick := u.tick + 1 }, s.freePages 0 0 (s.saveBytes 0 / 4096),
      (Config.saveImage s.tick).take (4096 * (s.saveBytes 0 / 4096))) := by
    unfold State.saveRecord
    simp only [hn, Bool.false_eq_true, if_false, hu]
  show ∃ t, s.saveBlock 0 4 1 = some t
  unfold State.saveBlock
  simp only [hf.1, hf.2.1, hf.2.2, hr]
  exact ⟨_, rfl⟩
/-- A block of a grid with no restart registers writes a record of 64 bytes, at 0x4000. -/
theorem witness_Interruption_record :
    let s := { tState 0 with
      blocks := [(0, { life := .running, writing := [(5, [])], groups := [(0, tGroup 0)] })], l2tlb := [(0, [tTlb])]
      grids := [(0, { restartable := true, restartRec := 0x4000 })] }
    let gr := s.gridOf (s.blkOf 0).grid
    (s.blkOf 0).writing = (5, []) :: [] ∧ (State.copyWords gr.copyBytes 5 1 []).length = gr.copyBytes / 4 ∧ gr.copyBytes % 4 = 0 ∧
      gr.copyBytes = 64 ∧ (s.canWrite 0x4040 = true ∧ s.poisoned 0x4040 64 = false) ∧ DevHits s 0 0 0 .write 64 (gr.restartRec + 0 * gr.restartBytes + 1 % 2 * 64) 0x4040 :=
  ⟨by decide +kernel, by decide +kernel, by decide +kernel, by decide +kernel, by decide +kernel, devHits_of (by decide +kernel)⟩

/-- A context with n outstanding commands, whose state word is st, and a queue of it. -/
def tCtx (n : Nat) (st : DWord) (cs : List CtxCmd) : State :=
  { tQueue { enabled := true } [] with
    fns := [(0, { ctxs := [(0, { stat := st })]
                  ctxCmds := cs ++ (List.range n).map fun i => { op := 3, ctx := 9, mask := 0, drain := false, comp := 8 * i, small := false } })]
    blocks := [(0, { life := .saved, cause := 5, groups := [(0, tGroup 0)] })] }
def tCtxCmd (op : Nat) (small : Bool) : CtxCmd := { op := op, ctx := 0, mask := 0, drain := false, comp := 0x3000, small := small }
theorem witness_ContextCommands :
    let s := tCtx 7 0 []
    ((s.fnOf 0).ctxCmds.length < 8) ∧ ¬(((tCtx 8 0 []).fnOf 0).ctxCmds.length < 8) ∧ 63 ≤ 63 ∧ 63 < 64 ∧ 0x3000 % 8 = 0 ∧
      s.ctxHeld 0 0 = false ∧ (tCtx 0 8 []).ctxHeld 0 0 = true ∧ s.canWrite 0x3000 = true ∧ s.cells = [] ∧ (s.ctxOf 0 0).stat.getLsbD 2 = false ∧
      ((tCtx 0 4 []).ctxOf 0 0).stat.getLsbD 2 = true ∧ s.ctxQueues 0 0 = [5] ∧ (s.queueOf 5).stopped = false ∧ s.ctxQueues 0 1 = [] ∧
      ((s.blkOf 0).life = .saved ∧ (s.blkOf 0).cause = 5) ∧ (∀ c ∈ (s.fnOf 0).ctxCmds, c.ctx ≠ 0) ∧
      State.resident ((tState 0).blkOf 0) = true ∧ ({} : State).ctxGrids 0 0 = [] := by decide +kernel
theorem witness_ContextCommands_done : ∀ c ∈ [tCtxCmd 1 false, tCtxCmd 1 true, tCtxCmd 2 false, tCtxCmd 3 false],
    let s := tCtx 0 0 [c]
    ((s.fnOf 0).ctxCmds.find? fun c => c.ctx == 0) = some c ∧ s.cmdOver 0 c = true ∧
      ({ s with blocks := [(0, { life := .saved, resumeOn := 1 })] } : State).cmdOver 0 (tCtxCmd 2 false) = false := by decide +kernel
theorem witness_ContextCommands_hits : DevHits (tCtx 0 0 []) 0 0 0 .write 8 0x3000 0x3000 := devHits_of (by decide +kernel)

theorem witness_Evacuation :
    let s := tState 0
    let t : State := { dies := [(0, { evac := 0x40000010 })] }
    (s.dieOf 0).evac.getLsbD 30 = false ∧ (t.dieOf 0).evac.getLsbD 30 = true ∧ bitOf (2 ^ 31) 31 = true ∧ bitOf 0 31 = false ∧
      (∃ e ∈ s.blocks, State.resident e.2 = true ∧ e.2.die = 0) ∧ (∀ e ∈ t.blocks, State.resident e.2 = true → e.2.die ≠ 0) ∧
      (s.blkOf 0).preempt = none := by decide +kernel
theorem witness_ResetAndManagement : 56 ≤ 56 ∧ 56 < 57 ∧ 0x13F < 0x140 ∧ 3 < 4 ∧ 1023 < 1024 ∧ bitOf 4 0 = false ∧ bitOf 4 1 = false := by decide

/-! ### The step -/

/-- Does a word decode to an instruction? -/
def decodesB (w : Word) (i : Instr) : Bool := match decode w with | .ok j => decide (j = i) | .error _ => false
theorem decodes_of {w : Word} {i : Instr} (h : decodesB w i = true) : decode w = .ok i := by
  unfold decodesB at h
  split at h
  · rename_i j hj; rw [hj, of_decide_eq_true h]
  · cases h
/-- The word of an instruction at the PC of an agent whose turn is next. -/
def tTurnOf (tn : Turn) (w : Word) (left : Nat) : State :=
  { tState 0 with
    mem := putBytes [] 0x10004 (toBytes 4 w.toNat)
    blocks := [(0, { life := .running, hasMs := true, ms := { pc := 4, left := left }, groups := [(0, { tGroup 0 with splits := [(0, { tSplit 0 with left := left })] })] })]
    agenda := [tn] }
theorem witness_StepRunsTheWord :
    let i := Instr.sadd 4 4 5
    let w := encode i
    let s := tTurnOf (.split 0 0 0) w 1
    let u : State := { s with agenda := [], focus := {} }
    (s.gridOf (s.blkOf 0).grid).codeCopy = none ∧ decode w = .ok i ∧ i.wf = true ∧ s.agenda = [.split 0 0 0] ∧ (s.splitMay 0 0 0 = true ∧ s.isNext 0 0 0 = true) ∧ (s.splOf 0 0 0).pc % 4 = 0 ∧
      (s.splOf 0 0 0).left ≠ 0 ∧ (s.splOf 0 0 0).pc + 4 ≤ (s.gridOf 0).codeBytes ∧ Hits u .fetch 4 (0x10000 + (s.splOf 0 0 0).pc) 0x10004 ∧
      BitVec.ofNat 32 (s.rdNum 0x10004 4) = w ∧ prim w < 0xD0 ∧ (∀ r ∈ vnames i, u.within r.1 r.2 = true) ∧ isTransfer i = false :=
  ⟨by decide +kernel, decodes_of (by decide +kernel), by decide +kernel, by decide +kernel, by decide +kernel, by decide +kernel, by decide +kernel,
    by decide +kernel, hits_of (by decide +kernel), by decide +kernel, by decide +kernel, by decide +kernel, by decide +kernel⟩
theorem witness_StepRunsTheWord_header :
    let w : Word := 0b1111_000000000000_1111_1111_0010_000_0
    let s := tTurnOf (.split 0 0 0) w 0
    let m := tTurnOf (.stream 0) w 0
    s.splitMay 0 0 0 = true ∧ s.isNext 0 0 0 = true ∧ (s.splOf 0 0 0).left = 0 ∧ 0xF0 ≤ prim w ∧ bit w 0 = false ∧ (s.grpOf 0 0).fails = [] ∧ okB (decode w) = true ∧
      m.streamMay 0 = true ∧ (m.blkOf 0).ms.left = 0 ∧ bits w.toNat 27 16 = 0 ∧ bits w.toNat 15 8 = 255 ∧ bits w.toNat 3 1 = 0 := by
  decide +kernel
theorem witness_StepRunsTheWord_stream :
    let i := Instr.mswait 3
    let w := encode i
    let s := tTurnOf (.stream 0) w 1
    let v : State := { s with agenda := [], focus := { stream := true } }
    s.streamMay 0 = true ∧ (s.blkOf 0).ms.left ≠ 0 ∧ decode w = .ok i ∧ i.wf = true ∧ 0xD0 ≤ prim w ∧ prim w < 0xE0 ∧ isTransfer i = false ∧
      Hits v .fetch 4 (0x10000 + (s.blkOf 0).ms.pc) 0x10004 :=
  ⟨by decide +kernel, by decide +kernel, decodes_of (by decide +kernel), by decide +kernel, by decide +kernel, by decide +kernel,
    by decide +kernel, hits_of (by decide +kernel)⟩
/-- Turns of agents that may not issue. -/
theorem witness_StepRunsTheWord_not : ({ agenda := [.split 0 0 0] } : State).splitMay 0 0 0 = false ∧
    ({ agenda := [.stream 0] } : State).streamMay 0 = false := by decide +kernel
theorem witness_SchedulerTakesAnAgent :
    let s := { tTurnOf (.stream 0) 0 1 with agenda := [] }
    s.agenda = [] ∧ s.windowDue = false ∧ s.unitsFirst = false ∧ s.focus.stream = false ∧ (s.splOf 0 0 0).left ≠ 0 ∧
      s.splitMay 0 0 0 = true ∧ s.isNext 0 0 0 = true ∧ s.pickAgent = some { stream := true } ∧
      ({ s with focus := { stream := true } } : State).pickAgent = some {} ∧ State.firstOf s.candidates ≠ none ∧
      (s.blocks.map (·.1)).Nodup ∧ ∀ e ∈ s.blocks, (e.2.groups.map (·.1)).Nodup := by decide +kernel
theorem witness_DecodeEncode : (Instr.sadd 4 5 6).wf = true ∧ encode? (.sadd 4 5 6) = some 0x03010286 ∧
    decode 0x03010286 = .ok (.sadd 4 5 6) := ⟨by decide +kernel, by decide +kernel, decodes_of (by decide +kernel)⟩
def nextB (x : Host.Outcome State Fault Refusal) : Bool := match x with | .next _ => true | _ => false
theorem witness_StepKeepsMemory :
    let s := State.reset.withFetchWord 32 0x03010286
    MemInv s ∧ s.mem ≠ [] ∧ ∃ t, step s = .next t := by
  have h : nextB (step (State.reset.withFetchWord 32 0x03010286)) = true := by decide +kernel
  refine ⟨by decide +kernel, by decide +kernel, ?_⟩
  cases hs : step (State.reset.withFetchWord 32 0x03010286) with
  | next t => exact ⟨t, rfl⟩
  | fault f => rw [hs] at h; cases h
  | refused r => rw [hs] at h; cases h

/-- A numbered barrier whose phase is not the one waited for, one whose phase is done by this arrival, and no barrier. -/
theorem witness_SynchronisationAndEngineWordsComplete :
    let x := (tBar 7 none).blk.bars.get {} 4
    let v := ((tBar 7 none).getS 5).toNat % 65536
    Running (tBar 7 none) ∧ (tBar 7 none).acqBusy = false ∧ x.expected ≠ 0 ∧ fenceReady (tBar 7 none) = true ∧ v ≤ x.pending.toNat ∧ v ≠ 0 ∧
      x.phase.toNat ≠ v ∧ (tState 0).grid.restartable = false ∧
      (let s : State := { tState 0 with grids := [(0, { restartable := true })] }
       s.focus.ent < 4 ∧ (∀ e, e < 4 → e ≠ s.focus.ent → (s.splOf s.focus.blk s.focus.grp e).status = .empty) ∧ s.spl.defs = []) ∧
      (let g := (tEng [] 20).grp
       let n : BitVec 16 := ((tEng [] 20).getS 6).truncate 16
       FlagFree (tEng [] 20) ∧ (g.closed - g.done).toNat < 255 ∧ (g.closed - n).toNat < 2 ^ 15 ∧ (g.done - n).toNat < 2 ^ 15 ∧
         (∀ r ∈ (tEng [tCmd .scp 8 none] 0).grp.eng, ∀ c ∈ r.2, c.kind ≠ .lxin ∧ c.kind ≠ .lxout ∧ State.engWriting c = false ∧ c.stop = [])) := by
  decide +kernel
/-- A command that transposes, one that gathers and one that dequantises fit in scratch. -/
theorem witness_SynchronisationAndEngineWordsComplete_commands :
    let fits := fun (p : BitVec 512) =>
      let s := tPatState p
      engHeld s.grp < 32 ∧ patBytes p ≠ 0 ∧ patElems p ≠ 0 ∧ (s.getS 4).toNat % 32 = 0 ∧ (s.getS 5).toNat = 0xFFFFFFFF ∧ (s.getS 10).toNat ≠ 0 ∧
        (s.getS 4).toNat + 8 * patBytes p * (32 * ((patElems p + 255) / 256)) ≤ s.scrBytes s.focus.blk
    fits (BitVec.ofNat 512 (0x104 * 2 ^ 64 + 2 ^ 128 + 4 * 2 ^ 448)) ∧ fits (BitVec.ofNat 512 (0x404 * 2 ^ 64 + 2 ^ 128)) := by decide +kernel
theorem witness_SynchronisationAndEngineWordsComplete_fill :
    let c := tCmd .fill 40 none
    c.got = [] ∧ c.word = none ∧ c.stop = [] ∧ c.done < c.steps ∧ (tEng [c] 0).engMay 0 0 0 c = true := by decide +kernel
theorem witness_SynchronisationAndEngineWordsComplete_bay :
    let j := tJob (.lbay 4 5) 2
    let s : State := { tLoft [j] [(1, { kind := .loft })] with dies := [(0, { bays := [(2, { mode := 1 })], loft := [j] })] }
    (s.dies.findSome? fun e => e.2.loft.find? fun k => k.op == 1) = some j ∧ OwnOp s j ∧ s.bayHead 0 2 = some j ∧
      (s.bayOf 0 2).reclaiming = false ∧ s.jobMoves j = true ∧ (s.bayOf 0 2).mode = 1 :=
  ⟨by decide +kernel, ⟨by decide +kernel, by decide +kernel, by decide +kernel, by decide +kernel, by decide +kernel, by decide +kernel⟩,
    by decide +kernel, by decide +kernel, by decide +kernel, by decide +kernel⟩

/-! ### The Loft: errors and transfers -/

/-- Bay 3 with the operation j at its head. -/
def tBay (x : Bay) (j : LoftJob) : State :=
  { tLoft [] [(1, { kind := .loft })] with dies := [(0, { bays := [(3, { x with mode := 2 })], loft := [j] })] }
/-- A lost plane, a plane that fails its parity, and a residue that fails. -/
theorem witness_LoftErrors :
    let j := tJob (.lop .add 8 4 6) 3
    let l := tBay { lost := 1 } j
    let f := tBay { bad := [(504, 1)] } j
    let r := tBay { resid := true } j
    let reads := fun (q : Nat) => (State.jobSources j).any fun w => decide (fBase w ≤ q ∧ q < fBase w + fWidth w)
    (∀ s ∈ [l, f, r], s.bayHead 0 3 = some j ∧ s.jobOwns j = true ∧ (s.bayOf 0 3).reclaiming = false ∧ Cells.wf (s.bayOf 0 3).bad = true ∧
      (s.grpOf 0 0).ended = false) ∧
    ((l.bayOf 0 3).lost.getLsbD 0 && reads 0) = true ∧ ((f.bayOf 0 3).bad.get 504 != 0 && reads 504) = true ∧ (f.bayOf 0 3).lost = 0 ∧
      (r.bayOf 0 3).lost = 0 ∧ (r.bayOf 0 3).bad = [] ∧ (r.bayOf 0 3).resid = true := by decide +kernel
theorem witness_LoftErrors_own : ∀ x ∈ [({ lost := 1 } : Bay), { bad := [(504, 1)] }, { resid := true }],
    OwnOp (tBay x (tJob (.lop .add 8 4 6) 3)) (tJob (.lop .add 8 4 6) 3) := by
  intro x h
  simp only [List.mem_cons, List.not_mem_nil, or_false] at h
  obtain rfl | rfl | rfl := h <;>
    exact ⟨by decide +kernel, by decide +kernel, by decide +kernel, by decide +kernel, by decide +kernel, by decide +kernel⟩

/-- An LXIN or an LXOUT of two elements of 4 bytes and the lanes from 0, of the field of planes 0 to 7 of bay 3, and its operation there. -/
def tMove (kind : EngKind) : EngCmd := { tCmd kind 8 none with bay := 3, field := 0x0E00, op := 1 }
def tMoving (c : EngCmd) : State :=
  { tBay {} (tJob (.lxin 0 4 0 0) 3) with
    blocks := [(0, { life := .running, groups := [(0, { tGroup 0 with eng := [(0, [c])] })] })] }
theorem witness_LoftMoves : ∀ c ∈ [tMove .lxin, { tMove .lxout with done := 1 }],
    let s := tMoving c
    (s.grpOf 0 0).eng.get [] 0 = c :: [] ∧ s.engMay 0 0 0 c = true ∧ c.stop = [] ∧ c.word = none ∧ c.asked = [] ∧ c.got = [] ∧
      FieldOk c.field ∧ c.scr + patElems c.pat ≤ 262144 ∧ patBytes c.pat ∈ [1, 2, 4, 8] ∧ (s.grpOf 0 0).sb = [] ∧ s.atomsOut 0 0 = false ∧
      (c.kind = .lxin → c.done = 0 ∧ patElems c.pat ≠ 0) ∧
      (c.kind = .lxout → c.done < patElems c.pat ∧ (s.engLost 0 c).isNone = true ∧ ¬(c.done + 1 < patElems c.pat)) ∧ s.canWrite 4 = true ∧
      (ofBytes [0, 0, 0, 0] : Int) = fieldValue (s.bayOf 0 3) c.field (c.scr + c.done) % (2 ^ (8 * 4) : Nat) := by decide +kernel
theorem witness_LoftMoves_elements :
    (∀ k, k < 2 → ElementIs (tMoving (tMove .lxin)) 0 tPat k ((tMoving (tMove .lxin)).rd (4 * k) (patBytes tPat))) ∧
      ∃ va, ElementAt (tMoving { tMove .lxout with done := 1 }) 0 tPat 1 va ∧
        HitsIn (tMoving { tMove .lxout with done := 1 }) 0 .engWrite (patBytes tPat) va 4 := by
  refine ⟨fun k hk => ?_, elementTo_of _ 0 1 4 4 tPat (by decide +kernel) (by decide +kernel)⟩
  obtain rfl | rfl : k = 0 ∨ k = 1 := by omega
  · exact elementIs_of _ 0 0 0 0 tPat (by decide +kernel) (by decide +kernel) (by decide +kernel)
  · exact elementIs_of _ 0 1 4 4 tPat (by decide +kernel) (by decide +kernel) (by decide +kernel)
theorem witness_LoftMoves_done : ∀ c ∈ [{ tMove .lxin with done := 1 }, { tMove .lxout with done := 2 }],
    let s := tMoving c
    let j := tJob (.lxin 0 4 0 0) 3
    j ∈ (s.dieOf 0).loft ∧ j.op = c.op ∧ c.steps ≤ c.done ∧ s.engMay 0 0 0 c = true ∧ ((s.grpOf 0 0).eng.map (·.1)).Nodup ∧ s.remotes = [] := by
  decide +kernel
theorem witness_LoftMoves_own : OwnOp (tMoving (tMove .lxin)) (tJob (.lxin 0 4 0 0) 3) :=
  ⟨by decide +kernel, by decide +kernel, by decide +kernel, by decide +kernel, by decide +kernel, by decide +kernel⟩

/-! ### The Pantry: lanes that fail, and updates -/

/-- The Pantry of tPantry with v1 = h and v2 = pos, and some bytes of its tables changed. -/
def tPan (h pos : Word) (edits : List (Nat × List Byte)) : State :=
  { tPantry 1 with
    mem := edits.foldl (fun m e => putBytes m e.1 e.2) (tPantry 1).mem
    blocks := [(0, { life := .running, groups := [(0, { tGroup 0 with v := [(96, h), (192, pos)] })] })] }
def seqBadB (q : Nat) : Bool := decide (bits q 7 0 = 0 ∨ 16 < bits q 7 0 ∨ 3 < bits q 15 8 ∨ bits q 511 16 ≠ 0)
/-- What a lane reads where it fails: no handle, a malformed sequence, no such shelf, a malformed or a poisoned shelf, a position beyond the end. -/
theorem witness_PantryFailures_reads :
    let seq := fun (s : State) => s.rdNum 0x10000 128
    let sh := fun (s : State) => s.rdNum 0x20000 64
    (({ tPantry 1 with fns := [] } : State).panOn = false) ∧ (tPan 1 0 []).panOn = true ∧ (tPan 1 0 []).pan 0x10 4 ≤ ((tPan 1 0 []).grp.getV 1 0).toNat ∧
    seqBadB (seq (tPan 0 0 [(0x10000, [17])])) = true ∧ seqBadB (seq (tPan 0 0 [])) = false ∧
    (let s := tPan 0 0 [(0x10040, [1])]
     seqBadB (seq s) = false ∧ s.pan 0x14 4 ≤ bits (seq s) 543 512) ∧
    (let s := tPan 0 0 [(0x20000, [1])]
     shBad s (sh s) = false ∧ shStart (sh s) ≠ 0 ∧ bits (seq s) 543 512 < s.pan 0x14 4) ∧
    (let s := tPan 0 0 [(0x2001B, [0x30])]
     shBad s (sh s) = false ∧ shParent (sh s) = 0xFFFFFFFF ∧ shStart (sh s) = 0 ∧ bitOf (shFlags (sh s)) 4 = true) ∧
    (let s := tPan 0 17 []
     bitOf (shFlags (sh s)) 4 = false ∧ bits (seq s) 7 0 = 1 ∧ shLength (sh s) < (s.grp.getV 2 0).toNat) ∧
    (∀ s ∈ [tPan 1 0 [], tPan 0 0 [(0x10000, [17])], tPan 0 0 [(0x10040, [1])], tPan 0 0 [(0x20000, [1])], tPan 0 0 [(0x2001B, [0x30])], tPan 0 17 []],
      Running s ∧ FlagFree s ∧ s.acqBusy = false ∧ s.grp.sb = [] ∧ WalkFresh s ∧ seqAt s 0 = 0x10000 ∧ shelfAt s 0 = 0x20000 ∧ accessing s = [0]) := by
  decide +kernel
theorem witness_PantryFailures_walks : ∀ s ∈ [tPan 0 0 [(0x10000, [17])], tPan 0 0 [(0x10040, [1])], tPan 0 17 []],
    WalkReads s 0x10000 128 (s.rdNum 0x10000 128) ∧ WalkReads s 0x20000 64 (s.rdNum 0x20000 64) := by
  intro s h
  simp only [List.mem_cons, List.not_mem_nil, or_false] at h
  obtain rfl | rfl | rfl := h <;>
    exact ⟨⟨0x10000, walkHits_of (by decide +kernel), by decide +kernel, rfl⟩, ⟨0x20000, walkHits_of (by decide +kernel), by decide +kernel, rfl⟩⟩
/-- A position on the shelf, where KVX.wr meets a count of 2, and KVX.rd an entry that is absent. -/
theorem witness_PantryFailures_shelf : ∀ e ∈ [(0x20018, [(2 : Byte)]), (0x20020, toBytes 4 0x3FFFFFFF)],
    let s := tPan 0 15 [e]
    let sh := s.rdNum 0x20000 64
    OnShelf s 0 15 0 sh ∧ (e.1 = 0x20018 → shRef sh ≠ 1) ∧
      (e.1 = 0x20020 → EntryAt s 0 ((15 - shStart sh) / s.panTpp) sh 0x20020 ∧ WalkReads s 0x20020 4 (s.rdNum 0x20020 4) ∧
        s.rdNum 0x20020 4 % 2 ^ 30 = 0x3FFFFFFF) := by
  have shelf : ∀ e ∈ [(0x20018, [(2 : Byte)]), (0x20020, toBytes 4 0x3FFFFFFF)],
      OnShelf (tPan 0 15 [e]) 0 15 0 ((tPan 0 15 [e]).rdNum 0x20000 64) := by
    intro e h
    simp only [List.mem_cons, List.not_mem_nil, or_false] at h
    obtain rfl | rfl := h
    · refine ⟨by decide +kernel, by decide +kernel, (tPan 0 15 [(0x20018, [2])]).rdNum 0x10000 128, 0,
        fun _ => (tPan 0 15 [(0x20018, [2])]).rdNum 0x20000 64, ⟨0x10000, walkHits_of (by decide +kernel), by decide +kernel, rfl⟩, by decide +kernel,
        by decide +kernel, by decide +kernel, by decide +kernel, fun i hi => ?_, by decide +kernel, rfl⟩
      obtain rfl : i = 0 := by omega
      exact ⟨by decide +kernel, ⟨0x20000, walkHits_of (by decide +kernel), by decide +kernel, rfl⟩, by decide +kernel, by decide +kernel, by decide +kernel,
        by decide +kernel⟩
    · refine ⟨by decide +kernel, by decide +kernel, (tPan 0 15 [(0x20020, toBytes 4 0x3FFFFFFF)]).rdNum 0x10000 128, 0,
        fun _ => (tPan 0 15 [(0x20020, toBytes 4 0x3FFFFFFF)]).rdNum 0x20000 64, ⟨0x10000, walkHits_of (by decide +kernel), by decide +kernel, rfl⟩,
        by decide +kernel, by decide +kernel, by decide +kernel, by decide +kernel, fun i hi => ?_, by decide +kernel, rfl⟩
      obtain rfl : i = 0 := by omega
      exact ⟨by decide +kernel, ⟨0x20000, walkHits_of (by decide +kernel), by decide +kernel, rfl⟩, by decide +kernel, by decide +kernel, by decide +kernel,
        by decide +kernel⟩
  intro e h
  refine ⟨shelf e h, ?_⟩
  simp only [List.mem_cons, List.not_mem_nil, or_false] at h
  obtain rfl | rfl := h
  · exact ⟨fun _ => by decide +kernel, fun h => absurd h (by decide)⟩
  · exact ⟨fun h => absurd h (by decide), fun _ => ⟨by unfold EntryAt; rw [if_pos (by decide +kernel)]; decide +kernel,
      ⟨0x20020, walkHits_of (by decide +kernel), by decide +kernel, rfl⟩,
      by decide +kernel⟩⟩
/-- KVPIN and KVREL of one lane: no such shelf, a malformed one, a count that is full or empty. -/
theorem witness_PantryFailures_counts :
    let sh := fun (s : State) => s.rdNum 0x20000 64
    ((tPan 1 0 []).pan 0x14 4 ≤ 1) ∧ shBad (tPan 0 0 [(0x2001B, [0x40])]) (sh (tPan 0 0 [(0x2001B, [0x40])])) = true ∧
    (let s := tPan 0 0 [(0x20018, [0xFF, 0xFF])]
     shBad s (sh s) = false ∧ shRef (sh s) = 65535) ∧
    (let s := tPan 0 0 [(0x20018, [0, 0])]
     shBad s (sh s) = false ∧ shRef (sh s) = 0) := by decide +kernel

/-- Where the core holds tTlb, an access of the walker below 2^30 reaches its own address. -/
theorem walkHits_low {s : State} (hb : (s.coreOf s.blk.die s.blk.core).tlb = [tTlb]) (hf : s.fn = 0) (hx : s.pan 0x19 1 = 0) (hl : s.lpddr = none)
    (hc : s.cells = []) (hz : s.poison = []) {va n : Nat} {acc : AccType} (hv : va < 2 ^ 30) : WalkHits s acc n va va := by
  have e : tTlb.pa + va % tTlb.size = va := by
    show 0 + va % 2 ^ 30 = va
    omega
  refine ⟨tTlb, ?_, fun _ => rfl, ?_⟩
  · unfold State.tlbHit
    rw [hf, hx]
    show (match ((s.coreOf s.blk.die s.blk.core).tlb ++ _).find? (fun t => t.covers 0 0 va) with
      | some t => if acc.writes && t.writable && !t.dirty then none else some t
      | none => none) = some tTlb
    rw [hb]
    show (match (tTlb :: _).find? (fun t => t.covers 0 0 va) with
      | some t => if acc.writes && t.writable && !t.dirty then none else some t
      | none => none) = some tTlb
    rw [List.find?_cons, tTlb_covers hv]
    cases acc <;> rfl
  · rw [e]; exact reachPa_low hl hc hz (by omega)

/-- The Pantry of tPantry with a free ring of 16 slots at 0x60000 and a log of 16 records at 0x70000; lane 0's handle and shelf are 0, and
its position pos. -/
def tUpdates (log : Byte) (pos : Word) (edits : List (Nat × List Byte)) : State :=
  { tPan 0 pos ([(0x60010, [4])] ++ edits) with
    fns := [(0, { pantry := [(2, 1), (10, 2), (0x10, 1), (0x14, 1), (0x1A, 1), (0x1C, 1), (0x22, 4), (0x2A, 6), (0x30, 4), (0x82, 7), (0x88, log)] })] }
/-- All of a table of one of these states answers the walker. -/
theorem tUpdates_stands {s : State} (hb : (s.coreOf s.blk.die s.blk.core).tlb = [tTlb]) (hf : s.fn = 0) (hx : s.pan 0x19 1 = 0) (hl : s.lpddr = none)
    (hc : s.cells = []) (hz : s.poison = []) (hh : s.hostShared = []) {va len : Nat} (hv : va + len ≤ 2 ^ 30) :
    (∀ k n acc, 0 < n → k + n ≤ len → acc = AccType.read ∨ acc = AccType.atomic → WalkHits s acc n (va + k) (va + k)) ∧
      ∀ q, va ≤ q → q < va + len → s.canWrite q = true ∧ s.rangeOf q ≠ .host := by
  refine ⟨fun k n acc _ hk _ => walkHits_low hb hf hx hl hc hz (by omega), fun q h1 h2 => ⟨?_, ?_⟩⟩
  · simp [State.canWrite, State.heldPage, State.chanBusy, hc, hh]
  · rw [range_low hl (by omega)]; decide
/-- Its premises hold in each state. -/
theorem witness_PantryUpdates : ∀ s ∈ [tUpdates 0x84 0 [(0x20018, [2])], tUpdates 0 0 [], tUpdates 0x84 16 [], tUpdates 0x84 0 [(0x20020, toBytes 4 0x3FFFFFFF)]],
    (Running s ∧ FlagFree s ∧ s.acqBusy = false ∧ s.grp.sb = [] ∧ WalkFresh s ∧ accessing s = [0] ∧ s.panOn = true ∧ 0 < s.pan 0x14 4 ∧
      (s.grp.getV 1 0).toNat = 0 ∧ shelfAt s 0 = 0x20000 ∧ shBad s (s.rdNum 0x20000 64) = false ∧ ringAt s 0 = 0x60000 ∧ s.rdNum 0x60010 1 = 4 ∧
      s.pan 0x80 8 + 16 * ((s.fnOf s.fn).logWrite % 2 ^ (s.pan 0x88 1 % 32)) = 0x70000) ∧
    (s.coreOf s.blk.die s.blk.core).tlb = [tTlb] ∧ s.fn = 0 ∧ s.pan 0x19 1 = 0 ∧ s.lpddr = none ∧ s.cells = [] ∧ s.poison = [] ∧ s.hostShared = [] := by
  decide +kernel
theorem witness_PantryUpdates_log (s : State) (h : s.fns = (tUpdates 0 0 []).fns ∨ s.fns = (tUpdates 0x84 0 []).fns) : NoDirtyLog s 0 := fun die => by
  obtain h | h := h <;> simp [State.fnBlock, State.fnOf, h, tUpdates, Tab.get]
/-- Counts that may change; the last one of a shelf with a page of tier 0 and of one with none. -/
theorem witness_PantryUpdates_counts :
    let sh := fun (s : State) => s.rdNum 0x20000 64
    let entry := fun (s : State) (j : Nat) => s.rdNum (0x20020 + 4 * j) 4
    let absent := (List.range 6).flatMap fun _ => toBytes 4 0x3FFFFFFF
    let c := tUpdates 0x84 0 [(0x20018, [2])]
    let l := tUpdates 0 0 [(0x20020, absent), (0x20014, toBytes 4 0xFFFFFFFF)]
    let p := tUpdates 0 0 [(0x20020, absent), (0x20024, [5, 0, 0, 0]), (0x20014, toBytes 4 0xFFFFFFFF)]
    (shRef (sh c) = 2 ∧ (c.pan 0x88 1).testBit 7 = true) ∧
    (∀ s ∈ [l, p], shBad s (sh s) = false ∧ shRef (sh s) = 1 ∧ (s.pan 0x88 1).testBit 7 = false ∧ s.pan 0x14 4 ≤ shOverflow (sh s) ∧
      s.rdNum 0x60008 8 + 1 < 2 ^ 64 ∧ (s.fnOf s.fn).pantryRecl.getLsbD 30 = false) ∧
    (∀ j, j < 6 → entry l j % 2 ^ 30 = 0x3FFFFFFF) ∧ entry p 1 = 5 ∧ (∀ j, j < 6 → j ≠ 1 → entry p j % 2 ^ 30 = 0x3FFFFFFF) := by decide +kernel
/-- KVX.wr: the run grows, or an absent entry takes page 9; the ring is empty, or the quota is used up. -/
theorem witness_PantryUpdates_writes :
    let sh := fun (s : State) => s.rdNum 0x20000 64
    let q := fun (s : State) => s.rdNum 0x10000 128
    let absent := (0x20020, toBytes 4 0x3FFFFFFF)
    let g := tUpdates 0x84 16 [(0x20024, [6])]
    let n := tUpdates 0x84 0 [absent, (0x60008, [1]), (0x60040, [9])]
    let e := tUpdates 0x84 0 [absent]
    let f : State := { n with fns := [(0, { (n.fnOf 0) with inUse := [(0, 4)] })] }
    (∀ s ∈ [g, n, e, f], (s.grp.getV 1 0).toNat < s.pan 0x10 4 ∧ seqAt s 0 = 0x10000 ∧ bits (q s) 7 0 = 1 ∧ bits (q s) 15 8 ≤ 3 ∧ bits (q s) 511 16 = 0 ∧
      bits (q s) 543 512 = 0 ∧ shParent (sh s) = 0xFFFFFFFF ∧ shStart (sh s) = 0 ∧ bitOf (shFlags (sh s)) 4 = false ∧ shRef (sh s) = 1 ∧
      (s.grp.getV 2 0).toNat / s.panTpp < 6 ∧ bits (q s) 15 8 = 0 ∧ (s.fnOf s.fn).pantryRecl.getLsbD 30 = false) ∧
    ((g.grp.getV 2 0).toNat = shLength (sh g) ∧ g.rdNum 0x20024 4 % 2 ^ 30 ≠ 0x3FFFFFFF) ∧
    (∀ s ∈ [n, e, f], (s.grp.getV 2 0).toNat < shLength (sh s) ∧ s.rdNum 0x20020 4 % 2 ^ 30 = 0x3FFFFFFF) ∧
    (e.rdNum 0x60000 8 = e.rdNum 0x60008 8) ∧ (n.rdNum 0x60000 8 < n.rdNum 0x60008 8 ∧ n.rdNum 0x60040 4 = 9 ∧ ringSlot n 0 4 0 = 0x60040) ∧
    ((n.fnOf 0).inUse.get 0 0 < n.pan 0x30 4 + n.pan 0x34 4) ∧ (f.pan 0x30 4 + f.pan 0x34 4 ≤ (f.fnOf f.fn).inUse.get 0 0) := by decide +kernel
theorem witness_PantryUpdates_sequence : WalkReads (tUpdates 0x84 16 []) 0x10000 128 ((tUpdates 0x84 16 []).rdNum 0x10000 128) :=
  ⟨0x10000, walkHits_of (by decide +kernel), by decide +kernel, rfl⟩

/-! ### Tiles, accumulators, headers and returns -/

/-- The stream of tMat with a record of MXFP8 rows and their scales behind them. -/
def tScaled : State :=
  tStream { d := [(0, BitVec.ofNat 128 (2560 * 2 ^ 32 + 640 * 2 ^ 64 + 4 * 2 ^ 80 + 8 * 2 ^ 88 + 2 ^ 92 + 2560 * 2 ^ 96))], fmt := 8 }
theorem witness_StreamWords_scaled :
    let r := effRec tScaled false 0 0
    Running tScaled ∧ r.scaled = true ∧ recCheck tScaled r = none ∧ 64 ≤ r.stride ∧ r.scaled = isMx r.fmt ∧ r.used = 4 ∧
      (∀ x ∈ tScaled.blk.groups, x.2.sb = []) ∧ (Instr.mscfgGuard 16).wf = true ∧ (Instr.mscfgRound 0 true 5).wf = true := by decide +kernel
theorem witness_Accumulators_buffers : ∀ x ∈ (tMat 4 7).blk.groups, x.2.sb = [] := by decide +kernel
/-- A row without an exponent, one with room, one that must shift, and a pinned one. -/
theorem witness_AccumulatorTerms :
    let ts : List Machine.Num := [intN 5, intN 2]
    let e := fun (r : Row) (w g : Nat) => if r.unset then (2 : Int) - ((w : Int) - 2 - g) else r.e
    let a := fun (r : Row) (w : Nat) => if r.unset then 0 else 2 ^ (w - 1 - r.h)
    let b := fun (r : Row) (w g : Nat) => 2 + 1 - e r w g + 4
    let up := fun (x : Int) => if 0 ≤ x then 2 ^ x.toNat else 1
    (∀ t ∈ ts.filter isTerm, ilog2 t ≤ 2) ∧ (∃ t ∈ ts.filter isTerm, ilog2 t = 2) ∧
    (∀ w ∈ [64, 128], ∀ g ∈ [2, 16], ({} : Row).h < w ∧ ({} : Row).pinned = false ∧ b {} w g ≤ 80000) ∧
    ¬(2 ^ (64 - 1) < a {} 64 + up (b {} 64 16)) ∧ 2 ^ (64 - 1) < a {} 64 + up (b {} 64 2) ∧
    (let r : Row := { unset := false, h := 40, e := 0 }
     r.h < 64 ∧ ¬(2 ^ (64 - 1) < a r 64 + up (b r 64 2))) ∧
    (let r : Row := { unset := false, h := 0, e := 0, m := [2 ^ 62] }
     2 ^ (64 - 1) < a r 64 + up (b r 64 2)) ∧ ({ unset := false, pinned := true } : Row).pinned = true := by decide +kernel

/-- At a header with a deferral record, and an entry that is empty: the record is installed there. -/
theorem witness_ControlFlow_installs :
    let d := { tDef with pc := 8 }
    let s := tWithS { tSplit 0 with left := 0, defs := [d] }
    s.focus.stream = false ∧ Running s ∧ d.pc ≠ s.spl.pc ∧ s.spl.defs = [d] ∧ s.grp.emptyEntry = some 1 ∧ d.depth ≤ 16 ∧
      (let v := s.modSplOf s.focus.blk s.focus.grp 1 fun _ => { s.spl with live := 2, exec := 2 }
       v.spl.clear 0 = true) := by decide +kernel
theorem witness_ControlFlow_nine :
    let s := tFull { tHalf with defs := List.replicate 8 tDef }
    let T := maskOf fun l => s.spl.exec.getLsbD l && !s.grp.dead.getLsbD l && s.guardAt l
    Running s ∧ T ≠ 0 ∧ s.spl.live &&& ~~~T ≠ 0 ∧ (wordTaken (.brx 5) s).grp.emptyEntry = none ∧ 8 ≤ s.spl.defs.length := by decide +kernel
theorem witness_ModeAndSpecialRegisters_mode : (Instr.mode 4 true 13 5 true true true true true true).wf = true := by decide +kernel
/-- RTE.cont at a trap of a header word; and a header where no failure has been taken yet. -/
theorem witness_TrapsAndReturns_header :
    let w : Word := 0b1111_000000000000_1111_1111_0010_000_0
    let f : Frame := { tFrame false with left := 0, word := w }
    let h := tTrap { tSplit 0 with frame := some f } [] none
    let s := tTrap { tSplit 0 with left := 0 } [{ code := 0x14, info := 5, stream := false }] (some 0x20)
    let y := tTrap { tSplit 0 with left := 0, frame := some f } [{ code := 0x14, info := 5, stream := false }] (some 0x20)
    Running h ∧ h.spl.frame = some f ∧ f.ofStream = false ∧ f.atH = false ∧ f.left = 0 ∧ prim f.word ≥ 0xF0 ∧ (s.splOf 0 0 0).atH = none ∧
      y.splitMay 0 0 0 = true ∧ y.midClause 0 0 0 = false ∧ (y.splOf 0 0 0).frame.isSome = true := by decide +kernel

/-! ### Queues, gangs, COPY and cellar commands once more -/

/-- A ring of 64 records that is full. -/
theorem witness_EventQueues_full :
    let s := tRing { enabled := true, z := 6, base := 0x1000, write := 67, read := 3 }
    let q := s.evqOf 0 0
    q.enabled = true ∧ q.write - q.read = 2 ^ q.z ∧ q.write ≠ 0 ∧ s.canWrite 0x1058 = true := by decide +kernel
theorem witness_EventQueues_full_hits : DevHits (tRing { enabled := true, z := 6, base := 0x1000, write := 67, read := 3 }) 0 0 0 .write 8
    (0x1000 + 32 * ((67 - 1) % 2 ^ 6) + 0x18) 0x1058 := devHits_of (by decide +kernel)
/-- A die that has booted, and one that has not; no access of the queue to another module is under way. -/
theorem witness_Queues_booted :
    let s := tQueue { enabled := true, cls := 4, cb := 0x1000 } []
    s.booted 0 = true ∧ (tState 0).booted 0 = false ∧ s.far = [] ∧ (tState 0).shadowAt 5 % 64 = 0 ∧ (tState 0).canWrite ((tState 0).shadowAt 5 + 0x18) = true ∧
      (tState 0).rangeOf ((tState 0).shadowAt 5 + 0x18) ≠ .host := by decide +kernel
theorem witness_Queues_log : NoDirtyLog (tState 0) 64 := noDirtyLog _ rfl _
/-- A WAITSIG with the barrier flag, behind a packet that has issued and not completed, and behind none. -/
theorem witness_Packets_barrier :
    let s := { tServe {} 4 4 [(1, 1), (9, 0x30), (0x18, 1)] with pkts := [(9, { die := 0, queue := 5, slot := 0, kind := 8 })] }
    let b := tPkt 4 4 [(1, 1), (9, 0x30), (0x18, 1)]
    (s.laneOf 0 1).queue = some 5 ∧ s.laneHead 0 1 = .pkt b ∧ pkType b = 4 ∧ s.packetError 5 b = none ∧ s.far = [] ∧ pkFlag b 8 = true ∧
      s.issuedOf 5 ≠ [] ∧ ({ s with pkts := [] } : State).issuedOf 5 = [] := by decide +kernel
/-- A carved block with nothing unfinished. -/
theorem witness_BlockPlacement_starts :
    let s : State := { blocks := [(0, { life := .carved, groups := [(0, tGroup 0)] })] }
    (s.blkOf 0).life = .carved ∧ (∀ e ∈ (s.blkOf 0).groups, e.2.sb = []) ∧ s.ops = [] ∧ s.dies = [] ∧
      (s.ctxOf (s.gridOf (s.blkOf 0).grid).fn (s.gridOf (s.blkOf 0).grid).ctx).viral = false := by decide +kernel

/-- What another member of the gang says: of this module, or of another one in the function's partition or in another. -/
def tSays (m n : Nat) (p : Option Nat) : GangFn × GangMember := ({ vf := 0, partition := p }, { index := m, count := n })
theorem witness_Gangs_messages :
    let zero : Gang := { tMember 0 with reported := true, members := [0] }
    let s := tGang {} [(8, zero), (9, { tMember 1 with reported := true })]
    let far := tGang {} [(8, zero)]
    let misfit := fun (s : State) (x : GangFn × GangMember) => decide (2 ≤ x.2.index ∨ x.2.count ≠ 2 ∨
      (if x.1.partition = none then s.gangsOf 0 7 (some x.2.index) = [] else s.gangsOf 0 7 (some x.2.index) ≠ [] ∨ x.2.index ∈ [0]))
    s.partition 0 = 0 ∧ s.gangsOf 0 7 (some 0) = [(8, zero)] ∧ zero.count = 2 ∧
    -- not heard; a report that fits, of this module and of another; reports that do not
    ¬(some 1 = none ∨ some 1 = some (s.partition 0)) ∧ misfit s (tSays 1 2 none) = false ∧ misfit far (tSays 1 2 (some 0)) = false ∧
    (∀ x ∈ [tSays 2 2 none, tSays 1 3 none, tSays 1 2 (some 0), tSays 0 2 (some 0)], misfit s x = true) ∧ misfit far (tSays 1 2 none) = true ∧
    (∀ j, j < zero.count → j = 1 ∨ j ∈ zero.members) ∧ (∃ j, j < zero.count ∧ j ∉ zero.members) := by decide +kernel
/-- COMMIT: of a coordinator of this module, all of whose members have reported, and of one of another module; and the members that fit twice. -/
theorem witness_Gangs_commits :
    let s := tGang {} [(8, { tMember 0 with reported := true, members := [0, 1] }), (9, { tMember 1 with reported := true })]
    let far := tGang {} [(9, { tMember 1 with reported := true })]
    (s.gangsOf 0 7 (some 0) ≠ [] ∧ ∀ e ∈ s.gangsOf 0 7 (some 0), ∀ j, j < e.2.count → j ∈ e.2.members) ∧ 1 ∈ ((s.gangOf 8).members) ∧
      (far.gangsOf 0 7 (some 0) = [] ∧ far.partition 0 = 0 ∧ far.gangsOf 0 7 none = [(9, { tMember 1 with reported := true })]) ∧
      (∀ t ∈ [s, far], ∀ e ∈ t.gangs, ∀ y ∈ e.2.yielded, y.2 ≠ 0 * 2 ^ 32 + 7) := by decide +kernel

/-- A copy that has ended, and waits for its writes. -/
theorem witness_Copies_ended :
    let s : State := { tQueue {} [] with dies := [(0, { copies := [(3, { tCopyJob with ended := some true })] })] }
    ((s.dieOf 0).copies.find? fun e => e.1 == 3) = some (3, { tCopyJob with ended := some true }) ∧
      ({ tCopyJob with ended := some true } : CopyJob).ended ≠ none := by decide +kernel

/-- No line of the command's output pages is with the host: nothing is asked. -/
theorem witness_CellarAcceptance_snoops :
    let s : State := { hostShared := [5] }
    (s.acceptCell (tCellCmd 0)).farAsk = none ∧ (s.acceptCell (tCellCmd 0)).hostShared = [5] ∧ 128 * 5 / 2 ^ 21 ∉ (tCellCmd 0).outPages := by decide +kernel
/-- An output whose frame's dirty bit is written at once, one whose bit waits for its channel, and a function that logs nothing. -/
theorem witness_CellarParts_dirty :
    let s : State := { fns := [(0, { cfg := [(0, { flags := 1, dirtyBase := 0x8000 })] })] }
    let busy : State := { s with dies := [(0, { computing := [0] })], cells := [(3, tCellCmd 1)] }
    (s.dirtyAt 0 32).isSome = true ∧ s.chanBusy ((s.dirtyAt 0 32).getD (0, 0)).1 = false ∧ (busy.dirtyAt 0 32).isSome = true ∧
      busy.chanBusy ((busy.dirtyAt 0 32).getD (0, 0)).1 = true ∧ ({} : State).dirtyAt 0 32 = none := by decide +kernel
/-- All parts have ended: the holds are there still, or are gone. -/
theorem witness_CellarParts_ended :
    let s := tUnits 2 [] []
    let c := tCellCmd 2
    let e : CellCmd := { c with outPages := [] }
    let t : State := { s with cells := [(3, e)] }
    (s.cells.find? fun x => x.1 == 3 && x.2.die == 0) = some (3, c) ∧ s.cells.get c 3 = c ∧ (∀ p ∈ c.parts, 2 ≤ p.2.1) ∧ c.outPages ≠ [] ∧
      (t.cells.find? fun x => x.1 == 3 && x.2.die == 0) = some (3, e) ∧ t.cells.get e 3 = e ∧ e.outPages = [] := by decide +kernel
/-- Requests that waited: one on another command's page, one behind an earlier one, one on a busy channel, and one that is performed. -/
theorem witness_CellarParts_held :
    let r : HeldReq := { pa := 8, op := .write [1], who := .nobody, fn := 0 }
    let held : State := { cells := [(3, { tCellCmd 1 with outPages := [0] })] }
    let free : State := {}
    free.hasAhead r = false ∧ State.reqWrites r.op = true ∧ held.hasAhead r = false ∧ held.heldPage r.pa = true ∧ free.canWrite r.pa = true ∧
      free.chanBusy r.pa = false ∧ (∀ id m, r.who ≠ .msg id m) ∧ r.who ≠ .inbound ∧
      ({ snoopHeld := [r] } : State).releasing { tCellCmd 2 with waits := [r] } = true ∧ free.releasing (tCellCmd 2) = false :=
  ⟨by decide +kernel, by decide +kernel, by decide +kernel, by decide +kernel, by decide +kernel, by decide +kernel, (fun _ _ h => nomatch h),
    by decide +kernel, by decide +kernel, by decide +kernel⟩
/-- The record of a command that ended well, on poison, or as its module was reset. -/
theorem witness_CellarParts_record : ∀ c ∈ [tCellCmd 2, { tCellCmd 2 with bad := some (0, 0, 32) }, { tCellCmd 2 with parts := [(0, 2, 1), (1, 3, 0)] }],
    let u : State := { tUnits 2 [] [] with cells := [], tick := (tUnits 2 [] []).tick + 1 }
    (∃ p ∈ c.parts, p.2.1 = 2) ∧ u.canWrite 0x6000 = true ∧ u.poisoned 0x6000 32 = false ∧ c.die = 0 ∧ c.fn = 0 ∧ c.ctx = 0 ∧ c.record = 0x6000 := by
  decide +kernel
theorem witness_CellarParts_record_hits :
    DevHits { tUnits 2 [] [] with cells := [], tick := (tUnits 2 [] []).tick + 1 } 0 0 0 .write 32 0x6000 0x6000 := devHits_of (by decide +kernel)

/-! ### Walks, parkings, links, other modules, the host and contexts once more -/

/-- Every entry of the walk of tWalk can be read; a context table on a poisoned sector, and one in another module without a fabric. -/
theorem witness_PageWalks_reads :
    let s := tWalk []
    (∀ a ∈ [0x1000, 0x1008, tTab 0, tTab 1], s.reachPa 0 a 8 true = .ok (s.localPa a) ∧ s.rangeOf (s.localPa a) ≠ .host) ∧ s.canWrite (tTab 1) = true ∧
      s.localPa 0x1000 = 0x1000 ∧ (s.fnBlock 0 0).ctxTable + 16 * 0 = 0x1000 ∧
      ({ s with poison := [0x80] } : State).reachPa 0 0x1000 8 true = .poison ∧ ({ s with poison := [0x180] } : State).reachPa 0 (tTab 1) 8 true = .poison ∧
      s.reachPa 0 (2 ^ 50 + 2 ^ 40) 8 true = .fail 0x06 := by decide +kernel

/-- The split of a message that met poison stands at its word, and its grid has a handler. -/
theorem witness_Parkings_message :
    let r : Remote := { op := some 4, blk := 0, grp := 0, lane := 0, va := 0x100, ctx := 0, fn := 0, pa := 0, req := .read 4, regs := [1], sb := none,
                        retried := false, engine := none, die := 0, far := false, behind := false, frame := some (tFrame false) }
    let s := { tParked (.access 9) { tSplit 0 with status := .parked 7 } with remotes := [(9, r)] }
    let u := ({ s with parks := s.parks.del 7 } : State).giveUp 9
    (s.remoteOf 9).frame = some (tFrame false) ∧ (u.gridOf (u.blkOf 0).grid).codeCopy = none ∧ (u.splOf 0 0 0).loads = none ∧
      (u.splOf 0 0 0).frame = none ∧ (u.gridOf (u.blkOf 0).grid).trapEntry = some 0x40 ∧
      hitsInB u 0 .fetch 4 ((u.gridOf (u.blkOf 0).grid).code + (u.splOf 0 0 0).pc) 0x10004 = true := by decide +kernel
/-- HARVEST of the second 64 bits of the bitmap. -/
theorem witness_TranslationCommands_harvest :
    let s := tCmds 0
    let a := (s.fnBlock 0 0).dirtyBase + 64 / 8
    a = 8 ∧ (∀ p, p < 16 → s.canWrite p = true) ∧
      devHitsB { s with mem := putBytes s.mem a (toBytes 8 0) } 0 0 0 .write 8 0x3000 0x3000 = true ∧
      ({ s with mem := putBytes s.mem a (toBytes 8 0) } : State).canWrite 0x3000 = true := by decide +kernel

/-- A flit of zeros whose CRC agrees is read, and one whose CRC does not is none. -/
theorem witness_Links_parse : (∃ bs f, Flit.parse bs = some f ∧ f.kind = 0 ∧ f.seq = 0) ∧ ∃ bs, Flit.parse bs = none := by
  have parse : ∀ c ∈ [0, 1], Flit.parse (List.replicate 242 0 ++ toBytes 8 c ++ fecBytes (List.replicate 242 0 ++ toBytes 8 c)) =
      if c = 0 then some { seq := 0, ack := 0, kind := 0, credits := 0, payload := List.replicate 238 0 } else none := by
    intro c hc
    obtain ⟨hl, hg, ht, hd, h⟩ := witness_Links_flit c hc
    have hp : ∀ i, i < 3 → fecCorrect i (List.replicate 242 0 ++ toBytes 8 c ++ fecBytes (List.replicate 242 0 ++ toBytes 8 c)) =
        List.replicate 242 0 ++ toBytes 8 c ++ fecBytes (List.replicate 242 0 ++ toBytes 8 c) := fun i hi => by
      unfold fecCorrect; rw [if_pos (hg i hi)]
    have h4 : ∀ k, k ≤ 242 → (List.replicate 242 0 ++ toBytes 8 c ++ fecBytes (List.replicate 242 0 ++ toBytes 8 c)).take k = List.replicate k (0 : Byte) := by
      intro k hk
      rw [List.append_assoc, List.take_append_of_le_length (by rw [List.length_replicate]; exact hk), List.take_replicate, Nat.min_eq_left hk]
    have hb : ((List.replicate 242 0 ++ toBytes 8 c ++ fecBytes (List.replicate 242 0 ++ toBytes 8 c)).drop 4).take 238 = List.replicate 238 (0 : Byte) := by
      rw [List.take_drop, h4 242 (by decide), List.drop_replicate]
    unfold Flit.parse
    rw [List.take_left' hl, hp 0 (by decide), hp 1 (by decide), hp 2 (by decide)]
    simp only [hd, ht, h4 4 (by decide), hb]
    by_cases e : c = 0
    · rw [if_pos (h.2 e), if_pos e]; decide +kernel
    · rw [if_neg fun x => e (h.1 x), if_neg e]
  exact ⟨⟨_, _, parse 0 (by decide), rfl, rfl⟩, _, parse 1 (by decide)⟩

/-- This module is a compute module; an expander has no port for a message. -/
theorem witness_RemoteHome_role : tFab.isExpander = false ∧ ({ lpddr := some (2 ^ 38) } : State).isExpander = true := by decide +kernel
/-- A poisoned answer finds the split running, or parked; and the message of a record. -/
theorem witness_RemoteSource_poisoned :
    let s := tRemote (some 4) none none false 0x4010000000100
    let p := s.modSplOf 0 0 0 fun x => { x with status := .parked 3 }
    let r : Remote := { (s.remoteOf 9) with far := true, op := none }
    let f : State := { s with remotes := [(9, r)] }
    (s.remoteOf 9).engine = none ∧ (s.remoteOf 9).op ≠ none ∧ (s.splOf 0 0 (s.splitOf (s.remoteOf 9))).status = .ready ∧
      (p.splOf 0 0 (p.splitOf (p.remoteOf 9))).status = .parked 3 ∧ p.accessParked 9 = false ∧ p.remotes.has 9 = true ∧
      f.remotes.has 9 = true ∧ (f.remoteOf 9).far = true ∧ (f.remoteOf 9).retried = false ∧ (f.remoteOf 9).behind = false ∧ f.accessParked 9 = false ∧
      (∀ g d i, r.who ≠ .record g d i) ∧ s.hasGroup 0 0 = true := by
  refine ⟨by decide +kernel, by decide +kernel, by decide +kernel, by decide +kernel, by decide +kernel, by decide +kernel, by decide +kernel,
    by decide +kernel, by decide +kernel, by decide +kernel, by decide +kernel, fun _ _ _ h => ?_, by decide +kernel⟩
  have n : ((tRemote (some 4) none none false 0x4010000000100).remoteOf 9).who = .nobody := by decide +kernel
  exact nomatch n.symm.trans h

/-- Nothing waits inbound, or a write does. -/
theorem witness_HostPort_waits :
    let s : State := { tHdm with snoopHeld := [{ pa := 2 ^ 30, op := .write [1], who := .inbound, fn := 64 }] }
    tHdm.inboundWaits = false ∧ s.inboundWaits = true ∧ tHdm.isExpander = false ∧ State.pageOf (2 ^ 26 - 1) = none ∧
      ¬(2 ^ 39 ≤ 2 ^ 41 + 64 * 2 ^ 14 + 8 ∧ 2 ^ 41 + 64 * 2 ^ 14 + 8 - 2 ^ 39 + 8 ≤ bits tHdm.hdmcfg.toNat 25 16 * 2 ^ 30) ∧ 0x200100 % 128 + 8 ≤ 128 := by
  decide +kernel
/-- The table of extents can be written; a function whose only block is saved. -/
theorem witness_Expanders_table :
    let s := tExtent.modBlk 0 fun x => { x with life := .saved }
    (tExtent.canWrite (tExtent.extentAddr 0 + 0x12) = true ∧ tExtent.rangeOf (tExtent.extentAddr 0 + 0x12) ≠ .host) ∧ tExtent.fns = [] ∧
      (s.blkOf 0).life = .saved ∧ s.blocks = [(0, s.blkOf 0)] ∧ (s.gridOf (s.blkOf 0).grid).fn = s.extentFn 0 ∧ (s.gridOf (s.blkOf 0).grid).ctx < 64 ∧
      s.extentsOf 3 = [0] := by decide +kernel

/-- No command of the mailbox stands, or a report does. -/
theorem witness_Mailbox_stands :
    let s : State := { fns := [(0, { cfg := [(0, { mail := some (1, 0x3000, 0x6000, 0x7000) })] })] }
    (tMail.fnBlock 0 0).mail = none ∧ (s.fnBlock 0 0).mail = some (1, 0x3000, 0x6000, 0x7000) ∧
      ((1, 0x3000, 0x6000, 0x7000) : Nat × Nat × Nat × Nat) ≠ (1, 0x3000, 0x6000, 0x7008) ∧
      ((1, 0x3000, 0x6000, 0x7000) : Nat × Nat × Nat × Nat) ≠ (4, 0x3000, 0x6000, 0x7000) := by decide +kernel

/-- A block that has written an MMIO window retires; a grid without QSUB, and one that has failed. -/
theorem witness_Retirement_windows :
    let s : State := { tDone {} with blocks := [(0, { life := .running, groups := [(0, { lanes := 1, mmioDirty := [3] })] })] }
    s.drained 0 = true ∧ (s.blkOf 0).groups = [(0, { lanes := 1, mmioDirty := [3] })] ∧ s.remotes = [] ∧
      ((tDone {}).gridOf 0).qsubs = [] ∧ ((tDone { failed := true, qsubs := [(5, 1)] }).gridOf 0).failed = true := by decide +kernel
/-- A context save that drains, and one that has; a save area with too few pages. -/
theorem witness_Interruption_drains :
    let s := tPreempt .contextSave 0
    let c : CtxCmd := { op := 1, ctx := 0, mask := 0, drain := true, comp := 0, small := false }
    let d : State := { s with fns := [(0, { ctxCmds := [c] })] }
    let e : State := { s with fns := [(0, { ctxCmds := [{ c with drained := true }] })] }
    State.resident (s.blkOf 0) = true ∧ (s.blkOf 0).preempt = some .contextSave ∧ d.draining 0 0 = true ∧ e.draining 0 0 = false ∧ e.drains 0 0 = true ∧
      e.spanMates 0 = [0] ∧ e.canHalt 0 true = true ∧
      (∃ p ∈ s.freePages 0 0 (s.saveBytes 0 / 4096), s.areaPages 0 0 ≤ p) := by decide +kernel

/-- A context with saved work and one without: here with no area, so that there is none of another module. -/
theorem witness_ContextCommands_resume :
    let s : State := { tCtx 0 4 [] with dies := State.reset.dies }
    let n : State := { s with fns := [], blocks := [] }
    let m := fun (x : Nat) => (if x = 0 then 15 else BitVec.ofNat 4 x) &&& BitVec.ofNat 4 (2 ^ s.dieIds.length - 1)
    s.hasSaved 0 0 = true ∧ n.hasSaved 0 0 = false ∧ n.areaPages 0 0 = 0 ∧ m 0 ≠ 0 ∧ m 15 ≠ 0 ∧
      ({ lpddr := some (2 ^ 38) } : State).dieIds.length = 1 ∧ (BitVec.ofNat 4 2 &&& BitVec.ofNat 4 (2 ^ 1 - 1) : BitVec 4) = 0 ∧
      (∀ g ∈ s.ctxGrids 0 0, (s.gridOf g).pages = []) ∧
      (((s.blkOf 0).life = .saved ∨ (s.blkOf 0).life = .rolledBack) ∧ (s.ctxOf 0 0).stat.getLsbD 2 = true) := by decide +kernel
theorem witness_ContextCommands_read : ∃ v, ((tCtx 0 0 []).readWork 0 0 0).1 = v ∧ v.fns = (tCtx 0 0 []).fns ∧ v.dies = (tCtx 0 0 []).dies := by
  have h0 : (tCtx 0 0 []).readPages 0 0 0 ((tCtx 0 0 []).areaBase 0 0) ((List.range 0).take 1) 4096 = (tCtx 0 0 [], []) := rfl
  have hr : ∀ n, (tCtx 0 0 []).readPages 0 0 0 ((tCtx 0 0 []).areaBase 0 0) (List.range 0) n = (tCtx 0 0 [], []) := fun n => rfl
  have ha : (tCtx 0 0 []).areaPages 0 0 = 0 := by decide +kernel
  refine ⟨_, rfl, ?_⟩
  unfold State.readWork
  rw [ha, h0]
  simp only [ha, Nat.min_zero, hr]
  constructor <;> trivial
/-- A save that is over, one that drains still, and one that has drained. -/
theorem witness_ContextCommands_drain :
    let c := { tCtxCmd 1 false with drain := true }
    (tCtx 0 0 [c]).cmdOver 0 { c with drained := true } = true ∧ (c.op = 1 ∧ c.drain = true ∧ c.drained = false) ∧ (tCtxCmd 1 false).drain = false ∧
      (((tCtx 0 0 [tCtxCmd 1 false]).statBit 0 0 3 false).saveGrids 0 0).isNone = true ∧
      ((({ tCtx 0 0 [tCtxCmd 1 false] with grids := [] } : State).statBit 0 0 3 false).saveGrids 0 0).isSome = true := by decide +kernel
/-- A die whose blocks have been handed on to the dies of its Target. -/
theorem witness_Evacuation_handed :
    let s : State := { dies := [(0, { evac := 0x40000020 })], blocks := [(0, { life := .saved, cause := 2, die := 0 })] }
    (s.dieOf 0).evac.getLsbD 30 = true ∧ (∀ e ∈ s.blocks, State.resident e.2 = true → e.2.die ≠ 0) ∧ s.blocks.has 0 = true ∧
      (s.blkOf 0).life = .saved ∧ (s.blkOf 0).die = 0 ∧ (s.blkOf 0).cause ≠ 5 := by decide +kernel
theorem witness_ResetAndManagement_shadow :
    (tState 0).shadowAt (1024 * 0 + 5) % 64 = 0 ∧ (tState 0).canWrite ((tState 0).shadowAt (1024 * 0 + 5) + 0x18) = true ∧
      (tState 0).rangeOf ((tState 0).shadowAt (1024 * 0 + 5) + 0x18) ≠ .host := by decide +kernel
/-- What the step keeps behind others, and what it settles. -/
theorem witness_StepRunsTheWord_events :
    let s : State := { tState 0 with agenda := [.event (.governorPeriod 0)] }
    s.agenda = .event (.governorPeriod 0) :: [] ∧ s.keepsBehind (.governorPeriod 0) = false ∧ s.snoopHeld = [] ∧ s.later = [] ∧
      (∀ y ∈ s.remotes, y.2.poisoned = false) := by decide +kernel

/-! ### Words that trap, and accesses that park -/

/-- tTurnOf with a handler. -/
def tFetch (w : Word) (left : Nat) (f : Split → Split) : State :=
  let s := tTurnOf (.split 0 0 0) w left
  ({ s with grids := [(0, { s.gridOf 0 with trapEntry := some 0x20 })] } : State).modSplOf 0 0 0 f
/-- A word outside the code, one at an offset that is no multiple of 4, and words that fail a check. -/
theorem witness_ExecutionTraps_fetch : ∀ x ∈ [(tFetch 0 1 fun x => { x with pc := 64 }), (tFetch 0 1 fun x => { x with pc := 2 }), (tFetch 0x2F000000 1 id),
      (tFetch 0 0 id), (tFetch 0x00010281 1 id)],
    let u : State := { x with agenda := [], focus := {} }
    x.agenda = [.split 0 0 0] ∧ x.splitMay 0 0 0 = true ∧ x.isNext 0 0 0 = true ∧ u.takesH = false ∧ (x.gridOf (x.blkOf 0).grid).codeCopy = none ∧
      (x.splOf 0 0 0).frame = none ∧ (x.gridOf (x.blkOf 0).grid).trapEntry = some 0x20 ∧ x.far = [] := by decide +kernel
theorem witness_ExecutionTraps_hits : ∀ w ∈ [0x2F000000, 0x00010281],
    let s := tFetch w 1 id
    let u : State := { s with agenda := [], focus := {} }
    (s.splOf 0 0 0).pc % 4 = 0 ∧ (s.splOf 0 0 0).pc + 4 ≤ (s.gridOf 0).codeBytes ∧ Hits u .fetch 4 ((s.gridOf 0).code + (s.splOf 0 0 0).pc) 0x10004 ∧
      BitVec.ofNat 32 (s.rdNum 0x10004 4) = w := by
  intro w h
  simp only [List.mem_cons, List.not_mem_nil, or_false] at h
  obtain rfl | rfl := h <;> exact ⟨by decide +kernel, by decide +kernel, hits_of (by decide +kernel), by decide +kernel⟩
def trapsAt (x : Fetched) (c : Nat) : Bool := match x with | .trap k _ => decide (k = c) | _ => false
theorem witness_ExecutionTraps_words :
    trapsAt (checkWord false 1 4 (tState 0).within 0x2F000000) 0x01 = true ∧ trapsAt (checkWord false 1 4 (tState 0).within 0x00010281) 0x02 = true := by
  decide +kernel
/-- Each check of a word: a header inside a clause, and another word where one should stand; a header that is ill-formed, or not a header, or with
its reserved bit; a word of the stream; words that do not decode; one ill-formed; a register beyond the group's; a transfer in mid-clause. -/
theorem witness_ExecutionTraps_checks :
    let ok : Word := 0b1111_000000000000_1111_1111_0010_000_0
    (0xF0 ≤ prim ok ∧ (1 : Nat) ≠ 0) ∧ (prim 0 < 0xF0) ∧
    (∃ i, decodeHeader (ok &&& ~~~1) = .ok i ∧ i.wf = true ∧ bit (ok ||| 1) 0 = true) ∧
    (∃ i, decodeHeader 0xF000FF00 = .ok i ∧ i.wf = false) ∧
    (0xD0 ≤ prim (encode (.mswait 3)) ∧ prim (encode (.mswait 3)) < 0xE0) ∧
    (refusal 0x00010281 = some .reserved) ∧ (refusal 0x2F000000 = some .badPrimary) ∧
    (∃ r ∈ vnames (.vadd 200 1 2), (tWith { tGroup 0 with vregs := 64 }).within r.1 r.2 = false) ∧ isTransfer (.bra 0) = true := by
  refine ⟨by decide +kernel, by decide +kernel, ⟨.clauseHeader 0 15 15 2 false false false, ?_, by decide +kernel, by decide +kernel⟩,
    ⟨.clauseHeader 0 15 15 0 false false false, ?_, by decide +kernel⟩, by decide +kernel, by decide +kernel, by decide +kernel, by decide +kernel,
    by decide +kernel⟩ <;> rfl

/-- Calls at depths 48, 47 and 16 where the stack would lie below scratch; returns at depth 0 and 17; a target that is no multiple of 4. -/
theorem witness_ExecutionTraps_calls :
    let none_ : State := { tDepth 16 [] with grids := [(0, { scratchBytes := 0 })] }
    let back : State := { tDepth 17 [] with grids := [(0, { scratchBytes := 0 })] }
    Running (tDepth 48 []) ∧ 48 ≤ (tDepth 48 []).spl.depth ∧ ((tDepth 48 []).getS 4).toNat % 4 = 0 ∧ ((tDepth 48 []).getS 5).toNat % 4 ≠ 0 ∧
      Running none_ ∧ none_.spillBad 0 0 = true ∧ (tDepth 0 []).spl.depth = 0 ∧ Running back ∧ back.spl.depth = 17 ∧ back.spl.defs = [] ∧
      back.spillBad 0 0 = true := by decide +kernel

/-- f32 operands, with MODE.TrapInv, MODE.TrapDiv or neither set. -/
def tFloats (mode x y : Word) : State := tWith { tGroup mode with v := [(192, x), (384, y), (576, 0)] }
theorem witness_ExecutionTraps_floats :
    let nan := fun (v : Machine.Num) => decide ((decodeF (tyFmt 8) (roundTo (tyFmt 8) 0 false v)).isNaN = true)
    let val := fun (s : State) (r : Nat) => readF (tyFmt 8) s.spl.ftz (elem 8 (s.grp.getVal 8 r 0) 0)
    let bad := fun (s : State) (f : Machine.Num → Machine.Num → Machine.Num) =>
      !(val s 2).isNaN && !(val s 4).isNaN && !(val s 6).isNaN && nan (f (val s 2) (val s 4))
    let a := tFloats 0x8010 0x7F800000 0xFF800000
    let b := tFloats 0x8010 0x7F800000 0x7F800000
    let m := tFloats 0x8010 0x7F800000 0
    let z := tFloats 0x8020 0 0
    (∀ s ∈ [a, b, m, z], Running s ∧ vecOk floatTypes [6, 2, 4] s = true ∧ s.spl.round ≠ 5 ∧ s.spl.type = 8 ∧ s.execLanes.getLsbD 0 = true) ∧
      (a.spl.trapInv = true ∧ bad a (fun x y => sumN 0 [x, y]) = true) ∧ bad b (fun x y => sumN 0 [x, y.neg]) = true ∧ bad m mulN = true ∧
      bad m (fun x y => sumN 0 [mulN x y, val m 6]) = true ∧
      (z.spl.trapDiv = true ∧ z.spl.trapInv = false ∧ FlagFree z ∧ (val z 2).isZero = true) := by decide +kernel
/-- Integers: a zero divisor, and the most negative number by −1; floats: a finite number by zero. -/
theorem witness_ExecutionTraps_divides :
    let z := tFloats 0x4020 7 0
    let o := tFloats 0x4020 0x80000000 0xFFFFFFFF
    let f := tFloats 0x8020 0x3F800000 0
    (∀ s ∈ [z, o, f], Running s ∧ FlagFree s ∧ s.spl.trapDiv = true ∧ s.spl.trapInv = false ∧ s.execLanes.getLsbD 0 = true ∧ s.spl.round ≠ 5) ∧
      (∀ s ∈ [z, o], vecOk intTypes [6, 2, 4] s = true) ∧ vecOk floatTypes [6, 2, 4] f = true ∧
      ival 4 (elem 4 (z.grp.getVal 4 4 0) 0) = 0 ∧ ival 4 (elem 4 (o.grp.getVal 4 2 0) 0) = minT 4 ∧ ival 4 (elem 4 (o.grp.getVal 4 4 0) 0) = -1 ∧
      (tyOf 4).signed = true ∧ (readF (tyFmt 8) false (elem 8 (f.grp.getVal 8 4 0) 0)).isZero = true ∧
      (readF (tyFmt 8) false (elem 8 (f.grp.getVal 8 2 0) 0)).isZero = false ∧ (readF (tyFmt 8) false (elem 8 (f.grp.getVal 8 2 0) 0)).isInf = false ∧
      (readF (tyFmt 8) false (elem 8 (f.grp.getVal 8 2 0) 0)).isNaN = false := by decide +kernel

/-- BIND with a descriptor that is too large, a region that is misaligned, an object that is; UNBIND of entry 64; an object that is not bound. -/
theorem witness_ExecutionTraps_bindings :
    let s := tWithS { tSplit 0 with s := [(4, 255), (5, 128), (6, 0), (8, 2), (10, 64), (12, 256), (14, 4)] }
    Running s ∧ 256 ≤ (s.getS 12).toNat ∧ (s.getS 4).toNat < 256 ∧ (s.getS 6).toNat % 128 = 0 ∧ (s.getS 8).toNat % 128 ≠ 0 ∧ (s.getS 5).toNat % 128 = 0 ∧
      (s.getS 8).toNat % 4 ≠ 0 ∧ 64 ≤ (s.getS 10).toNat ∧ (s.getS 14).toNat % 4 = 0 ∧ s.isBound true (s.getS 14).toNat 4 = false := by decide +kernel
/-- Numbered barriers: no arrival named, none expected, more than are to come. s5 is 7, s8 is 0. -/
theorem witness_ExecutionTraps_barriers :
    let few := tBar 6 none
    ((few.getS 8).toNat % 65536 = 0) ∧ Running few ∧ fenceReady few = true ∧ (few.getS 5).toNat % 65536 ≠ 0 ∧ (few.blk.bars.get {} 4).expected ≠ 0 ∧
      (few.blk.bars.get {} 4).pending.toNat < (few.getS 5).toNat % 65536 ∧ ((tState 0).blk.bars.get {} 4).expected = 0 ∧ (tState 0).acqBusy = false ∧
      (tState 0).spl.replay ≠ some State.woken := by decide +kernel
/-- A barrier word at scratch offset 16 with some of its bytes changed; s8 is a good word to initialise one with, s10 one of a bad scope, s12 one that is
bound to entry 3, which is free; s5 is 7, s6 is s7 is 0 but for added bytes. -/
def tWordBad (edits : Cells 8) (s7 : Word) : State :=
  { tState 0 with blocks := [(0, { life := .running, scratch := edits.foldl (fun m e => Cells.set m e.1 e.2) [(16, 7), (18, 7), (28, 1)],
                                   groups := [(0, { tGroup 0 with splits := [(0, { tSplit 0 with
                                     s := [(4, 16), (5, 7), (6, s7), (8, 0x10007), (10, 0x50007), (12, 0x390007)] })] })] })] }
theorem witness_ExecutionTraps_words_at : AtWord (tWordBad [] 0) .scr (barOperand (tWordBad [] 0) .scr 4) true 16 :=
  ⟨by decide +kernel, by decide +kernel, .inl (by decide +kernel)⟩
theorem witness_ExecutionTraps_words_bad :
    let s := tWordBad [] 0
    let w := fun (e : Cells 8) => (tWordBad e 0).bwRead 0 true 16
    let v := fun (r : Nat) => (s.getS r).toNat
    Running s ∧ fenceReady s = true ∧ s.acqBusy = false ∧ s.spl.replay ≠ some State.woken ∧
      1 < bits (v 10) 18 16 ∧ (v 12 < 2 ^ 26 ∧ bits (v 12) 18 16 = 1 ∧ (v 12).testBit 19 = true ∧ bindBad s true 16 (bits (v 12) 25 20) = true) ∧
      (bwBound (w []) = false ∧ v 14 % 65536 = 0 ∧ v 5 % 65536 ≠ 0) ∧ bwExpected (w [(16, 0)]) = 0 ∧
      (bwExpected (w [(28, 0)]) ≠ 0 ∧ bwScope (w [(28, 0)]) = 0) ∧ (bwPending (w [(18, 6)]) < v 5 % 65536) ∧
      (bwBound (w [(28, 9)]) = true ∧ bindBad (tWordBad [(28, 9)] 0) true 16 (bwIndex (w [(28, 9)])) = true) := by decide +kernel
/-- More bytes than a word counts, and a word in the host's memory. -/
theorem witness_ExecutionTraps_words_far :
    let full := tWordBad [(20, 0xFF), (21, 0xFF), (22, 0xFF), (23, 0xFF), (24, 0xFF), (25, 0xFF)] 1
    let z := full.bwRead 0 true 16
    bwExpected z ≠ 0 ∧ 1 ≤ bwScope z ∧ bwScope z ≤ 4 ∧ (full.getS 5).toNat % 65536 ≤ bwPending z ∧ 2 ^ 48 ≤ bwBytes z + (full.getS 6).toNat := by decide +kernel

/-! ### Accesses that trap at issue, or park -/

/-- One lane, whose v1 is off: s4 and s5 are 0. -/
def tOff (off : Word) : State := tWith { tGroup 0 with splits := [(0, { tSplit 0 with s := [] })], v := [(96, off)] }
/-- Addresses and offsets that no size divides, and one at the end of scratch. -/
theorem witness_AccessTraps_lanes :
    let s := tOff 33
    let e := tOff 4096
    (∀ t ∈ [s, e], Running t ∧ FlagFree t ∧ t.acqBusy = false ∧ t.grp.sb.length < 32 ∧ t.execLanes.getLsbD 0 = true ∧ fenceReady t = true ∧
      t.atomsOut t.focus.blk t.focus.grp = false) ∧
    (∀ n ∈ [4, 8, 16], s.addrFM 1 2 0 % n ≠ 0 ∧ s.offFSM 1 2 0 % n ≠ 0 ∧ e.offFSM 1 2 0 % n = 0 ∧ e.scrBytes 0 < e.offFSM 1 2 0 + n) ∧
    (∀ n ∈ [4, 8], ∀ scr ∈ [false, true], s.addrFA 1 0 scr % n ≠ 0) ∧ e.addrFA 1 0 true % 8 = 0 ∧ e.scrBytes 0 < e.addrFA 1 0 true + 4 := by decide +kernel
/-- s4 = 20 and s5 = 7; s6 is at the end of scratch, s8 = 2. -/
def tOne (act : Tab ActTable) : State :=
  { tWithS { tSplit 0 with s := [(4, 20), (5, 7), (6, 4096), (8, 2)] } with
    blocks := [(0, { life := .running, act := act, groups := [(0, { tGroup 0 with splits := [(0, { tSplit 0 with s := [(4, 20), (5, 7), (6, 4096), (8, 2)] })] })] })] }
theorem witness_AccessTraps_one :
    let s := tOne [(1, { st := 1, addr := 0xF00 })]
    Running s ∧ FlagFree s ∧ s.acqBusy = false ∧ s.grp.sb.length < 32 ∧ s.addrScalar 8 10 8 % 8 ≠ 0 ∧ (s.getP 4).toNat % 64 ≠ 0 ∧
      (s.actTab 1).st = 1 ∧ (s.actTab 0).st ≠ 1 ∧ s.spl.replay = none ∧ (s.getP 8).toNat % 4 ≠ 0 ∧ (s.getS 8).toNat % 4 ≠ 0 ∧
      (s.getP 4).toNat % 16 ≠ 0 ∧ (s.getS 4).toNat % 16 ≠ 0 ∧ (s.getS 6).toNat % 16 = 0 ∧ s.scrBytes s.focus.blk < (s.getS 6).toNat + 16 ∧
      s.spl.replay ≠ some State.woken := by decide +kernel
/-- Commands whose offset is misaligned, whose word is misaligned, whose first element lies beyond scratch, and whose word does. -/
theorem witness_AccessTraps_commands :
    let s := tPatState tPat
    let w := fun (r : Nat) => (s.getS r).toNat
    Running s ∧ engHeld s.grp < 32 ∧ patBytes tPat = 4 ∧ patElems tPat = 2 ∧ (!patIndirect tPat && !patTranspose tPat && !patDequant tPat) = true ∧
      s.scrBytes s.focus.blk = 4096 ∧ w 10 % 32 ≠ 0 ∧ w 4 % 32 = 0 ∧ w 10 % 16 = 0 ∧ w 5 = 0xFFFFFFFF ∧ w 6 % 32 = 0 ∧ w 6 = 4096 ∧
      (∀ k, k < 0 → w 6 + k * 4 + 4 ≤ 4096) ∧ w 4 + 8 ≤ 4096 ∧ 4096 < w 6 + 16 ∧ w 8 % 4 = 0 ∧ w 8 + 16 ≤ 4096 ∧ 4096 < w 8 + 20 := by decide +kernel
theorem witness_AccessTraps_fill :
    let s := tWithS { tSplit 0 with s := [(4, 4080), (6, 20), (8, 2)] }
    let w := fun (r : Nat) => (s.getS r).toNat
    engHeld s.grp < 32 ∧ w 8 % 4 ≠ 0 ∧ w 4 % 4 = 0 ∧ w 6 % 4 = 0 ∧ s.scrBytes s.focus.blk < w 4 + w 6 ∧ s.scrBytes s.focus.blk < w 4 + 4 * 4 + 4 ∧
      (∀ k, k < 4 → w 4 + 4 * k + 4 ≤ s.scrBytes s.focus.blk) := by decide +kernel

/-- Two lanes: the first reaches memory at 32, the second an address that is not mapped. -/
def tTwoLanes : State :=
  tWith { tGroup 0 with lanes := 2, v := [(96, 32), (97, 0x40000000)], splits := [(0, { tSplit 0 with live := 3, exec := 3, execCopy := 3, s := [] })] }
def tReaches (acc : AccType) (n : Nat) (i : Instr) : State × List (Nat × Nat × Reach) :=
  reachLanes acc n ((accessing tTwoLanes).map fun l => (l, tTwoLanes.addrFM 1 2 l)) (startWord (encode i) tTwoLanes)
theorem witness_AccessTraps_parks : ∀ x ∈ [(AccType.read, 4, Instr.ldG32 3 1 2 0), (.read, 8, .ldG64 4 1 2 0), (.read, 16, .ldG128 4 1 2 0), (.read, 4, .ldAcq 3 1 2 .blk),
      (.write, 4, .stG32 3 1 2 0), (.write, 8, .stG64 4 1 2 0), (.write, 16, .stG128 4 1 2 0), (.write, 4, .stRel 3 1 2 .blk)],
    let s := tTwoLanes
    let r := tReaches x.1 x.2.1 x.2.2
    Running s ∧ FlagFree s ∧ s.acqBusy = false ∧ s.grp.sb.length < 32 ∧ Running r.1 ∧ (∀ l ∈ accessing s, s.addrFM 1 2 l % x.2.1 = 0) ∧
      r.2 = [(0, 32, .ok 32), (1, 0x40000000, .fault 1)] ∧ r.1.rangeOf 32 ≠ .host ∧ r.1.sbHit 0 0 0 false 32 x.2.1 = false ∧
      r.1.atomAhead 0 32 x.2.1 = false ∧ fenceReady s = true := by decide +kernel
/-- SST to an address that is not mapped, and to one whose page table has a poisoned sector. -/
theorem witness_AccessTraps_scalar :
    let i := Instr.sst .b32 5 1 0
    let s := tWithS { tSplit 0 with s := [(2, 0x80000000)] }
    let w := startWord (encode i) s
    let va := s.addrScalar 2 0 4
    let z : State := { tWithS { tSplit 0 with s := [(2, 32)] } with mem := (tWalk []).mem, fns := (tWalk []).fns, cores := [], poison := [0x80] }
    let y := startWord (encode i) z
    va % 4 = 0 ∧ Running s ∧ (w.reach w.blk va 4 .write).2 = .fault 1 ∧ Running (w.reach w.blk va 4 .write).1 ∧
      z.addrScalar 2 0 4 % 4 = 0 ∧ Running z ∧ (y.reach y.blk 32 4 .write).2 = .poison ∧ z.addrScalar 2 0 4 = 32 := by decide +kernel

/-- A barrier operand in the host's memory. -/
def tHostWord : State :=
  { tWithS { tSplit 0 with s := [(4, 16)] } with cores := [(0, { credit := 8, tlb := [{ tTlb with pa := 0x8000000000000 }] })] }
theorem witness_ExecutionTraps_host : 
    let x := barOperand tHostWord .word 4
    x % 16 = 0 ∧ tHostWord.acqBusy = false ∧ Hits tHostWord .atomic 16 x (0x8000000000000 + 16) ∧ tHostWord.rangeOf (0x8000000000000 + 16) = .host :=
  ⟨by decide +kernel, by decide +kernel, hits_of (by decide +kernel), by decide +kernel⟩

end Sys2Proof.Tests
end

section
/-! PROOF. What reset leaves. -/

namespace Sys2Proof.Machine

/-- Of the dies after reset only die 0 differs from an untouched one: its port is the host's (R378). -/
theorem reset_dieOf (d : Nat) : State.reset.dieOf d = if 0 = d then { portcfg := 1 } else {} := rfl

/-- Settles O58: reset lists nothing but die 0, so every other register reads as the default of its record. -/
theorem resetValues : Obligations.ResetValues := by
  refine ⟨rfl, fun _ => rfl, rfl, rfl, rfl, rfl, fun _ _ => ⟨rfl, rfl, rfl, rfl⟩, fun d => ?_,
    fun _ _ => ⟨rfl, rfl, rfl, rfl⟩, fun _ => ⟨rfl, rfl⟩⟩
  simp only [State.bayOf, reset_dieOf]
  split
  · exact ⟨rfl, rfl, rfl, fun _ => rfl⟩
  · exact ⟨rfl, rfl, rfl, fun _ => rfl⟩

end Sys2Proof.Machine
end

section
/-! PROOF. A write of the device to memory (R232, R230, R6): the dirty bit first, then the bytes. -/

namespace Sys2Proof.Machine

/-! ### What stands between the dirty bit and the bytes leaves memory alone -/

theorem ask_eq (s : State) (a : FarAsk) : s.ask a = { s with farAsk := (s.ask a).farAsk } := by
  unfold State.ask; split <;> rfl

theorem claimLine_eq (s : State) (l pa : Nat) : s.claimLine l pa = { s with farAsk := (s.claimLine l pa).farAsk } := by
  unfold State.claimLine
  split
  · exact ask_eq ..
  · split
    · exact ask_eq ..
    · rfl

theorem claimLines_eq (pa : Nat) (ls : List Nat) (s : State) :
    ls.foldl (fun s l => s.claimLine l (max pa (128 * l))) s =
      { s with farAsk := (ls.foldl (fun s l => s.claimLine l (max pa (128 * l))) s).farAsk } := by
  induction ls generalizing s with
  | nil => rfl
  | cons l t ih =>
    rw [List.foldl_cons, ih]
    generalize State.farAsk (List.foldl _ _ t) = q
    rw [claimLine_eq]

/-- What a controller waits for before it writes is all that a claim of lines can change (R340, R379). -/
theorem claim_eq (s : State) (pa n : Nat) : s.claim pa n = { s with farAsk := (s.claim pa n).farAsk } :=
  claimLines_eq pa _ s

theorem holdReq_eq (s : State) (r : HeldReq) : s.holdReq r = { s with cells := (s.holdReq r).cells } := by
  unfold State.holdReq; split <;> rfl

/-! ### The dirty bit (R232) -/

theorem orByte_poison (s : State) (pa : Nat) (m : Byte) : (s.orByte pa m).poison = s.poison := by
  unfold State.orByte
  split
  · rw [holdReq_eq]
  · rw [claim_eq]

/-- A byte that is not held gets its bits; every other byte stands. -/
theorem byteAt_orByte (s : State) (pa : Nat) (m : Byte) (a : Nat) :
    (s.orByte pa m).byteAt a = if a = pa ∧ s.heldPage pa = false then s.byteAt pa ||| m else s.byteAt a := by
  unfold State.orByte
  by_cases hp : s.heldPage pa = true
  · simp [hp, State.byteAt, holdReq_mem]
  · have hm : (s.claim pa 1).mem = s.mem := by rw [claim_eq]
    simp only [hp, State.byteAt, hm, Cells.get_set, eq_comm (a := a), and_true, Bool.false_eq_true, if_false]

theorem dirtyAt_eq_some {s : State} {fn pa i : Nat} (hf : (s.fnBlock fn (s.homeDie pa)).flags.getLsbD 0 = true)
    (hi : s.dirtyBit pa = some i) :
    s.dirtyAt fn pa = some ((s.fnBlock fn (s.homeDie pa)).dirtyBase + i / 8, 1#8 <<< (i % 8)) := by
  simp only [State.dirtyAt, hf, hi, if_true, Option.map_some]

/-- A frame whose log is on has its bit set where it has one. -/
theorem markDirty_logged {s : State} {fn pa i : Nat} (hf : (s.fnBlock fn (s.homeDie pa)).flags.getLsbD 0 = true)
    (hi : s.dirtyBit pa = some i) :
    s.markDirty fn pa = s.orByte ((s.fnBlock fn (s.homeDie pa)).dirtyBase + i / 8) (1#8 <<< (i % 8)) := by
  rw [State.markDirty, dirtyAt_eq_some hf hi]

/-- A frame without a log, or without a bit, changes nothing. -/
theorem markDirty_unlogged {s : State} {fn pa : Nat}
    (h : (s.fnBlock fn (s.homeDie pa)).flags.getLsbD 0 = false ∨ s.dirtyBit pa = none) : s.markDirty fn pa = s := by
  have hn : s.dirtyAt fn pa = none := by
    rcases h with h | h
    · simp only [State.dirtyAt, h, Bool.false_eq_true, if_false]
    · simp only [State.dirtyAt, h, Option.map_none, ite_self]
  rw [State.markDirty, hn]

theorem markDirty_poison (s : State) (fn pa : Nat) : (s.markDirty fn pa).poison = s.poison := by
  unfold State.markDirty
  split
  · exact orByte_poison ..
  · rfl

/-! ### The write -/

theorem wr_mem (s : State) (fn pa : Nat) (bs : List Byte) :
    (s.wr fn pa bs).mem = putBytes (s.markDirty fn pa).mem pa bs := by
  rw [State.wr, State.put, tlpWrite_mem]

theorem wr_poison (s : State) (fn pa : Nat) (bs : List Byte) : (s.wr fn pa bs).poison =
    s.poison.filter fun p => !(decide (pa ≤ p * 32) && decide (p * 32 + 32 ≤ pa + bs.length)) := by
  have h (t : State) : (t.tlpWrite pa bs).poison = t.poison := by unfold State.tlpWrite; split <;> rfl
  rw [State.wr, State.put, h, markDirty_poison]

/-- Outside the bytes written, memory is as the dirty bit has left it. -/
theorem byteAt_wr_outside (s : State) (fn : Nat) {pa a : Nat} {bs : List Byte} (h : a < pa ∨ pa + bs.length ≤ a) :
    (s.wr fn pa bs).byteAt a = (s.markDirty fn pa).byteAt a := by
  rw [State.byteAt, wr_mem, get_putBytes_outside _ _ _ _ h]; rfl

theorem byteAt_wr_inside (s : State) (fn pa : Nat) {bs : List Byte} {k : Nat} (h : k < bs.length) :
    (s.wr fn pa bs).byteAt (pa + k) = bs[k] := by
  rw [State.byteAt, wr_mem, get_putBytes_inside _ _ _ _ h]

/-- Settles O15: outside its bytes a write is its dirty bit, which orByte sets in one byte. -/
theorem memoryWrite : Obligations.MemoryWrite := by
  intro s fn pa bs
  refine ⟨fun k h => byteAt_wr_inside s fn pa h, fun a ha hlog => ?_, fun i hf hp hi ha => ?_, fun p => ?_,
    fun h => wr_memInv h fn pa bs⟩
  · rw [byteAt_wr_outside s fn ha]
    by_cases hf : (s.fnBlock fn (s.homeDie pa)).flags.getLsbD 0 = true
    · cases hi : s.dirtyBit pa with
      | none => rw [markDirty_unlogged (.inr hi)]
      | some i =>
        have hne := hlog hf (by simp [hi])
        rw [hi, Option.getD_some] at hne
        rw [markDirty_logged hf hi, byteAt_orByte, if_neg fun h => hne h.1]
    · rw [markDirty_unlogged (.inl (by simpa using hf))]
  · simp only [hi, Option.getD_some] at hp ha ⊢
    rw [byteAt_wr_outside s fn ha, markDirty_logged hf hi, byteAt_orByte, if_pos ⟨rfl, hp⟩]
  · rw [wr_poison, List.mem_filter, Nat.mul_comm 32 p]
    simp only [Bool.not_eq_true', Bool.and_eq_false_iff, decide_eq_false_iff_not, Decidable.not_and_iff_or_not]

end Sys2Proof.Machine
end

section
/-! PROOF. Module reset (R444), management messages (R450), and registers that a write only stores (R8). -/

namespace Sys2Proof.Machine

/-! ### Module reset (R444, R218) -/

/-- Reading the cells of a table whose keys satisfy p. -/
theorem Cells_get_filter_key {w : Nat} (m : Cells w) (p : Nat → Bool) (q : Nat) :
    Cells.get (m.filter fun e => p e.1) q = if p q then Cells.get m q else 0 := by
  induction m with
  | nil => simp [Cells.get]
  | cons e t ih =>
    obtain ⟨a, x⟩ := e
    rw [List.filter_cons, Cells.get]
    by_cases ha : a = q
    · subst ha
      by_cases hp : p a = true
      · simp [hp, Cells.get]
      · simp only [hp, if_false, ih, Bool.false_eq_true]
    · simp only [if_neg ha]
      split
      · rw [Cells.get, if_neg ha, ih]
      · exact ih

theorem byteAt_eraseMem (s : State) (a n q : Nat) :
    (s.eraseMem a n).byteAt q = if a ≤ q ∧ q < a + n then 0 else s.byteAt q := by
  simp only [State.byteAt, State.eraseMem]
  rw [Cells_get_filter_key (p := fun k => decide (k < a) || decide (a + n ≤ k))]
  by_cases h : a ≤ q ∧ q < a + n
  · rw [if_pos h, if_neg (by simp; omega)]
  · rw [if_neg h, if_pos (by simp; omega)]

/-- A table made of a function on the keys below n. -/
theorem Tab_get_range_map {α : Type} (d : α) (f : Nat → α) {n k : Nat} (h : k < n) :
    Tab.get d ((List.range n).map fun i => (i, f i)) k = f k := by
  have hl (l : List Nat) (hk : k ∈ l) : Tab.get d (l.map fun i => (i, f i)) k = f k := by
    induction l with
    | nil => simp at hk
    | cons a t ih =>
      rw [List.map_cons, Tab.get]
      split
      · next e => rw [e]
      · next e => exact ih (by simpa [Ne.symm e] using hk)
  exact hl _ (List.mem_range.mpr h)

/-- BOOTSTAT after a reset says that the die has booted (R444). -/
theorem bootDie_booted (s : State) (d role : Nat) : (s.bootDie d role).bootstat.getLsbD 31 = true := by
  simp only [State.bootDie, BitVec.getLsbD_ofNat, Nat.testBit_eq_decide_div_mod_eq]
  simp
  omega

/-- The dies after a module reset (R444). -/
theorem moduleReset_dieOf {s t : State} (h : exec .moduleReset s = .next t) {k : Nat} (hk : k < if s.isExpander then 1 else 4) :
    t.dieOf k = { s with boots := s.boots + 1 }.bootDie k (s.roleAfter k) := by
  obtain rfl := Host.Outcome.next.inj h
  exact Tab_get_range_map _ _ hk

/-! ### Registers that a write only stores (R8, R349, R350, R370) -/

/-- A byte of the fabric block holds its bits that are not reserved (R370). -/
theorem write_fabricByte (s : State) {o v : Nat} {m b : Byte} (hm : State.fabricMask o = m) (hb : BitVec.ofNat 8 v &&& m = b) :
    exec (.registerWrite (.fabricByte o) v) s = .next { s with fabric := s.fabric.set o b } := by
  subst hm hb; rfl

theorem ofNat8_and_255 (v : Nat) : BitVec.ofNat 8 v &&& 0xFF = BitVec.ofNat 8 v := BitVec.and_allOnes

theorem ofNat8_and_1 (v : Nat) : BitVec.ofNat 8 v &&& 1 = BitVec.ofNat 8 (v % 2) := by
  apply BitVec.eq_of_toNat_eq
  rw [BitVec.toNat_and, show BitVec.toNat (1 : Byte) = 2 ^ 1 - 1 from rfl, Nat.and_two_pow_sub_one_eq_mod]
  simp only [BitVec.toNat_ofNat]
  omega

/-- The whole bytes of the fabric block. -/
theorem fabricMask_full {o : Nat} (h : o < 0x1C ∨ (0x40 ≤ o ∧ o < 0xC0 ∧ o % 2 = 0) ∨ (0xC0 ≤ o ∧ o < 0x140)) :
    State.fabricMask o = 0xFF := by
  simp only [State.fabricMask]
  rcases h with h | ⟨h1, h2, h3⟩ | ⟨h1, h2⟩
  · rw [if_pos h]
  · rw [if_neg (by omega), if_neg (by omega), if_pos h2, if_pos h3]
  · rw [if_neg (by omega), if_neg (by omega), if_neg (by omega), if_pos h2]

/-- The bytes of which only the enable bit of a function stands. -/
theorem fabricMask_enable {o : Nat} (h1 : 0x40 ≤ o) (h2 : o < 0xC0) (h3 : o % 2 = 1) : State.fabricMask o = 1 := by
  simp only [State.fabricMask]
  rw [if_neg (by omega), if_neg (by omega), if_pos h2, if_neg (by omega)]

/-- The reserved bytes of the fabric block. -/
theorem fabricMask_reserved {o : Nat} (h : (0x1C ≤ o ∧ o < 0x40) ∨ 0x140 ≤ o) : State.fabricMask o = 0 := by
  simp only [State.fabricMask]
  rcases h with ⟨h1, h2⟩ | h
  · rw [if_neg (by omega), if_pos h2]
  · rw [if_neg (by omega), if_neg (by omega), if_neg (by omega), if_neg (by omega)]

/-- The whole bytes of a Pantry configuration block, its Enable and tier bytes apart. -/
theorem writePantry_plain (f : Fn) {o : Nat} (v : Nat) (h : o < 0x18 ∨ (0x20 ≤ o ∧ o < 0x88)) :
    State.writePantry f o v = { f with pantry := f.pantry.set o (BitVec.ofNat 8 v) } := by
  have hm : State.pantryMask o = 0xFF := by
    simp only [State.pantryMask]
    rw [if_neg (by omega), if_neg (by omega), if_neg (by omega), if_pos (by omega)]
  simp only [State.writePantry, hm, ofNat8_and_255]
  rw [if_neg (by omega)]

theorem settleRecl_eq (f : Fn) : settleRecl f = { f with pantryRecl := (settleRecl f).pantryRecl } := by
  unfold settleRecl; split <;> rfl

/-- Setting Enable: the counts are 0 (R350). -/
theorem writePantry_enable (f : Fn) {v : Nat} (hv : v % 2 = 1) (h0 : f.pantry.get 0x1C = 0) :
    (State.writePantry f 0x1C v).pantry = f.pantry.set 0x1C 1 ∧ (State.writePantry f 0x1C v).inUse = [] := by
  have hb : BitVec.ofNat 8 v &&& State.pantryMask 0x1C = 1 := by
    rw [show State.pantryMask 0x1C = 1 from rfl, ofNat8_and_1, hv]; rfl
  simp only [State.writePantry, hb, h0, and_self, if_true]
  rw [settleRecl_eq]
  exact ⟨rfl, rfl⟩

/-! ### ShadowStatus (R69) -/

/-- Nothing is asked for where a line can be written (R340, R379). -/
theorem claim_now {s : State} {pa n : Nat} (h : pa % 128 + n ≤ 128) (hn : 0 < n) (hc : s.canWrite pa = true) : s.claim pa n = s := by
  simp only [State.canWrite, Bool.and_eq_true, Bool.not_eq_true'] at hc
  obtain ⟨⟨-, hs⟩, hb⟩ := hc
  simp only [State.claim, linesOf_one h hn, List.foldl_cons, List.foldl_nil, State.claimLine, hs, Bool.false_eq_true, if_false]
  rw [Nat.max_eq_left (by omega), hb]
  rfl

/-- A controller's write of less than a sector in one line, where nothing makes it wait and no bitmap logs it, changes memory only. -/
theorem homeWrite_part {s : State} {fn pa : Nat} {bs : List Byte} (hn : 0 < bs.length) (hs : pa % 32 + bs.length < 32)
    (hc : s.canWrite pa = true) (hr : s.rangeOf pa ≠ .host) (hd : NoDirtyLog s fn) (who : Asker) :
    (s.homeWrite fn pa bs who).1 = { s with mem := putBytes s.mem pa bs } := by
  have hh : s.heldPage pa = false := by
    simp only [State.canWrite, Bool.and_eq_true, Bool.not_eq_true'] at hc
    exact hc.1.1
  have hp : (s.poison.filter fun p => !(decide (pa ≤ p * 32) && decide (p * 32 + 32 ≤ pa + bs.length))) = s.poison := by
    refine List.filter_eq_self.mpr fun p _ => ?_
    simp only [Bool.not_eq_true', Bool.and_eq_false_iff, decide_eq_false_iff_not]
    omega
  rw [State.homeWrite, hh]
  simp only [Bool.false_eq_true, if_false]
  rw [claim_now (by omega) hn hc, State.wr, markDirty_unlogged (.inl (hd _)), State.tlpWrite, hostTlp_of_range hr]
  simp only [Bool.false_eq_true, if_false, State.put, hp]

/-- A bit of ShadowStatus changes memory only, where nothing makes its write wait. -/
theorem shadowBit_eq {s : State} {q i : Nat} {b : Bool} (hs : s.shadowAt q % 64 = 0) (hc : s.canWrite (s.shadowAt q + 0x18) = true)
    (hr : s.rangeOf (s.shadowAt q + 0x18) ≠ .host) (hl : NoDirtyLog s State.noFn) :
    s.shadowBit q i b = { s with mem := (s.shadowBit q i b).mem } := by
  rw [State.shadowBit, homeWrite_part (by simp) (by rw [length_toBytes]; omega) hc hr hl]

/-- Clearing ShadowStatus.enable disables the queue: what it was bound to wait for is over. -/
theorem writeShadow_disable {s : State} {d q v : Nat} (hd : d < 4) (hq : q < 1024) (h0 : bitOf v 0 = false) (h1 : bitOf v 1 = false) :
    s.writeShadow d q v = (s.shadowBit (1024 * d + q) 0 false).modQueue (1024 * d + q) fun x =>
      { x with enabled := false, waiting := none } := by
  simp only [State.writeShadow, Nat.mod_eq_of_lt hd, Nat.mod_eq_of_lt hq, h0, h1, Bool.false_eq_true, if_false]

/-- Settles O51: a reset makes fresh dies and clears the Loft windows; each register that is only kept is one byte or one field of its record. -/
theorem resetAndManagement : Obligations.ResetAndManagement := by
  intro s d l q f o v nonce byte
  refine ⟨⟨_, rfl, fun a => byteAt_eraseMem _ _ _ a, rfl, rfl, rfl, rfl, rfl, rfl, rfl, rfl, rfl, rfl, rfl, rfl, rfl, rfl, rfl,
    fun k hk => ?_⟩, rfl, rfl, rfl, rfl, ⟨_, length_toBytes _ _, rfl⟩, ⟨_, rfl⟩, rfl, rfl, rfl, rfl, rfl, fun hv => ?_, fun hv => ?_,
    rfl, fun ho => ?_, fun hv h0 => ?_, fun ho => ?_, fun h1 h2 h3 => ?_, fun ho => ?_, rfl, rfl, rfl, rfl, fun h1 h2 => ?_,
    fun hd hq h0 h1 hs hc hr hl => ?_⟩
  · rw [moduleReset_dieOf rfl hk]
    exact ⟨rfl, rfl, bootDie_booted _ _ _, rfl, rfl, rfl⟩
  · exact congrArg _ (if_neg (by omega))
  · exact congrArg _ (if_pos hv)
  · exact congrArg (fun g => Host.Outcome.next (s.modFn f g)) (funext fun x => writePantry_plain x v (by omega))
  · obtain ⟨hp, hu⟩ := writePantry_enable (s.fnOf f) hv h0
    refine ⟨_, rfl, rfl, ?_, ?_, fun e he => ?_⟩
    · rw [State.writeReg, State.fnOf_modFn, if_pos rfl]; exact hp
    · rw [State.writeReg, State.fnOf_modFn, if_pos rfl]; exact hu
    · rw [State.writeReg, State.fnOf_modFn, if_neg he.symm]
  · exact write_fabricByte s (fabricMask_full ho) (ofNat8_and_255 v)
  · exact write_fabricByte s (fabricMask_enable h1 h2 h3) (ofNat8_and_1 v)
  · exact write_fabricByte s (fabricMask_reserved ho) BitVec.and_zero
  · exact congrArg _ (if_pos ⟨h1, h2⟩)
  · refine ⟨_, congrArg Host.Outcome.next (writeShadow_disable hd hq h0 h1), ?_, ?_, ?_⟩
    · rw [shadowBit_eq hs hc hr hl]; rfl
    · rw [State.queueOf_modQueue, if_pos rfl]
    · rw [State.queueOf_modQueue, if_pos rfl]

end Sys2Proof.Machine
end

section
/-! PROOF. The scalar ALU (R181), its immediate and pair forms (R127, R7), SLDA (R182), and what a write of a scalar register
changes (R122, R149). -/

namespace Sys2Proof.Machine

/-! ### What the forms of the table compute, on values -/

theorem shl32_eq (x n : Word) : shl32 x n = x <<< n.toNat := by
  unfold shl32
  split
  · next h => exact (BitVec.shiftLeft_eq_zero h).symm
  · rfl

theorem shr32_eq (x n : Word) : shr32 x n = x >>> n.toNat := by
  unfold shr32
  split
  · next h => exact (BitVec.ushiftRight_eq_zero h).symm
  · rfl

theorem sra32_eq (x n : Word) : sra32 x n = x.sshiftRight n.toNat := by
  unfold sra32
  by_cases h : n.toNat ≤ 32
  · rw [Nat.min_eq_left h]
  · apply BitVec.eq_of_getLsbD_eq
    intro i hi
    rw [Nat.min_eq_right (by omega), BitVec.getLsbD_sshiftRight, BitVec.getLsbD_sshiftRight, if_neg (by omega), if_neg (by omega)]

theorem min32_signed (x y : Word) : min32 false x y = BitVec.ofInt 32 (min x.toInt y.toInt) := by
  unfold min32
  by_cases h : x.toInt ≤ y.toInt
  · rw [if_pos (by simpa [BitVec.sle_iff_toInt_le] using h), Int.min_eq_left h, BitVec.ofInt_toInt]
  · rw [if_neg (by simpa [BitVec.sle_iff_toInt_le] using h), Int.min_eq_right (by omega), BitVec.ofInt_toInt]

theorem max32_signed (x y : Word) : max32 false x y = BitVec.ofInt 32 (max x.toInt y.toInt) := by
  unfold max32
  by_cases h : y.toInt ≤ x.toInt
  · rw [if_pos (by simpa [BitVec.sle_iff_toInt_le] using h), Int.max_eq_left h, BitVec.ofInt_toInt]
  · rw [if_neg (by simpa [BitVec.sle_iff_toInt_le] using h), Int.max_eq_right (by omega), BitVec.ofInt_toInt]

theorem min32_unsigned (x y : Word) : min32 true x y = BitVec.ofNat 32 (min x.toNat y.toNat) := by
  unfold min32
  by_cases h : x.toNat ≤ y.toNat
  · rw [if_pos (by simpa [BitVec.ule_iff_toNat_le] using h), Nat.min_eq_left h, BitVec.ofNat_toNat, BitVec.setWidth_eq]
  · rw [if_neg (by simpa [BitVec.ule_iff_toNat_le] using h), Nat.min_eq_right (by omega), BitVec.ofNat_toNat, BitVec.setWidth_eq]

theorem max32_unsigned (x y : Word) : max32 true x y = BitVec.ofNat 32 (max x.toNat y.toNat) := by
  unfold max32
  by_cases h : y.toNat ≤ x.toNat
  · rw [if_pos (by simpa [BitVec.ule_iff_toNat_le] using h), Nat.max_eq_left h, BitVec.ofNat_toNat, BitVec.setWidth_eq]
  · rw [if_neg (by simpa [BitVec.ule_iff_toNat_le] using h), Nat.max_eq_right (by omega), BitVec.ofNat_toNat, BitVec.setWidth_eq]

/-- The six comparisons (R127), signed ones by the two's complement values, the others by the numbers. -/
theorem ccHolds_eq {n : Nat} (c : Cc) (x y : BitVec n) : ccHolds c x y = (match c with
    | .eq => decide (x = y) | .ne => decide (x ≠ y) | .ltS => decide (x.toInt < y.toInt)
    | .leS => decide (x.toInt ≤ y.toInt) | .ltN => decide (x.toNat < y.toNat) | .leN => decide (x.toNat ≤ y.toNat)) := by
  cases c with
  | eq => exact Bool.beq_eq_decide_eq x y
  | ne => simp [ccHolds, bne, Bool.beq_eq_decide_eq]
  | ltS => exact BitVec.slt_eq_decide
  | leS => exact BitVec.sle_eq_decide
  | ltN => rfl
  | leN => rfl

theorem popc_eq (w x : Nat) : popc w x = ((List.range w).filter fun i => x.testBit i).length := by
  induction w generalizing x with
  | zero => rfl
  | succ w ih =>
    rw [popc, ih, List.range_succ_eq_map, List.filter_cons, List.filter_map, Nat.testBit_zero]
    have hs : (fun i => x.testBit i) ∘ Nat.succ = fun i => (x / 2).testBit i := funext fun i => Nat.testBit_succ x i
    rw [hs]
    by_cases h : x % 2 = 1
    · simp [h, Nat.add_comm]
    · have h0 : x % 2 = 0 := by omega
      simp [h0]

/-- The count of leading zeros is the number of bits above the highest one set. -/
theorem clz32_spec (x : Word) : clz 32 x.toNat ≤ 32 ∧ x.toNat < 2 ^ (32 - clz 32 x.toNat) ∧
    (x ≠ 0 → 2 ^ (32 - clz 32 x.toNat) ≤ 2 * x.toNat) ∧ (x = 0 → clz 32 x.toNat = 32) := by
  unfold clz
  by_cases h : x = 0
  · subst h; simp
  · have h0 : x.toNat ≠ 0 := fun e => h (BitVec.eq_of_toNat_eq e)
    have hl : x.toNat.log2 < 32 := (Nat.log2_lt h0).mpr x.isLt
    have hk : 32 - (32 - (x.toNat.log2 + 1)) = x.toNat.log2 + 1 := by omega
    rw [if_neg h0, hk]
    refine ⟨by omega, Nat.lt_log2_self, fun _ => ?_, fun e => absurd e h⟩
    have := Nat.log2_self_le h0
    rw [Nat.pow_succ]; omega

theorem brev_lt (w x : Nat) : brev w x < 2 ^ w := by
  induction w generalizing x with
  | zero => simp [brev]
  | succ w ih =>
    have hi := ih (x / 2)
    have hm : x % 2 * 2 ^ w ≤ 2 ^ w := Nat.le_trans (Nat.mul_le_mul_right _ (show x % 2 ≤ 1 by omega)) (by omega)
    rw [brev, Nat.pow_succ]; omega

/-- Bit i of the reversed bits is bit w - 1 - i. -/
theorem testBit_brev {w i : Nat} (x : Nat) (h : i < w) : (brev w x).testBit i = x.testBit (w - 1 - i) := by
  induction w generalizing x with
  | zero => omega
  | succ w ih =>
    rw [brev, Nat.mul_comm, Nat.testBit_two_pow_mul_add _ (brev_lt w _)]
    split
    · next hi => rw [ih _ hi, ← Nat.testBit_succ, show (w - 1 - i).succ = w + 1 - 1 - i by omega]
    · next hi =>
      have e : i = w := by omega
      subst e
      simp

theorem brev32_eq (x : Word) : BitVec.ofNat 32 (brev 32 x.toNat) = x.reverse := by
  apply BitVec.eq_of_getLsbD_eq
  intro i hi
  rw [BitVec.getLsbD_reverse, BitVec.getMsbD_eq_getLsbD, BitVec.getLsbD_ofNat, testBit_brev _ hi]
  simp [hi, BitVec.getLsbD]

/-! ### SBFE (R181) -/

theorem bitField32_unsigned (x c : Word) (p w : Nat) (hp : p = c.toNat % 32) (hw : w = min (c.toNat / 256 % 64) (32 - p)) :
    bitField32 false x c = if w = 0 then 0 else (x >>> p) &&& (BitVec.ofNat 32 (2 ^ w - 1)) := by
  subst hp hw
  simp only [bitField32, Bool.false_eq_true, if_false]
  split
  · rfl
  · generalize min (c.toNat / 256 % 64) (32 - c.toNat % 32) = w at *
    apply BitVec.eq_of_getLsbD_eq
    intro i hi
    rw [BitVec.getLsbD_and, BitVec.getLsbD_ofNat, BitVec.getLsbD_ofNat, BitVec.getLsbD_ushiftRight, Nat.testBit_mod_two_pow,
      Nat.testBit_div_two_pow, Nat.testBit_two_pow_sub_one, BitVec.getLsbD]
    simp only [hi, decide_true, Bool.true_and, Bool.and_comm, Nat.add_comm]

/-- The two's complement value of w bits is that of the bit vector of that width. -/
theorem signed_eq_toInt {w : Nat} (h : w ≠ 0) (f : Nat) : signed w f = (BitVec.ofNat w f).toInt := by
  have hk : 2 ^ w = 2 * 2 ^ (w - 1) := by rw [← Nat.pow_succ', Nat.succ_eq_add_one, Nat.sub_add_cancel (by omega)]
  rw [signed, BitVec.toInt_eq_toNat_cond, BitVec.toNat_ofNat]
  by_cases hl : f % 2 ^ w < 2 ^ (w - 1)
  · rw [if_pos hl, if_pos (by omega)]
  · rw [if_neg hl, if_neg (by omega)]

/-- Shifting a field to the top and back copies its sign bit. -/
theorem shift_field_signed (x : Word) {p w : Nat} (h0 : w ≠ 0) (h : p + w ≤ 32) :
    (x <<< (32 - p - w)).sshiftRight (32 - w) = (BitVec.ofNat w (x.toNat / 2 ^ p % 2 ^ w)).signExtend 32 := by
  have hf (i : Nat) (hi : i < w) : (BitVec.ofNat w (x.toNat / 2 ^ p % 2 ^ w)).getLsbD i = x.getLsbD (i + p) := by
    rw [BitVec.getLsbD_ofNat, Nat.testBit_mod_two_pow, Nat.testBit_div_two_pow, BitVec.getLsbD]
    simp only [hi, decide_true, Bool.true_and]
  have hs (j : Nat) (hj : 32 - p - w ≤ j) (h32 : j < 32) : (x <<< (32 - p - w)).getLsbD j = x.getLsbD (j - (32 - p - w)) := by
    rw [BitVec.getLsbD_shiftLeft]
    simp only [h32, decide_true, Bool.true_and, Nat.not_lt.mpr hj, decide_false, Bool.not_false]
  apply BitVec.eq_of_getLsbD_eq
  intro i hi
  rw [BitVec.getLsbD_sshiftRight, BitVec.getLsbD_signExtend, BitVec.msb_eq_getLsbD_last, BitVec.msb_eq_getLsbD_last,
    hf (w - 1) (by omega), hs (32 - 1) (by omega) (by omega)]
  by_cases hw : i < w
  · rw [if_pos (by omega), if_pos hw, hf i hw, hs (32 - w + i) (by omega) (by omega)]
    simp only [Nat.not_le.mpr hi, hi, decide_true, decide_false, Bool.not_false]
    congr 2; omega
  · rw [if_neg (by omega), if_neg hw]
    simp only [Nat.not_le.mpr hi, hi, decide_true, decide_false, Bool.not_false]
    congr 2; omega

theorem bitField32_signed (x c : Word) (p w : Nat) (hp : p = c.toNat % 32) (hw : w = min (c.toNat / 256 % 64) (32 - p)) :
    bitField32 true x c = if w = 0 then 0 else (x <<< (32 - p - w)).sshiftRight (32 - w) := by
  simp only [bitField32, ← hp, ← hw, if_true]
  split
  · rfl
  · next h0 =>
    rw [shift_field_signed x h0 (by omega), w32, signed_eq_toInt h0]
    rfl

/-! ### Bytes and halves of a register -/

/-- SMOVH's value: the immediate above the low half (R127). -/
theorem high_half_eq (i : BitVec 16) (x : Word) : (i.zeroExtend 32 <<< 16) ||| (x &&& 0xFFFF) = i ++ x.truncate 16 := by
  apply BitVec.eq_of_getLsbD_eq
  intro j hj
  have e : (0xFFFF : Word).getLsbD j = decide (j < 16) := by
    rw [show (0xFFFF : Word) = BitVec.ofNat 32 (2 ^ 16 - 1) from rfl, BitVec.getLsbD_ofNat, Nat.testBit_two_pow_sub_one]
    simp [hj]
  rw [BitVec.getLsbD_append, BitVec.getLsbD_or, BitVec.getLsbD_and, BitVec.getLsbD_shiftLeft, e]
  by_cases h : j < 16
  · simp [h]
  · simp [h, hj, show j - 16 < 32 by omega]

theorem toNat_append_add {m n : Nat} (x : BitVec m) (y : BitVec n) : (x ++ y).toNat = x.toNat * 2 ^ n + y.toNat := by
  rw [BitVec.toNat_append, ← Nat.shiftLeft_add_eq_or_of_lt y.isLt, Nat.shiftLeft_eq]

/-- Four bytes in the byte order of memory (R6). -/
theorem ofBytes_four (b0 b1 b2 b3 : Byte) : BitVec.ofNat 32 (ofBytes [b0, b1, b2, b3]) = b3 ++ b2 ++ b1 ++ b0 := by
  apply BitVec.eq_of_toNat_eq
  simp only [toNat_append_add, ofBytes, BitVec.toNat_ofNat]
  omega

/-- A word at a multiple of 4 in constant space, which does not wrap inside it (R26). -/
theorem const_four (s : State) {a : Nat} (h : a % 4 = 0) (hl : a < 65536) : s.const a 4 =
    [s.grid.args.get a, s.grid.args.get (a + 1), s.grid.args.get (a + 2), s.grid.args.get (a + 3)] := by
  have e (i : Nat) (hi : i < 4) : (a + i) % 65536 = a + i := Nat.mod_eq_of_lt (by omega)
  simp only [State.const, List.range_succ, List.range_zero, List.nil_append, List.map_cons, List.map_nil,
    List.cons_append, Nat.add_zero, Nat.mod_eq_of_lt hl, e 1 (by omega), e 2 (by omega), e 3 (by omega)]

/-! ### The words -/

/-- The forms of the scalar ALU, by the value that they write. -/
theorem scalar_result_of {i : Instr} {s : State} {d : BitVec 7} {f : Split → Word} {v : Word} (live : Running s)
    (he : exec i s = scalarOp i d f s) (hv : f (startWord (encode i) s).spl = v) : ScalarResult i s d v :=
  hv ▸ scalar_result live he

/-- A form on two registers. -/
theorem alu2_result {i : Instr} {s : State} {d a b : BitVec 7} {f : Word → Word → Word} {v : Word} (live : Running s)
    (he : exec i s = scalarOp i d (alu2 a b f) s) (hv : f (s.getS a.toNat) (s.getS b.toNat) = v) : ScalarResult i s d v :=
  scalar_result_of live he (by simp only [alu2, startWord_getS]; exact hv)

/-- An immediate form. -/
theorem aluImm_result {i : Instr} {s : State} {d : BitVec 7} {m : Word} {f : Word → Word → Word} {v : Word} (live : Running s)
    (he : exec i s = scalarOp i d (aluImm d m f) s) (hv : f (s.getS d.toNat) m = v) : ScalarResult i s d v :=
  scalar_result_of live he (by simp only [aluImm, startWord_getS]; exact hv)

/-- A form on one register. -/
theorem alu1_result {i : Instr} {s : State} {d a : BitVec 7} {f : Word → Word} {v : Word} (live : Running s)
    (he : exec i s = scalarOp i d (fun x => f (x.getS a.toNat)) s) (hv : f (s.getS a.toNat) = v) : ScalarResult i s d v :=
  scalar_result_of live he (by simp only [startWord_getS]; exact hv)

/-- A word that writes one scalar register with what it finds in the state. -/
theorem simple_setS_result {i : Instr} {s : State} {d : BitVec 7} {f : State → Word} (live : Running s)
    (he : exec i s = simple i (fun s => s.setS d.toNat (f s)) s) : ScalarResult i s d (f (startWord (encode i) s)) := by
  refine split_result live he (g := fun x => x.setS d.toNat (f (startWord (encode i) s))) rfl ?_
  generalize f (startWord (encode i) s) = v
  simp only [startWord_spl, Split.setS_eq, advance, Nat.add_zero]

theorem const_startWord (w : Word) (s : State) (a n : Nat) : (startWord w s).const a n = s.const a n := by
  simp only [State.const, grid_startWord]

theorem bool32_ccHolds {n : Nat} (c : Cc) (x y : BitVec n) : bool32 (ccHolds c x y) = if (match c with
    | .eq => decide (x = y) | .ne => decide (x ≠ y) | .ltS => decide (x.toInt < y.toInt)
    | .leS => decide (x.toInt ≤ y.toInt) | .ltN => decide (x.toNat < y.toNat) | .leN => decide (x.toNat ≤ y.toNat)) then 1 else 0 := by
  rw [ccHolds_eq]; rfl

theorem scalarAlu : Claims.ScalarAlu := by
  intro s d a b live x y
  refine ⟨?_, ?_, ?_, ?_, ?_, ?_, ?_, ?_, ?_, ?_, ?_, ?_, ?_, ?_, ?_, ?_, ?_, fun c => ?_, ?_, ?_, ⟨_, ?_, clz32_spec _⟩, ?_, ?_, ?_⟩
  · exact alu1_result (f := fun x => x) live (exec_smov s d a) rfl
  · exact alu2_result live (exec_sadd s d a b) rfl
  · exact alu2_result live (exec_ssub s d a b) rfl
  · exact alu2_result live (exec_smul s d a b) rfl
  · exact alu2_result live (exec_smulh s false d a b) rfl
  · exact alu2_result live (exec_smulh s true d a b) rfl
  · exact alu2_result live (exec_sand s d a b) rfl
  · exact alu2_result live (exec_sor s d a b) rfl
  · exact alu2_result live (exec_sxor s d a b) rfl
  · exact alu1_result (f := fun x => ~~~x) live (exec_snot s d a) rfl
  · exact alu2_result live (exec_sshl s d a b) (shl32_eq x y)
  · exact alu2_result live (exec_sshr s d a b) (shr32_eq x y)
  · exact alu2_result live (exec_ssra s d a b) (sra32_eq x y)
  · exact alu2_result live (exec_smin s false d a b) (min32_signed x y)
  · exact alu2_result live (exec_smin s true d a b) (min32_unsigned x y)
  · exact alu2_result live (exec_smax s false d a b) (max32_signed x y)
  · exact alu2_result live (exec_smax s true d a b) (max32_unsigned x y)
  · exact alu2_result live (exec_scmp s c d a b) (bool32_ccHolds c x y)
  · exact scalar_result_of live (exec_ssel s d a b) (by simp only [startWord_getS]; rfl)
  · exact alu1_result (f := fun x => BitVec.ofNat 32 (popc 32 x.toNat)) live (exec_spopc s d a) (congrArg (BitVec.ofNat 32) (popc_eq 32 x.toNat))
  · exact alu1_result (f := fun x => BitVec.ofNat 32 (clz 32 x.toNat)) live (exec_sclz s d a) rfl
  · exact alu1_result (f := fun x => BitVec.ofNat 32 (brev 32 x.toNat)) live (exec_sbrev s d a) (brev32_eq x)
  · exact alu2_result live (exec_sbfe s false d a b) (bitField32_unsigned x y _ _ rfl rfl)
  · exact alu2_result live (exec_sbfe s true d a b) (bitField32_signed x y _ _ rfl rfl)

theorem scalarImmediate : Claims.ScalarImmediate := by
  intro s d i n live
  have hn : (n.zeroExtend 32 : Word).toNat = n.toNat := by
    rw [BitVec.toNat_setWidth]; omega
  refine ⟨scalar_result_of live (exec_smovi s d i) rfl, scalar_result_of live (exec_smovh s d i) ?_, aluImm_result live rfl rfl, aluImm_result live rfl rfl,
    aluImm_result live rfl rfl, aluImm_result live rfl rfl, aluImm_result live rfl rfl, aluImm_result live rfl rfl,
    aluImm_result live rfl ?_, aluImm_result live rfl ?_, aluImm_result live rfl ?_⟩
  · simp only [startWord_getS]; exact high_half_eq i _
  · rw [shl32_eq, hn]
  · rw [shr32_eq, hn]
  · rw [sra32_eq, hn]

theorem scalarPairs : Claims.ScalarPairs := by
  intro s d a b i live
  have hp (r : Nat) (w : Word) : (startWord w s).spl.getP r = s.getS (r + 1) ++ s.getS r := startWord_getP w s r
  refine ⟨?_, ?_, fun c => scalar_result_of live (exec_scmp64 s c d a b) ?_, fun h => ?_⟩
  · have h := scalar64_result live (exec_sadd64 s d a b)
    rwa [hp, hp] at h
  · have h := scalar64_result live (exec_ssub64 s d a b)
    rwa [hp, hp] at h
  · rw [hp, hp]; exact bool32_ccHolds c _ _
  · have hq : i.toNat % 4 = 0 := by simpa [Instr.wf, quad] using h
    have hr := simple_setS_result live (exec_slda s d i)
    rwa [const_startWord, const_four s hq i.isLt, ofBytes_four] at hr

/-! ### Writing a scalar register (R122, R149) -/

/-- Word k of a mask replaced: the lanes of the word take the value, the others stand. -/
theorem getLsbD_setMaskWord (m : LaneMask) (k : Nat) (v : Word) {l : Nat} (hl : l < 96) :
    (setMaskWord m k v).getLsbD l = if l / 32 = k then v.getLsbD (l % 32) else m.getLsbD l := by
  have e (j : Nat) (hj : j < 96) : (0xFFFFFFFF#96).getLsbD j = decide (j < 32) := by
    rw [show 0xFFFFFFFF#96 = BitVec.ofNat 96 (2 ^ 32 - 1) from rfl, BitVec.getLsbD_ofNat, Nat.testBit_two_pow_sub_one]
    simp [hj]
  simp only [setMaskWord, BitVec.getLsbD_or, BitVec.getLsbD_and, BitVec.getLsbD_not, BitVec.getLsbD_shiftLeft, hl, decide_true,
    Bool.true_and, e (l - 32 * k) (by omega), BitVec.getLsbD_setWidth, show l - 32 * k < 96 by omega]
  rcases Nat.lt_trichotomy (l / 32) k with h | h | h
  · simp [show l < 32 * k by omega, show l / 32 ≠ k by omega]
  · simp [show ¬ l < 32 * k by omega, h, show l - 32 * k = l % 32 by omega, show l % 32 < 32 by omega]
  · have hv : v.getLsbD (l - 32 * k) = false := BitVec.getLsbD_of_ge _ _ (by omega)
    simp [hv, show l / 32 ≠ k by omega, show ¬ l - 32 * k < 32 by omega]

theorem scalarRegisterWrite : Claims.ScalarRegisterWrite := by
  intro x v
  refine ⟨fun r q hr => ?_, fun r q h1 h2 hq => ?_, fun r h1 h2 => ⟨?_, fun l => ?_⟩, fun r => ?_⟩
  · rw [Split.getS_setS _ _ _ _ hr]; simp only [eq_comm]
  · rw [Split.setS_eq]; simp only [Split.getS, h1, Nat.not_le.mpr hq, if_true, if_false]
  · rw [Split.setS_eq]; simp only [h1, if_true]
  · rw [Split.setS_eq]; simp only [h1, if_true, BitVec.getLsbD_and]
    by_cases hl : l < 96
    · rw [getLsbD_setMaskWord _ _ _ hl, Bool.and_comm]
    · rw [BitVec.getLsbD_of_ge x.live _ (by omega)]; simp
  · rw [Split.setS_eq]

/-- Settles O4, from its four claims. -/
theorem scalarRegisters : Obligations.ScalarRegisters := ⟨scalarAlu, scalarImmediate, scalarPairs, scalarRegisterWrite⟩

end Sys2Proof.Machine
end

section
/-! PROOF. Whose word a step takes, and that it executes it (R113, R137, R138; R5, R104 to R106). -/

namespace Sys2Proof.Machine

/-! ### The checks of a fetched word (R138) -/

/-- Clearing a bit that is clear changes nothing. -/
theorem and_not_one_of_bit {w : Word} (h : bit w 0 = false) : w &&& ~~~1 = w := by
  have h0 : w.getLsbD 0 = false := by
    simpa [bit, BitVec.getLsbD, Nat.testBit_zero] using h
  apply BitVec.eq_of_getLsbD_eq
  intro j hj
  rw [BitVec.getLsbD_and, BitVec.getLsbD_not]
  cases j with
  | zero => rw [h0, Bool.false_and]
  | succ j =>
    have h1 : (1 : Word).getLsbD (j + 1) = false := by simp [BitVec.getLsbD, Nat.testBit_succ]
    rw [h1]
    simp [hj]

/-- A word inside a clause passes: its port is the agent's, its registers exist, and a transfer stands last. -/
theorem checkWord_inside {stream : Bool} {left pc : Nat} {within : Nat → Nat → Bool} {w : Word} {i : Instr} (hl : left ≠ 0)
    (hp : prim w < 0xF0) (hs : decide (0xD0 ≤ prim w ∧ prim w ≤ 0xDF) = stream) (hd : decode w = .ok i) (hw : i.wf = true)
    (hv : ∀ r ∈ vnames i, within r.1 r.2 = true) (ht : isTransfer i = true → left = 1) :
    checkWord stream left pc within w = .instr i := by
  have hn : decide (prim w ≥ 0xF0) = false := decide_eq_false (by omega)
  have hz : (left == 0) = false := beq_false_of_ne hl
  have hr : (!i.wf || !((vnames i).all fun r => within r.1 r.2)) = false := by
    rw [hw, List.all_eq_true.mpr hv]; rfl
  have hx : (isTransfer i && left != 1) = false := by
    cases hi : isTransfer i
    · rfl
    · simp [ht hi]
  rw [checkWord, hn, hz, hs]
  simp only [show ¬ prim w ≥ 0xF0 by omega, bne_self_eq_false, hd, hr, hx, Bool.false_eq_true, if_false]

/-- A header where a clause is to open passes; of the stream's, its fields for splits are empty. -/
theorem checkWord_header {stream : Bool} {pc : Nat} {within : Nat → Nat → Bool} {w : Word} {i : Instr} (hp : 0xF0 ≤ prim w)
    (hb : bit w 0 = false) (hs : stream = true → bits w.toNat 27 16 = 0 ∧ bits w.toNat 15 8 = 255 ∧ bits w.toNat 3 1 = 0)
    (hd : decode w = .ok i) (hw : i.wf = true) : checkWord stream 0 pc within w = .instr i := by
  have hh : decodeHeader (w &&& ~~~1) = .ok i := by rw [and_not_one_of_bit hb]; rwa [decode, if_pos hp] at hd
  have hz : (stream && decide (w.toNat / 2 ^ 16 % 2 ^ 12 ≠ 0 ∨ w.toNat / 2 ^ 8 % 256 ≠ 255 ∨ w.toNat / 2 % 8 ≠ 0)) = false := by
    cases stream
    · rfl
    · obtain ⟨h1, h2, h3⟩ := hs rfl
      simp only [bits, Nat.reduceAdd, Nat.reduceSub, Nat.reducePow, Nat.pow_one] at h1 h2 h3
      simp [h1, h2, h3]
  simp only [checkWord, ge_iff_le, hp, decide_true, beq_self_eq_true, bne_self_eq_false, hh, hw, hb, hz, Bool.not_true, Bool.or_self,
    Bool.false_eq_true, if_false, if_true]

/-! ### An agent issues its word, whole or not yet (log 71) -/

theorem rangeOf_asAgent (s : State) (w : FarWho) (pa : Nat) : (s.asAgent w).rangeOf pa = s.rangeOf pa := by
  unfold State.rangeOf; rfl

/-- What an agent reaches does not depend on what it waits for. -/
theorem hits_asAgent {s : State} {acc : AccType} {n va pa : Nat} (w : FarWho) (h : Hits s acc n va pa) :
    Hits (s.asAgent w) acc n va pa := by
  obtain ⟨t, h1, h2, h3⟩ := h
  refine ⟨t, h1, h2, (reachPa_congr (rangeOf_asAgent s w _) rfl (fun _ _ => rfl) rfl rfl rfl (fun _ => rfl) (fun a => ?_) ?_ rfl rfl _
    _).trans h3⟩
  · unfold State.chanBusy State.homeDie; rw [rangeOf_asAgent]; rfl
  · unfold State.localPa; rw [rangeOf_asAgent]; rfl

/-- A fetch that hits takes its word from memory and changes nothing (R113). -/
theorem fetch_hits {s : State} {pc pa : Nat} (hc : s.grid.codeCopy = none) (h4 : pc % 4 = 0) (hb : pc + 4 ≤ s.grid.codeBytes)
    (hh : Hits s .fetch 4 (s.grid.code + pc) pa) (stream : Bool) (left : Nat) (within : Nat → Nat → Bool) :
    s.fetch s.focus.blk stream left pc within = (s, checkWord stream left pc within (BitVec.ofNat 32 (s.rdNum pa 4))) := by
  have hr : s.reach (s.blkOf s.focus.blk) ((s.gridOf (s.blkOf s.focus.blk).grid).code + pc) 4 .fetch = (s, .ok pa) := reach_hits hh
  have hc' : (s.gridOf (s.blkOf s.focus.blk).grid).codeCopy = none := hc
  have hb' : ¬ (pc % 4 ≠ 0 ∨ pc + 4 > (s.gridOf (s.blkOf s.focus.blk).grid).codeBytes) := by
    have : pc + 4 ≤ (s.gridOf (s.blkOf s.focus.blk).grid).codeBytes := hb
    omega
  simp only [State.fetch, if_neg hb', hc', hr]

/-- What comes of an attempt: it is done whole, or what it waits for is asked for and nothing else happens. -/
theorem attempt_next {s t : State} {w : FarWho} {die : Nat} {f : State → Host.Outcome State Fault Refusal}
    (hf : f (s.asAgent w) = .next t) :
    (t.farAsk = none → s.attempt w die f = (.next (t.agentDone s w), true)) ∧
    ∀ q, t.farAsk = some q → s.attempt w die f = (.next (s.askFor w die t.farPos q), false) := by
  refine ⟨fun h => ?_, fun q h => ?_⟩ <;> simp only [State.attempt, hf, h]

/-- The focused agent's attempt at a word: whole, or its word is held (R104). -/
theorem attemptWord_next {u t : State} {f : State → Host.Outcome State Fault Refusal} (hf : f (u.asAgent u.focusAgent) = .next t) :
    (t.farAsk = none → u.attemptWord f = .next (t.agentDone u u.focusAgent)) ∧
    ∀ q, t.farAsk = some q → u.attemptWord f = .next (u.askFor u.focusAgent u.blk.die t.farPos q).holdWord := by
  obtain ⟨h1, h2⟩ := attempt_next (die := u.blk.die) hf
  exact ⟨fun h => by rw [State.attemptWord, h1 h], fun q h => by rw [State.attemptWord, h2 q h]⟩

/-- The issue of a word that its fetch finds good is its execution. -/
theorem issueFocus_word {u : State} {i : Instr} (hH : u.takesH = false)
    (hf : (u.asAgent u.focusAgent).fetchFocus = (u.asAgent u.focusAgent, .instr i)) {t : State}
    (he : exec i (u.asAgent u.focusAgent) = .next t) :
    (t.farAsk = none → issueFocus u = .next (t.agentDone u u.focusAgent)) ∧
    ∀ q, t.farAsk = some q → issueFocus u = .next (u.askFor u.focusAgent u.blk.die t.farPos q).holdWord := by
  have hH' : (u.asAgent u.focusAgent).takesH = false := hH
  unfold issueFocus
  exact attemptWord_next (by simp only [hH', hf, he, Bool.false_eq_true, if_false])

/-- A header issues before a failure is taken where none waits, or a handler runs, or an RTE has returned to it (R173, R412). -/
theorem takesH_header_may {s : State} (h : s.grp.fails = [] ∨ s.spl.frame.isSome = true ∨ s.spl.atH.isSome = true) : s.takesH = false := by
  have hn {α : Type} {o : Option α} (ho : o.isSome = true) : o.isNone = false := by rw [← Option.not_isSome, ho]; rfl
  rcases h with h | h | h
  · simp [State.takesH, h]
  · simp [State.takesH, hn h]
  · simp [State.takesH, hn h]

/-- A step is its turn, and what the turn lets go on at the homes. -/
theorem step_of_turn {s t : State} (h : turn s = .next t) : step s = .next t.settleTurn := by
  rw [step, h]

/-- The step of a turn that issues the word of a focused agent: the conclusion of the claim for that agent. -/
theorem step_word {s u : State} {w : FarWho} {i : Instr} (ht : turn s = issueFocus u) (hw : u.focusAgent = w) (hH : u.takesH = false)
    (hf : (u.asAgent w).fetchFocus = (u.asAgent w, .instr i)) (t : State) (he : exec i (u.asAgent w) = .next t) :
    (t.farAsk = none → step s = .next (t.agentDone u w).settleTurn) ∧
    ∀ q, t.farAsk = some q → step s = .next (u.askFor w u.blk.die t.farPos q).holdWord.settleTurn := by
  subst hw
  obtain ⟨h1, h2⟩ := issueFocus_word hH hf he
  exact ⟨fun h => step_of_turn (ht.trans (h1 h)), fun q h => step_of_turn (ht.trans (h2 q h))⟩

/-- What the issuing split of a state fetches where its fetch hits. -/
theorem fetchFocus_split {u : State} {pa : Nat} (w : FarWho) (hst : u.focus.stream = false) (hc : u.grid.codeCopy = none)
    (h4 : u.spl.pc % 4 = 0) (hb : u.spl.pc + 4 ≤ u.grid.codeBytes) (hh : Hits u .fetch 4 (u.grid.code + u.spl.pc) pa) :
    (u.asAgent w).fetchFocus = (u.asAgent w, checkWord false u.spl.left u.spl.pc u.within (BitVec.ofNat 32 (u.rdNum pa 4))) := by
  have h := fetch_hits (s := u.asAgent w) (pc := u.spl.pc) hc h4 hb (hits_asAgent w hh) false u.spl.left u.within
  have hs : (u.asAgent w).focus.stream = false := hst
  rw [State.fetchFocus, hs]
  exact h

/-- What the matrix stream of the focused block fetches where its fetch hits. -/
theorem fetchFocus_stream {u : State} {pa : Nat} (w : FarWho) (hst : u.focus.stream = true) (hc : u.grid.codeCopy = none)
    (h4 : u.ms.pc % 4 = 0) (hb : u.ms.pc + 4 ≤ u.grid.codeBytes) (hh : Hits u .fetch 4 (u.grid.code + u.ms.pc) pa) :
    (u.asAgent w).fetchFocus =
      (u.asAgent w, checkWord true u.ms.left u.ms.pc (fun _ _ => true) (BitVec.ofNat 32 (u.rdNum pa 4))) := by
  have h := fetch_hits (s := u.asAgent w) (pc := u.ms.pc) hc h4 hb (hits_asAgent w hh) true u.ms.left fun _ _ => true
  have hs : (u.asAgent w).focus.stream = true := hst
  rw [State.fetchFocus, hs]
  exact h

/-! ### The turns of the agenda -/

theorem turn_split {s : State} {b g e : Nat} {rest : List Turn} (ha : s.agenda = .split b g e :: rest) :
    turn s = if s.splitMay b g e && s.isNext b g e then
      issueFocus { s with agenda := rest, focus := { blk := b, grp := g, ent := e } } else .next { s with agenda := rest } := by
  rw [turn, ha]; rfl

theorem turn_stream {s : State} {b : Nat} {rest : List Turn} (ha : s.agenda = .stream b :: rest) :
    turn s = if s.streamMay b then issueFocus { s with agenda := rest, focus := { blk := b, stream := true } }
      else .next { s with agenda := rest } := by
  rw [turn, ha]; rfl

theorem turn_event {s : State} {i : Instr} {rest : List Turn} (ha : s.agenda = .event i :: rest) :
    turn s = ({ s with agenda := rest } : State).stir.eventTurn i := by
  rw [turn, ha]; rfl

/-- Before an event only the words of streams that wait are made to be tried again. -/
theorem stir_blkOf (s : State) (k : Nat) :
    s.stir.blkOf k = { s.blkOf k with ms := { (s.blkOf k).ms with waiting := (s.stir.blkOf k).ms.waiting } } := by
  have h := Tab_get_map ({} : Block) (fun e =>
    (e.1, if e.2.ms.waiting && !e.2.ms.heldOnce then { e.2 with ms := { e.2.ms with waiting := false } } else e.2)) (fun _ => rfl) s.blocks k
  have hb : s.stir.blkOf k = Tab.get ({} : Block) (s.blocks.map fun e =>
    (e.1, if e.2.ms.waiting && !e.2.ms.heldOnce then { e.2 with ms := { e.2.ms with waiting := false } } else e.2)) k := rfl
  rcases h with ⟨-, h⟩ | ⟨-, h, h0⟩
  · rw [hb, h]
    simp only [State.blkOf]
    split <;> rfl
  · rw [hb, h, State.blkOf, h0]

/-- Nothing waits at the homes: a turn lets nothing go on. -/
theorem settleTurn_quiet {t : State} (hs : t.snoopHeld = []) (hl : t.later = []) (hr : ∀ y ∈ t.remotes, y.2.poisoned = false) :
    t.settleTurn = t := by
  have hp : t.poisonTurn = t := by
    have hf : (t.remotes.filter fun e => e.2.poisoned) = [] :=
      List.filter_eq_nil_iff.mpr fun y hy => by simp [hr y hy]
    rw [State.poisonTurn, hf]; rfl
  simp only [State.settleTurn, hs, List.isEmpty_nil, if_true, hp, hl]

theorem stepRunsTheWord : Claims.StepRunsTheWord := by
  intro s b g e pa rest i gr x m u v w does next
  refine ⟨fun hc hd hw => ⟨?_, ?_, ?_, ?_⟩, fun ha => ⟨({ s with agenda := rest } : State).stir, rfl, stir_blkOf _, fun hk => ?_, fun hk t he => ?_⟩,
    fun ha hn => ?_, fun ha hn => ?_, fun t => settleTurn_quiet⟩
  · intro ha ⟨hm, hx⟩ hl h4 hb hh hp hv ht
    have htn : turn s = issueFocus u := by rw [turn_split ha, hm, hx]; rfl
    have hck := checkWord_inside (stream := false) (pc := x.pc) (within := u.within) hl (by omega) (decide_eq_false (by omega)) hd hw hv ht
    refine step_word htn rfl ?_ ((fetchFocus_split (u := u) _ rfl hc h4 hb hh).trans (congrArg _ hck))
    have hz : (u.spl.left == 0) = false := beq_false_of_ne hl
    rw [State.takesH, hz, Bool.and_false]; rfl
  · intro ha ⟨hm, hx⟩ hl h4 hb hh hp hbit hf
    have htn : turn s = issueFocus u := by rw [turn_split ha, hm, hx]; rfl
    have hck := checkWord_header (stream := false) (pc := x.pc) (within := u.within) hp hbit nofun hd hw
    rw [← hl] at hck
    refine step_word htn rfl ?_ ((fetchFocus_split (u := u) _ rfl hc h4 hb hh).trans (congrArg _ hck))
    exact takesH_header_may hf
  · intro ha hm hl h4 hb hh hp1 hp2 ht
    have htn : turn s = issueFocus v := by rw [turn_stream ha, hm]; rfl
    have hck := checkWord_inside (stream := true) (pc := m.pc) (within := fun _ _ => true) hl (by omega) (decide_eq_true (by omega)) hd hw
      (fun _ _ => rfl) ht
    exact step_word htn rfl rfl ((fetchFocus_stream (u := v) _ rfl hc h4 hb hh).trans (congrArg _ hck))
  · intro ha hm hl h4 hb hh hp hbit h1 h2 h3
    have htn : turn s = issueFocus v := by rw [turn_stream ha, hm]; rfl
    have hck := checkWord_header (stream := true) (pc := m.pc) (within := fun _ _ => true) hp hbit (fun _ => ⟨h1, h2, h3⟩) hd hw
    rw [← hl] at hck
    exact step_word htn rfl rfl ((fetchFocus_stream (u := v) _ rfl hc h4 hb hh).trans (congrArg _ hck))
  · exact step_of_turn (by rw [turn_event ha, State.eventTurn, hk]; rfl)
  · obtain ⟨h1, h2⟩ := attempt_next (die := 0) he
    refine ⟨fun h => step_of_turn ?_, fun q h => step_of_turn ?_⟩
    · rw [turn_event ha, State.eventTurn, hk, State.attemptOp, h1 h]; rfl
    · rw [turn_event ha, State.eventTurn, hk, State.attemptOp, h2 q h]; rfl
  · have h : (s.splitMay b g e && s.isNext b g e) = false := by simpa [next, Bool.and_eq_false_imp] using hn
    exact step_of_turn (by rw [turn_split ha, h]; rfl)
  · exact step_of_turn (by rw [turn_stream ha, hn]; rfl)

/-! ### The schedulers (R104 to R106) -/

/-- A fold that keeps or replaces its pick answers one of the list. -/
theorem foldl_pick_mem {α : Type} (p : α → α → Prop) [∀ m y, Decidable (p m y)] (l : List α) (a : α) :
    l.foldl (fun m y => if p m y then y else m) a ∈ a :: l := by
  induction l generalizing a with
  | nil => simp
  | cons x t ih =>
    rw [List.foldl_cons]
    rcases List.mem_cons.mp (ih (if p a x then x else a)) with h | h
    · rw [h]; split <;> simp
    · simp [h]

/-- The fold of R105's order answers a least one. -/
theorem foldl_key_least (l : List State.Candidate) (a : State.Candidate) :
    ∀ y ∈ a :: l, ¬ y.key < (l.foldl (fun m y => if y.key < m.key then y else m) a).key := by
  induction l generalizing a with
  | nil => simp
  | cons x t ih =>
    rw [List.foldl_cons]
    generalize hr : t.foldl (fun m y => if y.key < m.key then y else m) (if x.key < a.key then x else a) = r
    have ih' := ih (if x.key < a.key then x else a)
    rw [hr] at ih'
    have hn := ih' _ List.mem_cons_self
    have hax : ¬ a.key < r.key ∧ ¬ x.key < r.key := by
      by_cases h : x.key < a.key
      · rw [if_pos h] at hn
        exact ⟨fun ha => hn (List.lt_trans h ha), hn⟩
      · rw [if_neg h] at hn
        exact ⟨hn, fun hx => hn (List.lt_of_le_of_lt (List.not_lt.mp h) hx)⟩
    intro y hy
    rcases List.mem_cons.mp hy with rfl | hy
    · exact hax.1
    · rcases List.mem_cons.mp hy with rfl | hy
      · exact hax.2
      · exact ih' y (List.mem_cons_of_mem _ hy)

/-- The first of a list in the order of R105 is of the list, and none is before it. -/
theorem firstOf_spec {l : List State.Candidate} {c : State.Candidate} (h : State.firstOf l = some c) :
    c ∈ l ∧ ∀ y ∈ l, ¬ y.key < c.key := by
  cases l with
  | nil => simp [State.firstOf] at h
  | cons a t =>
    rw [State.firstOf] at h
    obtain rfl := Option.some.inj h
    exact ⟨foldl_pick_mem (fun m y => y.key < m.key) t a, foldl_key_least t a⟩

theorem latest_mem {l : List (Nat × Split)} {n : Nat × Split} (h : State.latest l = some n) : n ∈ l := by
  cases l with
  | nil => simp [State.latest] at h
  | cons a t =>
    rw [State.latest] at h
    obtain rfl := Option.some.inj h
    exact foldl_pick_mem (fun m y => m.2.lastIssue < y.2.lastIssue) t a

theorem latest_eq_none {l : List (Nat × Split)} (h : State.latest l = none) : l = [] := by
  cases l with
  | nil => rfl
  | cons a t => simp [State.latest] at h

/-- The entries of a group whose splits may issue. -/
def mayEntries (s : State) (pend : List (Nat × Nat)) (b g : Nat) : List (Nat × Split) :=
  (s.grpOf b g).entries.filter fun e => s.mayWith pend b g e.1

theorem mem_mayEntries {s : State} {pend : List (Nat × Nat)} {b g : Nat} {n : Nat × Split} :
    n ∈ mayEntries s pend b g ↔ n.1 < 4 ∧ n.2 = s.splOf b g n.1 ∧ s.mayWith pend b g n.1 = true := by
  simp only [mayEntries, Group.entries, List.mem_filter, List.mem_map, List.mem_range, State.splOf]
  constructor
  · rintro ⟨⟨e, he, rfl⟩, hm⟩
    exact ⟨he, rfl, hm⟩
  · rintro ⟨h4, h2, hm⟩
    exact ⟨⟨n.1, h4, Prod.ext rfl h2.symm⟩, hm⟩

/-- What a group takes (R106): a split in mid-clause where one may issue, else one of those that may. -/
theorem pickSplit_cases {s : State} {pend : List (Nat × Nat)} {b g : Nat} {n : Nat × Split} (h : s.pickSplit pend b g = some n) :
    n ∈ (mayEntries s pend b g).filter (fun e => e.2.left != 0) ∨
    (mayEntries s pend b g).filter (fun e => e.2.left != 0) = [] ∧ n ∈ mayEntries s pend b g := by
  unfold State.pickSplit at h
  change (match State.latest ((mayEntries s pend b g).filter fun e => e.2.left != 0) with | some e => some e | none => _) = some n at h
  split at h
  · next e he => exact .inl (Option.some.inj h ▸ latest_mem he)
  · next he =>
    refine .inr ⟨latest_eq_none he, ?_⟩
    dsimp only at h
    split at h
    · cases h
    · next e t ht =>
      have hp := foldl_pick_mem (fun (m : Nat × Split) y => y.2.lastIssue < m.2.lastIssue) t e
      rw [Option.some.inj h, ← ht] at hp
      split at hp
      · exact hp
      · exact (List.mem_filter.mp hp).1

/-- The split that a group takes is one of its entries, and may issue. -/
theorem pickSplit_may {s : State} {pend : List (Nat × Nat)} {b g : Nat} {n : Nat × Split} (h : s.pickSplit pend b g = some n) :
    n.2 = s.splOf b g n.1 ∧ s.mayWith pend b g n.1 = true := by
  have hm : n ∈ mayEntries s pend b g := by
    rcases pickSplit_cases h with h | h
    · exact (List.mem_filter.mp h).1
    · exact h.2
  exact (mem_mayEntries.mp hm).2

/-- A group takes a split in mid-clause before any other (R106). -/
theorem pickSplit_midClause {s : State} {pend : List (Nat × Nat)} {b g k : Nat} {n : Nat × Split} (h : s.pickSplit pend b g = some n)
    (hk : k < 4) (hm : s.mayWith pend b g k = true) (hl : (s.splOf b g k).left ≠ 0) : n.2.left ≠ 0 := by
  rcases pickSplit_cases h with h | ⟨h, -⟩
  · simpa using (List.mem_filter.mp h).2
  · have hin : (k, s.splOf b g k) ∈ (mayEntries s pend b g).filter fun e => e.2.left != 0 :=
      List.mem_filter.mpr ⟨mem_mayEntries.mpr ⟨hk, rfl, hm⟩, by simpa using hl⟩
    rw [h] at hin
    simp at hin

/-- A candidate is a group of a live block, with the split that the group takes. -/
theorem mem_candidates {s : State} {c : State.Candidate} : c ∈ s.candidates ↔ ∃ e ∈ s.blocks, e.2.live = true ∧ ∃ g ∈ e.2.groups, ∃ n,
    s.pickSplit s.pendingCores e.1 g.1 = some n ∧
    { port := { die := e.2.die, core := e.2.core, part := g.2.part }, key := s.groupKey s.pendingCores e.1 g.2 n.2,
      focus := { blk := e.1, grp := g.1, ent := n.1 } } = c := by
  simp only [State.candidates, List.mem_flatMap]
  constructor
  · rintro ⟨e, he, hc⟩
    cases hl : e.2.live
    · simp [hl] at hc
    · simp only [hl, Bool.not_true, Bool.false_eq_true, if_false, List.mem_filterMap, Option.map_eq_some_iff] at hc
      exact ⟨e, he, hl, hc⟩
  · rintro ⟨e, he, hl, hc⟩
    refine ⟨e, he, ?_⟩
    simp only [hl, Bool.not_true, Bool.false_eq_true, if_false, List.mem_filterMap, Option.map_eq_some_iff]
    exact hc

theorem Tab_get_of_mem {α : Type} (d : α) {m : Tab α} (hn : (m.map (·.1)).Nodup) {e : Nat × α} (he : e ∈ m) : Tab.get d m e.1 = e.2 := by
  induction m with
  | nil => simp at he
  | cons x t ih =>
    rw [List.map_cons, List.nodup_cons] at hn
    rw [Tab.get]
    rcases List.mem_cons.mp he with rfl | he
    · rw [if_pos rfl]
    · have hx : x.1 ≠ e.1 := fun h => hn.1 (h ▸ List.mem_map_of_mem (f := Prod.fst) he)
      rw [if_neg hx, ih hn.2 he]

/-- What a scheduler takes is a candidate of its own. -/
theorem portPick_candidate {s : State} {p : State.Port} {f : Focus} (h : s.portPick p = some f) :
    ∃ c ∈ s.candidates, c.port = p ∧ c.focus = f := by
  obtain ⟨c, hc, hf⟩ := Option.map_eq_some_iff.mp h
  obtain ⟨hm, hp⟩ := List.mem_filter.mp (firstOf_spec hc).1
  exact ⟨c, hm, by simpa using hp, hf⟩

theorem orElse_eq_some {α : Type} {a b : Option α} {x : α} (h : (a.orElse fun _ => b) = some x) : a = some x ∨ b = some x := by
  cases a with
  | none => exact .inr h
  | some y => exact .inl h

/-- The agent picked is a matrix stream that may issue, or what some scheduler takes. -/
theorem pickAgent_cases {s : State} {f : Focus} (h : s.pickAgent = some f) :
    (∃ b, f = { blk := b, stream := true } ∧ s.streamMay b = true) ∨ ∃ p, s.portPick p = some f := by
  unfold State.pickAgent at h
  dsimp only at h
  obtain h | h : _ ∨ _ := by
    split at h
    · exact (orElse_eq_some h).symm
    · exact orElse_eq_some h
  · obtain ⟨e, he, rfl⟩ := Option.map_eq_some_iff.mp h
    refine .inl ⟨e.1, rfl, ?_⟩
    rcases orElse_eq_some he with he | he
    · have hp := List.find?_some he
      simp only [Bool.and_eq_true] at hp
      exact hp.1.2
    · have hp := List.find?_some he
      simp only [Bool.and_eq_true] at hp
      exact hp.1
  · split at h
    · cases h
    · exact .inr ⟨_, h⟩

/-- With no turn named and no window due, the turn is that of the agent picked. -/
theorem turn_picked {s : State} {f : Focus} (ha : s.agenda = []) (hw : s.windowDue = false) (hu : s.unitsFirst = false)
    (hp : s.pickAgent = some f) : turn s = issueFocus { s with focus := f } := by
  unfold turn
  split
  · next h => rw [ha] at h; cases h
  · simp only [hw, hp, hu, Option.isNone_some, Bool.or_self, Bool.false_eq_true, if_false]

theorem schedulerTakesAnAgent : Claims.SchedulerTakesAnAgent := by
  intro s keyed
  refine ⟨fun f t ha hw hu hp hi => step_of_turn ?_, fun b h => ?_, fun b g e h => ?_, fun b g e k hk hn hm hl => ?_, fun p c h => ?_⟩
  · rw [turn_picked ha hw hu hp, hi]
  · rcases pickAgent_cases h with ⟨b', hb, hm⟩ | ⟨p, hp⟩
    · cases hb; exact hm
    · obtain ⟨c, hc, -, hf⟩ := portPick_candidate hp
      obtain ⟨e, -, -, g, -, n, -, rfl⟩ := mem_candidates.mp hc
      exact absurd (congrArg Focus.stream hf) Bool.false_ne_true
  · rcases pickAgent_cases h with ⟨b', hb, -⟩ | ⟨p, hp⟩
    · cases hb
    · obtain ⟨c, hc, rfl, hf⟩ := portPick_candidate hp
      obtain ⟨x, hx, -, y, hy, n, hn, rfl⟩ := mem_candidates.mp hc
      cases hf
      refine ⟨(pickSplit_may hn).2, fun ⟨hk, hg⟩ => ?_⟩
      have hb : s.blkOf x.1 = x.2 := Tab_get_of_mem _ hk hx
      have hgr : s.grpOf x.1 y.1 = y.2 := by rw [State.grpOf, hb]; exact Tab_get_of_mem _ (hg x hx) hy
      rw [State.isNext, State.portOf, hb, hgr, hp, beq_self_eq_true]
  · obtain ⟨c, hc, -, hf⟩ := portPick_candidate (eq_of_beq hn)
    obtain ⟨x, -, -, y, -, n, hp, rfl⟩ := mem_candidates.mp hc
    cases hf
    have h := pickSplit_midClause hp hk hm hl
    rwa [(pickSplit_may hp).1] at h
  · obtain ⟨-, hmin⟩ := firstOf_spec h
    exact ⟨by rw [State.portPick, h]; rfl, fun y hy hp => hmin y (List.mem_filter.mpr ⟨hy, by simpa using hp⟩)⟩

/-- Settles O52, from its two claims. -/
theorem schedulingAndIssue : Obligations.SchedulingAndIssue := ⟨stepRunsTheWord, schedulerTakesAnAgent⟩

end Sys2Proof.Machine
end

section
/-! PROOF. The answer of a home to a combined SCATADD (R374): it carries no bytes, where the claim says the old value. -/

namespace Sys2Proof.Machine

/-- What a step has said to the outside; nothing where it stops. -/
def outboxAfter : Host.Outcome State Fault Refusal → List Out
  | .next t => t.outbox
  | _ => []

/-- A module with number 0 whose import table at 0 has one entry: 2 MiB from 0 for reads, writes and atomics of module 1, partition 0, as
function 0 (R372). None of its links is up. -/
def scataddHome : State := { mem := [(0x0A, 0x20), (0x10, 1), (0x14, 7)] }

/-- A combined SCATADD of module 1: add 1 to the word at offset 0x100 (R374). -/
def scataddMsg : RemoteMsg := { id := 9, srcModule := 1, partition := 0, dest := 0, offset := 0x100, op := .addList false 4 [1] }

/-- Refutes O45: the home admits and performs scataddMsg, and its answer is empty, as only ATOM's old value returns (R374); the claim has it
answer the four bytes of the old value. -/
theorem not_remoteModules : ¬ Obligations.RemoteModules := by
  rintro ⟨hHome, -⟩
  obtain ⟨-, hOwn⟩ := (hHome scataddHome scataddMsg).2 (by decide +kernel)
  obtain ⟨-, hAdmitted⟩ := hOwn (by decide +kernel)
  obtain ⟨-, -, -, hFree⟩ := hAdmitted 0 (by decide +kernel)
  obtain ⟨-, hPerformed⟩ := hFree (by decide +kernel) (by decide +kernel)
  obtain ⟨-, -, -, -, -, hAddList⟩ := hPerformed (by decide +kernel) (fun _ => by decide +kernel)
  have hAnswer := congrArg outboxAfter (hAddList false 4 [1] rfl (by decide +kernel))
  have hSaid : outboxAfter (exec (.remoteMessage scataddMsg) scataddHome) = [.answer 9 (.done [])] := by decide +kernel
  rw [hSaid] at hAnswer
  exact absurd hAnswer (by decide +kernel)

end Sys2Proof.Machine
end

section
/-! PROOF. The governor (R108, R109), the waits that end by time (R105, R156, R177), and the power cap (R449). -/

namespace Sys2Proof.Machine

/-! ### The governor's events -/

/-- What the start of a window of a core does to a block: its matrix stream, where an MMA was held, tries again (R109). -/
def windowRetry (d c : Nat) (x : Block) : Block :=
  if x.die = d ∧ x.core = c ∧ x.ms.heldOnce = true then { x with ms := { x.ms with waiting := false } } else x

theorem blkOf_windowStart (s : State) (d c i : Nat) : (s.windowStart d c).blkOf i = windowRetry d c (s.blkOf i) :=
  Tab.get_map _ (fun _ => windowRetry d c) s.blocks i (if_neg fun h => Bool.false_ne_true h.2.2)

/-- A die that is changed under a condition only, which may be tested as a Bool. -/
theorem dieOf_modDie_if (s : State) (d i : Nat) {up : Bool} {p : Prop} [Decidable p] (h : up = true ↔ p) (f : Die → Die) :
    (s.modDie d fun y => if up then f y else y).dieOf i = if i = d ∧ p then f (s.dieOf d) else s.dieOf i := by
  rw [State.dieOf_modDie]
  by_cases hi : i = d
  · subst hi
    simp only [if_true, true_and, h]
  · rw [if_neg fun h => hi h.symm, if_neg fun h => hi h.1]

/-- The claim's form of the condition under which the end of a window raises a budget (R109). -/
theorem raised_iff (x : Core) (y : Die) : (x.heldWin && decide (x.b < y.govMax) && decide (y.stock > 0)) = true ↔
    x.heldWin = true ∧ x.b < y.govMax ∧ 0 < y.stock := by
  rw [Bool.and_eq_true, Bool.and_eq_true, decide_eq_true_eq, decide_eq_true_eq, and_assoc]

/-- Listing cores of a die changes the table of cores at most, and each core reads as before. -/
theorem listCores_eq (s : State) (d : Nat) (cs : List Nat) : ∃ cores, cs.foldl (fun s c => s.modCore d c id) s = { s with cores := cores } ∧
    ∀ q, Tab.get {} cores q = Tab.get {} s.cores q := by
  induction cs generalizing s with
  | nil => exact ⟨s.cores, rfl, fun _ => rfl⟩
  | cons c t ih =>
    obtain ⟨cores, hList, hRead⟩ := ih (s.modCore d c id)
    refine ⟨cores, hList, fun q => (hRead q).trans ?_⟩
    rw [State.modCore, id, Tab.get_set]
    split
    · next h => rw [State.coreOf, h]
    · rfl

/-- A write of GOVCTL keeps its implemented bits (R108); of the cores it changes nothing that can be read. -/
theorem exec_govctlWrite_eq (s : State) (d v : Nat) : ∃ cores, exec (.govctlWrite d v) s =
      .next ({ s with cores := cores }.modDie d fun y => { y with govctl := BitVec.ofNat 32 v &&& 0x000FF0FF }) ∧
    ∀ q, Tab.get {} cores q = Tab.get {} s.cores q := by
  obtain ⟨cores, hList, hRead⟩ := listCores_eq s d (List.range 96)
  exact ⟨cores, by rw [exec_govctlWrite, execGovctlWrite, hList], hRead⟩

/-- The governor's events and the ends of waits, a clause for each event. -/
theorem governorAndTimers : Claims.GovernorAndTimers := by
  intro s d c v b g e since
  obtain ⟨cores, hGovctl, hRead⟩ := exec_govctlWrite_eq s d v
  refine ⟨⟨_, rfl, rfl, fun i => ?windowEndDie, fun i k => ?windowEndCore⟩,
    ⟨_, rfl, rfl, fun i k => ?windowStartCore, blkOf_windowStart s d c⟩, rfl,
    ⟨_, hGovctl, rfl, fun i => ?govctlDie, fun i k => hRead _⟩, fun h => ?sleep, fun h => ?merge, ?overdue⟩
  case windowEndDie => exact dieOf_modDie_if s d i (raised_iff (s.coreOf d c) (s.dieOf d)) fun y => { y with stock := y.stock - 1, grant := c }
  case windowEndCore =>
    refine (State.coreOf_modCore _ d c i k _).trans (ite_congr (propext eq_comm) (fun _ => ?_) fun _ => rfl)
    simp only [raised_iff]
    simp only [Bool.and_eq_true, Bool.not_eq_true', Nat.min_comm (b := (s.dieOf d).govMax)]
    rfl
  case windowStartCore => exact (Tab.get_set _ _ _ _ _).trans (ite_congr (propext eq_comm) (fun _ => rfl) fun _ => rfl)
  case govctlDie => exact (State.dieOf_modDie _ d i _).trans (ite_congr (propext eq_comm) (fun _ => rfl) fun _ => rfl)
  case sleep => rw [exec_sleepExpire, execSleepExpire, h]
  case merge => rw [exec_mergeWaitTimeout, execMergeWaitTimeout, h]
  case overdue =>
    rw [exec_groupOverdue, execGroupOverdue]
    simp only [Bool.and_eq_true, decide_eq_true_eq, ge_iff_le]

/-! ### The power cap (R449) -/

/-- What a sample of the module's power does to a die: its own limit goes down by one above the cap and up by one below it (R449). -/
def sampleDie (cap watts : Nat) (x : Die) : Die :=
  let full := { x with effMax := 8 }.govMax
  let eff := min x.effMax full
  { x with effMax := if watts > cap then max x.govFloor (eff - 1) else if watts < cap then min full (eff + 1) else eff }

/-- A sample applies sampleDie to every die that is listed. -/
theorem dieOf_powerSample (s : State) (watts amps d : Nat) (h : s.dies.has d = true) {t : State}
    (ht : exec (.powerSample watts amps) s = .next t) :
    t.dieOf d = sampleDie (s.pwrctl.toNat % 65536) watts (s.dieOf d) := by
  obtain rfl := Host.Outcome.next.inj ht
  rcases Tab_get_map ({} : Die) (fun e => (e.1, sampleDie (s.pwrctl.toNat % 65536) watts e.2)) (fun _ => rfl) s.dies d with
    ⟨-, hd⟩ | ⟨hn, -⟩
  · exact hd
  · exact absurd (h.symm.trans hn) (by decide)

/-- The full limit is Max of GOVCTL, where 0 and more than 8 mean 8 (R108). -/
theorem govMax_full (x : Die) : { x with effMax := 8 }.govMax =
    if bits x.govctl.toNat 19 16 = 0 ∨ bits x.govctl.toNat 19 16 > 8 then 8 else bits x.govctl.toNat 19 16 := by
  refine Nat.min_eq_left ?_
  dsimp only
  split <;> omega

/-- The power cap and its sample: a value in range or not, then the limit of a listed die. -/
theorem powerCapping : Claims.PowerCapping := by
  intro s v watts amps
  refine ⟨fun h => ?inRange, fun h => ?ignored, _, rfl, rfl, rfl, fun d h => ?limit⟩
  case inRange => rw [exec_pwrctlWrite, execPwrctlWrite, if_pos h]
  case ignored => rw [exec_pwrctlWrite, execPwrctlWrite, if_neg (by omega)]
  case limit => rw [dieOf_powerSample s watts amps d h rfl, sampleDie, govMax_full]

/-- Settles O40, from its two claims. -/
theorem powerAndTimers : Obligations.PowerAndTimers := ⟨governorAndTimers, powerCapping⟩

end Sys2Proof.Machine
end
